-- ==== Sys2Proof/Word.lean ====
section
/-! DEFINITION. The words of the machine and the sparse tables its state is made of. -/

namespace Sys2Proof

/-- A scalar register, a short-form instruction, a 64-bit word of memory (R5, R133). -/
abbrev Word := BitVec 64

/-- The smallest addressable unit of the device address space. -/
abbrev Byte := BitVec 8

/-- A 48-bit device address (R133). -/
abbrev Ptr := BitVec 48

/-- A register of the emulated window (R6). -/
abbrev Reg := BitVec 32

/-- An A40 code (R50). -/
abbrev A40 := BitVec 40

/-- Sparse data by key: the first entry of a key counts, an unlisted key holds a default. -/
abbrev Table (α : Type) := List (Nat × α)

/-- Memory: addresses strictly rising, and no entry that holds 0 (an unlisted byte reads 0). -/
abbrev Memory := List Host.Cell

/-- The three streams of a croft (R133, R237). -/
inductive Strm where
  | F | B | U
deriving DecidableEq, Repr

/-- The number of a stream in RDCTX and in events (R213). -/
def Strm.num : Strm → Nat
  | .F => 0
  | .B => 1
  | .U => 2

end Sys2Proof
end

