-- ==== Sys2Proof/Syntax.lean ====
section
/-! DEFINITION. The commands of the block: one constructor for each row of the table of operations and
events, and the messages and descriptors they carry. -/

namespace Sys2Proof

/-- A logical croft, 0–287 (R11, R12). -/
abbrev CroftId := Fin 288

/-- A context, C0–C15. -/
abbrev CtxId := Fin 16

/-- A step descriptor of SUBMIT (R367), its reserved bits left out. -/
structure StepDesc where
  step     : Nat
  pcF      : Ptr
  pcB      : Ptr
  pcU      : Ptr
  batch    : Nat
  batchLen : Nat
  ballots  : Nat
  upcmts   : Nat
  progVer  : Word
deriving DecidableEq, Repr

/-- A ballot (R370). `outcome`: 0 PASS, 1 RESCALE, 2 CLIMB, 3 SKIP. `layers` is the CLIMB set,
`xmax` the group maxima by TID − NET_XTIDB. -/
structure Ballot where
  step    : Nat
  gtag    : Nat
  att     : Nat
  outcome : Nat
  skipWhy : Nat
  merged  : Nat
  layers  : List Nat
  xmax    : Table A40
deriving DecidableEq, Repr

/-- A decision (R372). `outcome`: 0 COMMIT, 1 RESCALE, 2 CLIMB, 3 SKIPPED, 4 ABORT, 5 PARK. -/
structure Decision where
  step     : Nat
  gtag     : Nat
  att      : Nat
  outcome  : Nat
  skipWhy  : Nat
  flipBell : Nat
  layers   : List Nat
  xmax     : Table A40
deriving DecidableEq, Repr

/-- SES_OPEN (R452). -/
structure SesOpen where
  ctx      : Nat
  resume   : Bool
  abiMajor : Nat
  abiMinor : Nat
  token    : Word
  hostQpn  : Nat
  featHost : Reg
  evrAddr  : Nat
  evrKey   : Reg
  evrN     : Nat
  lease    : Nat
  nonce    : Reg
  hostIp   : BitVec 128
deriving DecidableEq, Repr

/-- The REDUCE_WRITE header (R442); `side` is AMAX in [39:0] and TID in [63:40] (R314). -/
structure ReduceHdr where
  step : Nat
  att  : Nat
  fmt  : Nat
  last : Bool
  pos  : Nat
  side : Word
deriving DecidableEq, Repr

/-- The SIG header (R443) and a hold-buffer entry's contents (R270). -/
structure SigHdr where
  addr      : Nat
  amount    : BitVec 32
  watermark : Nat
deriving DecidableEq, Repr

/-- One address of a TAKEOVER message (R445): a port, a subport and an IPv4 (as ::ffff:a.b.c.d) or
IPv6 address. -/
structure PortAddr where
  port : Nat
  sub  : Nat
  addr : BitVec 128
deriving DecidableEq, Repr

/-- What the power block measures over a Bell interval (R514, R516, R518, R535): input power, compute-core
rail power and total rail power in W, input voltage in mV, input current in units of 10 mA, and the energy in
joules since the last Bell, or since module reset at the first one. -/
structure PowerMeas where
  pin    : Nat
  pc     : Nat
  rails  : Nat
  vin    : Nat
  iin    : Nat
  joules : Nat
deriving DecidableEq, Repr

/-- The hottest sensor of each domain in °C (R520): compute dies 0 and 1, hub, HBM stacks 0–7. -/
structure Temps where
  die0 : Nat
  die1 : Nat
  hub  : Nat
  hbm  : List Nat
deriving DecidableEq, Repr

/-- Where an uncorrectable error lies: the rows 0–8 of the table of R409, in table order, or a croft's
SRAM, a slot position of the hub SRAM (R326), or a firmware image of a core. -/
inductive UeWhere where
  | row (n : Fin 9)
  | croftSram (c : CroftId)
  | slot (pos : Nat)
deriving DecidableEq, Repr

namespace Machine

/-- A statistics record (R101); CROFT 0xFFFF in a merged record. -/
structure StatRec where
  step      : Nat := 0
  tid       : Nat := 0
  fmt       : Nat := 0
  blk       : Nat := 0
  mode      : Nat := 0
  croft     : Nat := 0
  seq       : Nat := 0
  elements  : Nat := 0
  zeros     : Nat := 0
  saturated : Nat := 0
  nonfinite : Nat := 0
  underflow : Nat := 0
  satblk    : Nat := 0
  cometOvf  : Nat := 0
  extracted : Nat := 0
  round     : Nat := 0
  rotate    : Nat := 0
  countSat  : Bool := false
  attempt   : Nat := 0
  amax      : A40 := 0
  errsq     : A40 := 0
deriving DecidableEq, Repr

/-- A set of numerics values that waits for its apply step (R287). -/
structure PendingSet where
  step    : Nat
  rcp     : Option (List (Reg × Reg))
  thr     : Option (Reg × Reg)
  rung    : Option (Table Nat)
deriving DecidableEq, Repr

/-- A module's numerics state, as its numerics store and its twin hold it (R387, R401): history, rung state, recipe working set and
thresholds, pending set, and the climbs that later steps take over. -/
structure NumStore where
  history : Table (List StatRec) := []
  rungs   : Table Nat := []
  working : List (Reg × Reg) := []
  thr0    : Reg := 0x00040010
  thr1    : Reg := 0x400000FE
  pending : Option PendingSet := none
  climbs  : List (Nat × Table Nat) := []
deriving DecidableEq, Repr

/-- A held step as the twin holds it (R387): its descriptor, with the attempt and whether its entry had opened. -/
structure HeldCopy where
  desc    : StepDesc
  attempt : Nat
  opened  : Bool
deriving DecidableEq, Repr

/-- The twin's copies of one context, as it writes them into the stand-in (R387, R389 order 5): generations, the last committed
step, held steps, numerics state, and the bytes of the image area (R406). The state area and the batches arrive as WRITEs. -/
structure TwinCopy where
  ctx      : Nat
  genState : Nat
  genMap   : Nat
  lastCmt  : Option Nat
  held     : List HeldCopy
  store    : NumStore
  image    : List Byte
deriving DecidableEq, Repr

/-- What the headers of a received frame say (R423, R424, R427, R439): its length from the destination address through the FCS, the
PCP and VID of its tag, DSCP, whether it is marked CE, whether it has no IPv4 fragment, IPv4 option or IPv6 extension header, and its
BTH opcode. -/
structure Frame where
  len    : Nat
  tag    : Option (Nat × Nat)
  dscp   : Nat
  ce     : Bool
  plain  : Bool
  opcode : Nat
deriving DecidableEq, Repr

/-- A number that an acknowledgment brings, and whether its packet was marked CE (R427). -/
structure Marked where
  val : Nat
  ce  : Bool
deriving DecidableEq, Repr

/-- The data of a READ response, and whether a packet of it was marked CE (R427). -/
structure Landed where
  data : List Byte
  ce   : Bool
deriving DecidableEq, Repr

/-- Who sent a UD message (R452): queue pair, address, Q_KEY, and the frame's headers. -/
structure Sender where
  qpn  : Nat
  addr : BitVec 128
  qkey : Reg
  fr   : Frame
deriving DecidableEq, Repr

/-- An echo request's data and its frame's headers (R421, R423). -/
structure Echo where
  data : List Byte
  fr   : Frame
deriving DecidableEq, Repr

/-- What an Announce message says of its grandmaster (R446), as far as the best master clock algorithm compares it, lower values
first: priority1, the clock's quality (class, accuracy, variance and priority2 in one number), and its identity. -/
structure Master where
  priority1 : Nat
  quality   : Nat
  identity  : Nat
deriving DecidableEq, Repr

/-- The VOTE header (R444). -/
structure VoteHdr where
  kind : Nat
  gtag : Nat
  len  : Nat
  bell : Nat
deriving DecidableEq, Repr

/-- How a group-control message reaches the firmware: in VOTE packets of a queue pair from a PSN on (R439–R441, R445), or taken by
its queue pair before, as a message that has waited for a firmware core. -/
inductive Via where
  | packet (qpn psn : Nat) (fr : Frame) (h : VoteHdr)
  | taken
deriving DecidableEq, Repr

end Machine

open Machine

/-- One command of the block: an instruction a stream offers, the finish of something in flight, a message
or frame that arrives, a register write or mailbox command of the host, a timer that expires, or an event
on a pin. -/
inductive Instr where
  -- control class (R206–R215, R145)
  | nop (c : CroftId) (st : Strm) (w : Word)
  | jmp (c : CroftId) (st : Strm) (w : Word)
  | br (c : CroftId) (st : Strm) (w : Word)
  | loop (c : CroftId) (st : Strm) (w : Word)
  | call (c : CroftId) (st : Strm) (w : Word)
  | ret (c : CroftId) (st : Strm) (w : Word)
  | sli (c : CroftId) (st : Strm) (w : Word)
  | salu (c : CroftId) (st : Strm) (w : Word)
  | pset (c : CroftId) (st : Strm) (w : Word)
  | bellw (c : CroftId) (st : Strm) (w : Word)
  | rdstat (c : CroftId) (st : Strm) (w : Word)
  | rdctx (c : CroftId) (st : Strm) (w : Word)
  | halt (c : CroftId) (st : Strm) (w : Word)
  | reservedOpcode (c : CroftId) (st : Strm) (w : Word)
  -- matrix class (R171–R182)
  | mma (c : CroftId) (st : Strm) (w : BitVec 128)
  | mmat (c : CroftId) (st : Strm) (w : BitVec 128)
  | drain (c : CroftId) (st : Strm) (w : BitVec 128)
  | accld (c : CroftId) (st : Strm) (w : BitVec 128)
  | accst (c : CroftId) (st : Strm) (w : BitVec 128)
  | comet (c : CroftId) (st : Strm) (w : BitVec 128)
  -- convert class (R183–R190)
  | cvt (c : CroftId) (st : Strm) (w : Word)
  | cvtt (c : CroftId) (st : Strm) (w : Word)
  | rot (c : CroftId) (st : Strm) (w : Word)
  | stat (c : CroftId) (st : Strm) (w : Word)
  -- vector class (R191–R196)
  | vadd (c : CroftId) (st : Strm) (w : Word)
  | vsub (c : CroftId) (st : Strm) (w : Word)
  | vmul (c : CroftId) (st : Strm) (w : Word)
  | vfma (c : CroftId) (st : Strm) (w : Word)
  | vmax (c : CroftId) (st : Strm) (w : Word)
  | vmin (c : CroftId) (st : Strm) (w : Word)
  | vscl (c : CroftId) (st : Strm) (w : Word)
  | vun (c : CroftId) (st : Strm) (w : Word)
  | vred (c : CroftId) (st : Strm) (w : Word)
  | vbcast (c : CroftId) (st : Strm) (w : Word)
  | vcmpsel (c : CroftId) (st : Strm) (w : Word)
  | vmov (c : CroftId) (st : Strm) (w : Word)
  -- data-move class (R197–R204)
  | ld (c : CroftId) (st : Strm) (w : Word)
  | st (c : CroftId) (st : Strm) (w : Word)
  | ldt (c : CroftId) (st : Strm) (w : Word)
  | stt (c : CroftId) (st : Strm) (w : Word)
  | gather (c : CroftId) (st : Strm) (w : Word)
  | prefetch (c : CroftId) (st : Strm) (w : Word)
  -- sync class (R216–R220)
  | wait (c : CroftId) (st : Strm) (w : Word)
  | sadd (c : CroftId) (st : Strm) (w : Word)
  | ssub (c : CroftId) (st : Strm) (w : Word)
  | sread (c : CroftId) (st : Strm) (w : Word)
  -- network class (R221–R232)
  | put (c : CroftId) (st : Strm) (w : BitVec 128)
  | get (c : CroftId) (st : Strm) (w : BitVec 128)
  | redw (c : CroftId) (st : Strm) (w : BitVec 128)
  | nsig (c : CroftId) (st : Strm) (w : BitVec 128)
  | vote (c : CroftId) (st : Strm) (w : BitVec 128)
  -- update class (R233–R236)
  | upel (c : CroftId) (st : Strm) (w : BitVec 128)
  | uplw (c : CroftId) (st : Strm) (w : BitVec 128)
  | upskip (c : CroftId) (st : Strm) (w : BitVec 128)
  | upcmt (c : CroftId) (st : Strm) (w : BitVec 128)
  -- the finish of what is in flight; `id` names the instruction
  | instructionWindowArrival (c : CroftId) (st : Strm) (window : Nat)
  | mmaBlockLanding (id : Nat)
  | conversionComplete (id : Nat)
  | statRingWrite (id : Nat)
  | dataMoveComplete (id : Nat) (farData : Landed)
  | prefetchBlockLanding (id : Nat) (farData : Landed)
  | farMemoryTimeout (id : Nat)
  | putAck (id : Marked)
  | getResponse (id : Nat) (data : Landed)
  | redwAck (id : Marked)
  | nsigAck (id : Marked)
  | voteRecorded (id : Nat)
  | upelComplete (id : Nat)
  | uplwComplete (id : Nat)
  -- Tally
  | waitRegistration (c : CroftId) (st : Strm)
  | wakeNotice (c : CroftId) (wire : Nat)
  | withdrawalConfirm (c : CroftId) (wire : Nat)
  | tallyDeferredApply (bank : Nat)
  | contextRestoreDone
  -- the Bell, sessions and the group
  | bell (m : PowerMeas) (time : Nat)
  | leaseLapse (ctx : CtxId)
  | releaseTimeout (ctx : CtxId)
  | heartbeatTimeout (dev : Nat)
  | parentSilence
  | suspectDeclare (dev : Nat)
  | waitStall (c : CroftId) (st : Strm)
  | heartbeat (v : Via) (src : Nat) (restart : Bool) (quiet : BitVec 16)
  | report (v : Via) (gtag reporter suspect bell reason : Nat)
  | notice (v : Via) (suspect kind : Nat)
  | probe (v : Via) (src suspect : Nat)
  | probeReply (v : Via) (dev : Nat)
  | ballot (v : Via) (src : Nat) (b : Ballot)
  | decision (v : Via) (d : Decision)
  | state (v : Via) (src : Nat) (d : Option Decision)
  | resume (v : Via) (gtag bell : Nat) (mask : BitVec 16)
  | quietReached (ctx : CtxId)
  | takeover (v : Via) (dev twin : Nat) (addrs : List PortAddr)
  | gratuitousArp
  | groupLoss (v : Via) (dev : Nat) (mask : BitVec 16)
  | sesOpen (port sub : Nat) (src : Sender) (m : SesOpen)
  -- packets on queue pairs
  | reduceWrite (qpn psn : Nat) (fr : Frame) (h : ReduceHdr) (records : List (List Byte))
  | sig (qpn psn : Nat) (fr : Frame) (h : SigHdr) (seen : Bool)
  | holdSigApply (qpn : Nat)
  | rdmaWriteInbound (qpn psn : Nat) (fr : Frame) (va : Nat) (key : Reg) (data : List Byte)
  | rdmaReadInbound (qpn psn : Nat) (fr : Frame) (va : Nat) (key : Reg) (len : Nat)
  | fetchAndAdd (qpn psn : Nat) (fr : Frame) (va : Nat) (key : Reg) (add : Word)
  | compareAndSwap (qpn psn : Nat) (fr : Frame) (va : Nat) (key : Reg) (cmp swap : Word)
  | writeWithImmediate (qpn psn : Nat) (fr : Frame) (va : Nat) (key : Reg) (data : List Byte) (imm : Reg)
  | sendInbound (qpn psn : Nat) (fr : Frame) (data : List Byte)
  | rnrNak (qpn psn : Nat) (timer : Marked)
  | ackTimeout (qpn : Nat)
  | rnrTimer (qpn : Nat)
  | cnp (qpn : Nat)
  | alphaDecay (qpn : Nat)
  | rateRecovery (qpn : Nat)
  -- ports and time
  | pfcFrame (port sub prio : Nat) (xoff : Bool)
  | pfcStorm (port sub prio : Nat)
  | arpRequest (port sub : Nat) (target : BitVec 32)
  | neighborSolicitation (port sub : Nat) (target : BitVec 128)
  | echoRequest (port sub : Nat) (target : BitVec 128) (echo : Echo)
  | macResolutionTimeout (qpn : Nat)
  | contextFetchDone (qpn : Nat)
  | linkDown (port sub : Nat)
  | linkUp (port sub : Nat)
  | ptpSync (port : Nat) (offset : Int)
  | syncTimeout
  | ppsEdge (delta : Int)
  -- registers
  | registerWrite (sess : CtxId) (off : Nat) (v : Reg)
  | sesRenew (sess : CtxId) (v : Reg)
  | applyRcp (sess : CtxId)
  | applyThr (sess : CtxId)
  | applyRung (sess : CtxId)
  | ledgerRegionAllocate (ctx : CtxId) (gib : Nat)
  -- mailbox
  | renew (sess : CtxId) (seq : Nat)
  | closeDetach (sess : CtxId) (seq : Nat)
  | closeRelease (sess : CtxId) (seq : Nat)
  | launch (sess : CtxId) (seq : Nat)
  | switch (sess : CtxId) (seq : Nat) (ctx bell : Nat)
  | submit (sess : CtxId) (seq : Nat) (descs : List StepDesc)
  | semAdd (sess : CtxId) (seq : Nat) (addr : Nat) (amount : BitVec 32)
  | qpCreate (sess : CtxId) (seq : Nat) (bytes : List Byte)
  | qpModify (sess : CtxId) (seq : Nat) (qpn : Nat) (bytes : List Byte)
  | qpQuery (sess : CtxId) (seq : Nat) (qpn : Nat)
  | qpDestroy (sess : CtxId) (seq : Nat) (qpn : Nat)
  | portAddr (sess : CtxId) (seq : Nat) (port sub : Nat) (ipv4 : BitVec 32) (ipv6 : BitVec 128)
  | bellSet (sess : CtxId) (seq : Nat) (epoch period : Nat)
  | fwStage (sess : CtxId) (seq : Nat) (addr len : Nat)
  | stagingDone (flashOk : Bool)
  | fwActivate (sess : CtxId) (seq : Nat)
  | fwRestart (sess : CtxId) (seq : Nat) (core : Nat)
  | fwCatalogue (sess : CtxId) (seq : Nat) (addr len : Nat)
  | attest (sess : CtxId) (seq : Nat) (addr : Nat) (key : Reg) (nonce : BitVec 256)
  | identity (sess : CtxId) (seq : Nat) (addr : Nat) (key : Reg)
  | cfgUpdate (sess : CtxId) (seq : Nat) (data : List Byte) (flashOk : Bool)
  | dbgChallenge (sess : CtxId) (seq : Nat)
  | dbgUnlock (sess : CtxId) (seq : Nat) (token : List Byte)
  | dbgRead (sess : CtxId) (seq : Nat) (dev host blocks : Nat)
  | dbgWrite (sess : CtxId) (seq : Nat) (dev blocks : Nat) (data : List Byte)
  | hlthDump (sess : CtxId) (seq : Nat) (addr : Nat) (key : Reg)
  -- events, logs and firmware
  | eventFlush (ctx : CtxId)
  | logCopy
  | watchdogExpiry (core : Fin 8)
  | coreRunning (core : Fin 8)
  | restartTimeout (core : Fin 8)
  | activationLapse
  | confirmation
  -- power, start-up, sideband, health
  | inputTurnOn (absent10s : Bool) (straps : Fin 8)
  | undervoltage
  | overvoltage
  | pwrAlert
  | alertEnd
  | sensorRead (t : Temps)
  | tripClear (domain : Nat)
  | resetN (straps : Fin 8)
  | sidebandReset (straps : Fin 8)
  | setdasa (static dynamic : Nat)
  | entdaa (dynamic : Nat)
  | sidebandWrite (index : Nat) (v : Option Reg)
  | powerGoodTimeout
  | boot
  | hbmTrainDone (ok : Bool)
  | linkUpTimeout
  | grandmasterTimeout
  | healthDailyUpdate (ce24 : List Nat) (eye : List Nat)
  | ringOscillatorMeasure (drift0 drift1 : Int)
  -- faults, Mill, numerics
  | patrolScrub (ue : Option (Fin 9 × Nat))
  | croftFault (c : CroftId)
  | remapSelfTestDone (c : CroftId) (ok : Bool)
  | uncorrectableError (place : UeWhere) (addr : Nat) (repaired : Bool)
  | frontHandover (pos : Nat)
  | stationTileDone (stack : Fin 8)
  | mirrorAck (id : Marked)
  | twinLedgerAck (ctx : CtxId) (step : Marked)
  | numericsCheck (ctx : CtxId) (step : Nat)
  | gatherEntryComplete (ctx : CtxId) (entry : Marked)
  | remoteAccessError (qpn psn : Nat) (syndrome : Marked)
  | semaphoreChangeApplied (id : Nat)
  | upcmtRecorded (id : Nat)
  | upskipRecorded (id : Nat)
  | vectorComplete (id : Nat)
  | rotationComplete (id : Nat)
  | cometComplete (id : Nat)
  | stateTransferDone (copies : List TwinCopy)
  | announce (port domain : Nat) (m : Master)
  | delayReq (port : Nat) (peer : Bool)
deriving DecidableEq, Repr

end Sys2Proof
end

