-- ==== Sys2Proof/WellFormed.lean ====
section
/-! DEFINITION. Which commands are well formed: the major opcode of an instruction's word is its row's (R145),
and the fields of an event or a message lie in their ranges (R11, R417, R434). -/

namespace Sys2Proof

/-- The major opcode in bits [63:56] of an instruction's first word (R137). -/
def opcodeOf {n : Nat} (w : BitVec n) : Nat := w.toNat / 2 ^ 56 % 256

/-- The major opcodes of R145. -/
def assignedOpcodes : List Nat :=
  [0x00, 0x01, 0x02, 0x03, 0x04, 0x05, 0x06, 0x07, 0x08, 0x09, 0x0A, 0x0B, 0x0C,
   0x10, 0x11, 0x12, 0x13, 0x14, 0x15, 0x20, 0x21, 0x22, 0x23,
   0x30, 0x31, 0x32, 0x33, 0x34, 0x35, 0x36, 0x37, 0x38, 0x39, 0x3A, 0x3B,
   0x40, 0x41, 0x42, 0x43, 0x44, 0x45, 0x50, 0x51, 0x52, 0x53,
   0x60, 0x61, 0x62, 0x63, 0x64, 0x70, 0x71, 0x72, 0x73]

/-- A port 0–7 and a subport 0–3 (R416, R417). -/
def portOk (port sub : Nat) : Bool := port < 8 && sub < 4

/-- A queue pair number (R434) and a PSN. -/
def qpOk (qpn psn : Nat) : Bool := qpn < 2 ^ 20 && psn < 2 ^ 24

open Machine

/-- A frame's fields in their ranges, and one of the BTH opcodes of its row: R439's, or those of RoCE v2 (R430; log entry 128). -/
def Machine.Frame.ok (fr : Frame) (ops : List Nat) : Bool :=
  ops.contains fr.opcode && fr.dscp < 64 && (match fr.tag with | some t => t.1 < 8 && t.2 < 4096 | none => true)

/-- A group-control message by its VOTE kind (R439, R445): the packet that starts it is VOTE_FIRST or VOTE_ONLY. -/
def Machine.Via.ok (v : Via) (kind : Nat) : Bool :=
  match v with
  | .packet n p fr h => qpOk n p && fr.ok [0xC2, 0xC5] && h.kind == kind && h.gtag < 65536 && 8 ≤ h.len && h.len ≤ 65536
  | .taken => true

/-- Is the command well formed? -/
def Instr.wf : Instr → Bool
  | .nop _ _ w => opcodeOf w == 0x00
  | .jmp _ _ w => opcodeOf w == 0x01
  | .br _ _ w => opcodeOf w == 0x02
  | .loop _ _ w => opcodeOf w == 0x03
  | .call _ _ w => opcodeOf w == 0x04
  | .ret _ _ w => opcodeOf w == 0x05
  | .sli _ _ w => opcodeOf w == 0x06
  | .salu _ _ w => opcodeOf w == 0x07
  | .pset _ _ w => opcodeOf w == 0x08
  | .bellw _ _ w => opcodeOf w == 0x09
  | .rdstat _ _ w => opcodeOf w == 0x0A
  | .rdctx _ _ w => opcodeOf w == 0x0B
  | .halt _ _ w => opcodeOf w == 0x0C
  | .reservedOpcode _ _ w => !assignedOpcodes.contains (opcodeOf w)
  | .mma _ _ w => opcodeOf w == 0x10
  | .mmat _ _ w => opcodeOf w == 0x11
  | .drain _ _ w => opcodeOf w == 0x12
  | .accld _ _ w => opcodeOf w == 0x13
  | .accst _ _ w => opcodeOf w == 0x14
  | .comet _ _ w => opcodeOf w == 0x15
  | .cvt _ _ w => opcodeOf w == 0x20
  | .cvtt _ _ w => opcodeOf w == 0x21
  | .rot _ _ w => opcodeOf w == 0x22
  | .stat _ _ w => opcodeOf w == 0x23
  | .vadd _ _ w => opcodeOf w == 0x30
  | .vsub _ _ w => opcodeOf w == 0x31
  | .vmul _ _ w => opcodeOf w == 0x32
  | .vfma _ _ w => opcodeOf w == 0x33
  | .vmax _ _ w => opcodeOf w == 0x34
  | .vmin _ _ w => opcodeOf w == 0x35
  | .vun _ _ w => opcodeOf w == 0x36
  | .vred _ _ w => opcodeOf w == 0x37
  | .vbcast _ _ w => opcodeOf w == 0x38
  | .vscl _ _ w => opcodeOf w == 0x39
  | .vcmpsel _ _ w => opcodeOf w == 0x3A
  | .vmov _ _ w => opcodeOf w == 0x3B
  | .ld _ _ w => opcodeOf w == 0x40
  | .st _ _ w => opcodeOf w == 0x41
  | .ldt _ _ w => opcodeOf w == 0x42
  | .stt _ _ w => opcodeOf w == 0x43
  | .gather _ _ w => opcodeOf w == 0x44
  | .prefetch _ _ w => opcodeOf w == 0x45
  | .wait _ _ w => opcodeOf w == 0x50
  | .sadd _ _ w => opcodeOf w == 0x51
  | .ssub _ _ w => opcodeOf w == 0x52
  | .sread _ _ w => opcodeOf w == 0x53
  | .put _ _ w => opcodeOf w == 0x60
  | .get _ _ w => opcodeOf w == 0x61
  | .redw _ _ w => opcodeOf w == 0x62
  | .nsig _ _ w => opcodeOf w == 0x63
  | .vote _ _ w => opcodeOf w == 0x64
  | .upel _ _ w => opcodeOf w == 0x70
  | .uplw _ _ w => opcodeOf w == 0x71
  | .upskip _ _ w => opcodeOf w == 0x72
  | .upcmt _ _ w => opcodeOf w == 0x73
  | .wakeNotice _ wire => wire < 16
  | .withdrawalConfirm _ wire => wire < 16
  | .tallyDeferredApply bank => bank < 3
  | .sesOpen port sub src _ => portOk port sub && src.qpn < 2 ^ 24
  | .reduceWrite qpn psn fr h _ => qpOk qpn psn && fr.ok [0xC0] && h.pos < 2 ^ 13
  | .sig qpn psn fr h _ => qpOk qpn psn && fr.ok [0xC1] && h.addr < 2 ^ 24 && h.watermark < 2 ^ 24
  | .rdmaWriteInbound qpn psn fr va _ _ => qpOk qpn psn && fr.ok [0x06, 0x07, 0x08, 0x0A] && va < 2 ^ 64
  | .rdmaReadInbound qpn psn fr va _ _ => qpOk qpn psn && fr.ok [0x0C] && va < 2 ^ 64
  | .fetchAndAdd qpn psn fr va _ _ => qpOk qpn psn && fr.ok [0x14] && va < 2 ^ 64
  | .compareAndSwap qpn psn fr va _ _ _ => qpOk qpn psn && fr.ok [0x13] && va < 2 ^ 64
  | .writeWithImmediate qpn psn fr va _ _ _ => qpOk qpn psn && fr.ok [0x06, 0x07, 0x09, 0x0B] && va < 2 ^ 64
  | .sendInbound qpn psn fr _ => qpOk qpn psn && fr.ok [0, 1, 2, 3, 4, 5]
  | .rnrNak qpn psn _ => qpOk qpn psn
  | .pfcFrame port sub prio _ => portOk port sub && prio < 8
  | .pfcStorm port sub prio => portOk port sub && prio < 8
  | .arpRequest port sub _ => portOk port sub
  | .neighborSolicitation port sub _ => portOk port sub
  | .echoRequest port sub _ _ => portOk port sub
  | .linkDown port sub => portOk port sub
  | .linkUp port sub => portOk port sub
  | .ptpSync port _ => port < 8
  | .announce port _ _ => port < 8
  | .delayReq port _ => port < 8
  | .remoteAccessError qpn psn _ => qpOk qpn psn
  | .registerWrite _ off _ => off < 0x110000 && off % 4 == 0
  | .submit _ _ descs => 1 ≤ descs.length && descs.length ≤ 3
  | .portAddr _ _ port sub _ _ => portOk port sub
  | .ballot v _ _ => v.ok 0
  | .decision v _ => v.ok 1
  | .heartbeat v _ _ _ => v.ok 2
  | .report v _ _ _ _ _ => v.ok 3
  | .notice v _ _ => v.ok 4
  | .probe v _ _ => v.ok 5
  | .probeReply v _ => v.ok 6
  | .state v _ _ => v.ok 7
  | .resume v _ _ _ => v.ok 8
  | .takeover v _ _ _ => v.ok 9
  | .groupLoss v _ _ => v.ok 10
  | .instructionWindowArrival _ _ _ | .mmaBlockLanding _ | .conversionComplete _ | .statRingWrite _
  | .dataMoveComplete _ _ | .prefetchBlockLanding _ _ | .farMemoryTimeout _ | .putAck _ | .getResponse _ _
  | .redwAck _ | .nsigAck _ | .voteRecorded _ | .upelComplete _ | .uplwComplete _ | .waitRegistration _ _
  | .contextRestoreDone | .bell _ _ | .leaseLapse _ | .releaseTimeout _ | .heartbeatTimeout _ | .parentSilence
  | .suspectDeclare _ | .waitStall _ _ | .quietReached _
  | .gratuitousArp | .holdSigApply _ | .ackTimeout _ | .rnrTimer _ | .cnp _ | .alphaDecay _
  | .rateRecovery _ | .macResolutionTimeout _ | .contextFetchDone _ | .syncTimeout | .ppsEdge _
  | .sesRenew _ _ | .applyRcp _ | .applyThr _ | .applyRung _ | .ledgerRegionAllocate _ _ | .renew _ _
  | .closeDetach _ _ | .closeRelease _ _ | .launch _ _ | .switch _ _ _ _ | .semAdd _ _ _ _ | .qpCreate _ _ _
  | .qpModify _ _ _ _ | .qpQuery _ _ _ | .qpDestroy _ _ _ | .bellSet _ _ _ _ | .fwStage _ _ _ _
  | .stagingDone _ | .fwActivate _ _ | .fwRestart _ _ _ | .fwCatalogue _ _ _ _ | .attest _ _ _ _ _
  | .identity _ _ _ _ | .cfgUpdate _ _ _ _ | .dbgChallenge _ _ | .dbgUnlock _ _ _ | .dbgRead _ _ _ _ _
  | .dbgWrite _ _ _ _ _ | .hlthDump _ _ _ _ | .eventFlush _ | .logCopy | .watchdogExpiry _ | .coreRunning _
  | .restartTimeout _ | .activationLapse | .confirmation | .inputTurnOn _ _ | .undervoltage | .overvoltage
  | .pwrAlert | .alertEnd | .sensorRead _ | .tripClear _ | .resetN _ | .sidebandReset _ | .setdasa _ _
  | .entdaa _ | .sidebandWrite _ _ | .powerGoodTimeout | .boot | .hbmTrainDone _ | .linkUpTimeout
  | .grandmasterTimeout | .healthDailyUpdate _ _ | .ringOscillatorMeasure _ _ | .patrolScrub _
  | .croftFault _ | .remapSelfTestDone _ _ | .uncorrectableError _ _ _ | .frontHandover _
  | .stationTileDone _ | .mirrorAck _ | .twinLedgerAck _ _ | .numericsCheck _ _ | .gatherEntryComplete _ _
  | .semaphoreChangeApplied _ | .upcmtRecorded _ | .upskipRecorded _ | .vectorComplete _
  | .rotationComplete _ | .cometComplete _ | .stateTransferDone _ => true

end Sys2Proof
end

