-- ==== Sys2Proof/Decode.lean ====
section
/-! DEFINITION. Which command words spell. No row of the table gives bits, so no word of the table spells one; the words of the
croft's instruction set are operands of the instruction rows, and their major opcode names the row (R137, R145). -/

namespace Sys2Proof

/-- The command that a word spells by the table's bits: no row gives any. -/
def decodeTableWord (_nbits _w : Nat) : Option Instr := none

/-- Is an instruction of this major opcode two words long (R137)? -/
def isLong (op : Nat) : Bool := (0x10 ≤ op && op < 0x20) || (0x60 ≤ op && op < 0x80)

/-- The command of a stream that offers an instruction, by the major opcode of its first word (R145): a 64-bit form is `w`'s
bits [63:0], a 128-bit form all of it; an opcode that R145 does not list is the reserved row. -/
def croftCommand (c : CroftId) (st : Strm) (w : BitVec 128) : Instr :=
  let v : Word := w.setWidth 64
  match opcodeOf v with
  | 0x00 => .nop c st v
  | 0x01 => .jmp c st v
  | 0x02 => .br c st v
  | 0x03 => .loop c st v
  | 0x04 => .call c st v
  | 0x05 => .ret c st v
  | 0x06 => .sli c st v
  | 0x07 => .salu c st v
  | 0x08 => .pset c st v
  | 0x09 => .bellw c st v
  | 0x0A => .rdstat c st v
  | 0x0B => .rdctx c st v
  | 0x0C => .halt c st v
  | 0x10 => .mma c st w
  | 0x11 => .mmat c st w
  | 0x12 => .drain c st w
  | 0x13 => .accld c st w
  | 0x14 => .accst c st w
  | 0x15 => .comet c st w
  | 0x20 => .cvt c st v
  | 0x21 => .cvtt c st v
  | 0x22 => .rot c st v
  | 0x23 => .stat c st v
  | 0x30 => .vadd c st v
  | 0x31 => .vsub c st v
  | 0x32 => .vmul c st v
  | 0x33 => .vfma c st v
  | 0x34 => .vmax c st v
  | 0x35 => .vmin c st v
  | 0x36 => .vun c st v
  | 0x37 => .vred c st v
  | 0x38 => .vbcast c st v
  | 0x39 => .vscl c st v
  | 0x3A => .vcmpsel c st v
  | 0x3B => .vmov c st v
  | 0x40 => .ld c st v
  | 0x41 => .st c st v
  | 0x42 => .ldt c st v
  | 0x43 => .stt c st v
  | 0x44 => .gather c st v
  | 0x45 => .prefetch c st v
  | 0x50 => .wait c st v
  | 0x51 => .sadd c st v
  | 0x52 => .ssub c st v
  | 0x53 => .sread c st v
  | 0x60 => .put c st w
  | 0x61 => .get c st w
  | 0x62 => .redw c st w
  | 0x63 => .nsig c st w
  | 0x64 => .vote c st w
  | 0x70 => .upel c st w
  | 0x71 => .uplw c st w
  | 0x72 => .upskip c st w
  | 0x73 => .upcmt c st w
  | _ => .reservedOpcode c st v

end Sys2Proof
end

