-- ==== Sys2Proof/Config.lean ====
section
/-! DEFINITION. What the spec leaves open, as constants with no body. Nothing can be proved about
their values. Each is named in a row of the assumption log. -/

namespace Sys2Proof.Config

/-- A fresh 64-bit value (TOKEN of R454, and every value drawn at random); log entry 10. -/
opaque free64 : Nat → Word

/-- A fresh 256-bit value (context key of R507, debug nonce of R508); log entry 12. -/
opaque free256 : Nat → BitVec 256

/-- A fresh byte: contents the spec calls undefined (R200, R201, R227); log entry 10. -/
opaque freeByte : Nat → Byte

/-- CTX_SEED of a context (R98, R135): the spec does not say where it comes from; log entry 11. -/
opaque ctxSeed : Nat → Word

/-- What the firmware has made of the counts of common semaphores 0–1,023 (R252, R254), by the moment (an index of the free
values) and the semaphore address; log entry 13. -/
opaque firmwareCount : Nat → Nat → BitVec 32

/-- Bytes of a save area whose inner layout the spec keeps to the stepping (R160, R161); log entry 14. -/
opaque saveAreaByte : Nat → Nat → Byte

/-- The bytes of a Ledger record ring, by the records it holds as numbers, newest first, and the offset: records have no layout in
the spec (R369, R404); log entry 14. -/
opaque ledgerByte : List (List Nat) → Nat → Byte

/-- The harvest map of a configuration record, by its digest and the die: an order of the die's positions, of which the first 144
hold the logical crofts, and how many of the rest are good beyond the two of R24 (R22–R24); log entry 6. -/
opaque harvestOrder : BitVec 256 → Nat → List Nat
opaque harvestGood : BitVec 256 → Nat → Nat

/-- The UDP source port of a queue pair with SPORT 0, a hash of QPN (R434); log entry 109. -/
opaque sportHash : Nat → Nat

/-- Bytes of a subport's receive buffer for one priority, below the headroom of R426, by the subport rate; log entry 109. -/
opaque rxRoom : Nat → Nat

/-- Uncorrectable FEC codewords of a port (R429) between two Bells, by the moment (an index of the free values); log entry 100. -/
opaque fecCount : Nat → Nat → Nat

/-- The bytes of a window whose records have no layout in the spec (R369, R404); log entry 14. -/
opaque windowByte : Nat → Byte

/-- The three ECDSA P-256 public keys of the mask ROM, X and Y (R496): 0 firmware, 1 configuration, 2 debug; log entry 12. -/
opaque romKey : Nat → Nat × Nat

/-- The device certificate in DER form, of which 2 KiB at most are held (R499); log entry 12. -/
opaque certificate : List Byte

/-- The values of a configuration record's body: registers with a Record reset value by offset, and the base MAC address (R421, R502); log
entry 6. -/
opaque recordValues : List Byte → Table Reg
opaque recordMac : List Byte → BitVec 48

/-- Which bytes of a save area's control block hold run states and role bits, and what they hold in an area nothing has run in (R160,
R163); log entry 14. -/
opaque controlPos : Nat → Bool
opaque freshControl : Nat → Byte

/-- The serial number of the device certificate (R499); log entry 12. -/
opaque serial : Word

/-- The session token and window key derived from a context key and a per-session counter (R507);
log entry 12. -/
opaque deriveToken : BitVec 256 → Nat → Word
opaque deriveWinKey : BitVec 256 → Nat → Reg

/-- The bytes of HLTH_DUMP for per-lane margins, per-stack counts and daily values: the spec gives no layout (R536); log entry
14. -/
opaque dumpBytes : List Nat → List Nat → List (List Int) → List Byte

/-- The remap overlay as stored, which measurement slot 10 digests (R501): the spec gives no layout; log entry 14. -/
opaque overlayBytes : List (Nat × Nat × Nat) → List Byte

/-- What IEEE 1588 compares of a clock after its priority1: class, accuracy, variance and priority2 in one number, and the identity (R446);
log entry 88. -/
opaque clockQuality : Nat
opaque clockIdentity : Nat

/-- The base MAC address of the configuration record (R421); log entry 6. -/
opaque baseMac : BitVec 48

end Sys2Proof.Config
end

