-- ==== Sys2Proof/Machine/Bits.lean ====
section
/-! DEFINITION. Bit fields, sign extension, the clamp of R10 and R148, byte strings, sparse tables and the
canonical memory list. -/

namespace Sys2Proof.Machine

/-- Bits `hi` down to `lo` of a word, as a number (R6). -/
def bits {n : Nat} (w : BitVec n) (hi lo : Nat) : Nat := (w.toNat >>> lo) % 2 ^ (hi + 1 - lo)

/-- One bit of a word. -/
def bit {n : Nat} (w : BitVec n) (i : Nat) : Bool := w.toNat.testBit i

/-- A field of `width` bits read as two's complement. -/
def signed (width v : Nat) : Int := if v < 2 ^ (width - 1) then (v : Int) else (v : Int) - (2 ^ width : Nat)

/-- The nearest value of a range (R10, R148). -/
def clampTo (lo hi v : Nat) : Nat := max lo (min hi v)

def clampInt (lo hi v : Int) : Int := max lo (min hi v)

/-- Of the accepted values, the one nearest to `v`, and the lower one on a tie (R148). -/
def nearest (accepted : List Nat) (v : Nat) : Nat :=
  accepted.foldl (fun best a =>
    let da := if a ≤ v then v - a else a - v
    let db := if best ≤ v then v - best else best - v
    if da < db ∨ (da = db ∧ a < best) then a else best) (accepted.headD v)

/-- Replace bits `hi` down to `lo` of a number. -/
def putBits (v hi lo x : Nat) : Nat :=
  v - (((v >>> lo) % 2 ^ (hi + 1 - lo)) <<< lo) + ((x % 2 ^ (hi + 1 - lo)) <<< lo)

/-- A little-endian string of bytes as a number (R5). -/
def leNat : List Byte → Nat
  | [] => 0
  | b :: bs => b.toNat + 256 * leNat bs

/-- The low `n` bytes of a number, little-endian (R5). -/
def leBytes : Nat → Nat → List Byte
  | 0, _ => []
  | n + 1, v => BitVec.ofNat 8 v :: leBytes n (v / 256)

/-- The first entry of a key, or the default. -/
def Table.get {α : Type} (d : α) : Table α → Nat → α
  | [], _ => d
  | (j, v) :: t, k => if j = k then v else Table.get d t k

/-- Replace the first entry of a key, or add one. -/
def Table.put {α : Type} : Table α → Nat → α → Table α
  | [], k, v => [(k, v)]
  | (j, w) :: t, k, v => if j = k then (k, v) :: t else (j, w) :: Table.put t k v

/-- Is the key listed? -/
def Table.has {α : Type} (t : Table α) (k : Nat) : Bool := t.any (fun e => e.1 == k)

/-- Take a key out. -/
def Table.drop {α : Type} (t : Table α) (k : Nat) : Table α := t.filter (fun e => e.1 != k)

/-! Memory: what an unlisted address reads as is 0 (log entry 5). -/

/-- What a byte that no entry lists reads as. -/
def unlistedByte : Byte := 0

/-- One byte. -/
def Memory.read : Memory → Nat → Byte
  | [], _ => unlistedByte
  | (a, b) :: m, k => if a = k then b else Memory.read m k

/-- `n` bytes from address `a` up. -/
def Memory.readBytes (m : Memory) (a : Nat) : Nat → List Byte
  | 0 => []
  | n + 1 => Memory.read m a :: Memory.readBytes m (a + 1) n

/-- The entries of a range. -/
def Memory.slice (m : Memory) (lo len : Nat) : Memory := m.filter (fun e => lo ≤ e.1 ∧ e.1 < lo + len)

/-- The bytes `bs` as entries from `a` up, those that hold 0 left out. -/
def Memory.cells (a : Nat) : List Byte → Memory
  | [] => []
  | b :: bs => if b = unlistedByte then Memory.cells (a + 1) bs else (a, b) :: Memory.cells (a + 1) bs

/-- Put the entries `mid`, all of them in the range, in the place of the range's own. -/
def Memory.splice (m : Memory) (lo len : Nat) (mid : Memory) : Memory :=
  m.filter (fun e => e.1 < lo) ++ mid ++ m.filter (fun e => lo + len ≤ e.1)

/-- Write a string of bytes. -/
def Memory.writeBytes (m : Memory) (a : Nat) (bs : List Byte) : Memory :=
  Memory.splice m a bs.length (Memory.cells a bs)

/-- Copy a range of one memory into another, or into itself. -/
def Memory.copy (m : Memory) (dst : Nat) (src : Memory) (a len : Nat) : Memory :=
  Memory.splice m dst len ((Memory.slice src a len).map (fun e => (e.1 - a + dst, e.2)))

/-- The canonical form: addresses strictly rising, no entry that holds what an unlisted byte reads as. -/
def Memory.wf : Memory → Bool
  | [] => true
  | (a, b) :: m => b != unlistedByte && m.all (fun e => a < e.1) && Memory.wf m

/-- `w` bits of a little-endian bit string at bit position `pos` (R64). -/
def fieldOfBytes (bs : List Byte) (pos w : Nat) : Nat :=
  (leNat ((bs.drop (pos / 8)).take (w / 8 + 2)) >>> (pos % 8)) % 2 ^ w

/-- Codes of `w` bits each, packed from bit 0 (R64), as one number. -/
def packCodes (w : Nat) : List Nat → Nat
  | [] => 0
  | c :: cs => c % 2 ^ w + 2 ^ w * packCodes w cs

end Sys2Proof.Machine
end

