-- ==== Sys2Proof/Machine/Crypto.lean ====
section
/-! DEFINITION. SHA-256, and ECDSA on P-256 with the deterministic k of RFC 6979 (R496, R497). The spec names these standards and gives
no more of them; their tables and formulas are those of FIPS 180-4, SEC 1 and RFC 6979 (PRESUMED, log entry 12). -/

namespace Sys2Proof.Machine

/-! Big-endian byte strings. -/

/-- A big-endian string of bytes as a number. -/
def beNat (bs : List Byte) : Nat := bs.foldl (fun n b => 256 * n + b.toNat) 0

/-- The low `n` bytes of a number, big-endian. -/
def beBytes (n v : Nat) : List Byte := (leBytes n v).reverse

/-! SHA-256. -/

/-- The 64 round constants. -/
def shaRounds : List Nat :=
  [0x428a2f98, 0x71374491, 0xb5c0fbcf, 0xe9b5dba5, 0x3956c25b, 0x59f111f1, 0x923f82a4, 0xab1c5ed5] ++
  [0xd807aa98, 0x12835b01, 0x243185be, 0x550c7dc3, 0x72be5d74, 0x80deb1fe, 0x9bdc06a7, 0xc19bf174] ++
  [0xe49b69c1, 0xefbe4786, 0x0fc19dc6, 0x240ca1cc, 0x2de92c6f, 0x4a7484aa, 0x5cb0a9dc, 0x76f988da] ++
  [0x983e5152, 0xa831c66d, 0xb00327c8, 0xbf597fc7, 0xc6e00bf3, 0xd5a79147, 0x06ca6351, 0x14292967] ++
  [0x27b70a85, 0x2e1b2138, 0x4d2c6dfc, 0x53380d13, 0x650a7354, 0x766a0abb, 0x81c2c92e, 0x92722c85] ++
  [0xa2bfe8a1, 0xa81a664b, 0xc24b8b70, 0xc76c51a3, 0xd192e819, 0xd6990624, 0xf40e3585, 0x106aa070] ++
  [0x19a4c116, 0x1e376c08, 0x2748774c, 0x34b0bcb5, 0x391c0cb3, 0x4ed8aa4a, 0x5b9cca4f, 0x682e6ff3] ++
  [0x748f82ee, 0x78a5636f, 0x84c87814, 0x8cc70208, 0x90befffa, 0xa4506ceb, 0xbef9a3f7, 0xc67178f2]

/-- The initial hash value. -/
def shaStart : List Nat :=
  [0x6a09e667, 0xbb67ae85, 0x3c6ef372, 0xa54ff53a, 0x510e527f, 0x9b05688c, 0x1f83d9ab, 0x5be0cd19]

def rotr32 (n x : Nat) : Nat := (x >>> n ||| x <<< (32 - n)) % 2 ^ 32

/-- A word whose value is worked out before `k` goes on: the same as `k x`. -/
def strictNat {α : Type} (x : Nat) (k : Nat → α) : α :=
  match x with
  | 0 => k 0
  | n + 1 => k (n + 1)

/-- The eight working variables. -/
structure ShaState where
  a : Nat
  b : Nat
  c : Nat
  d : Nat
  e : Nat
  f : Nat
  g : Nat
  h : Nat
deriving DecidableEq, Repr

/-- One round. -/
def ShaState.round (s : ShaState) (k w : Nat) : ShaState :=
  let s1 := rotr32 6 s.e ^^^ rotr32 11 s.e ^^^ rotr32 25 s.e
  let ch := (s.e &&& s.f) ^^^ ((2 ^ 32 - 1 - s.e) &&& s.g)
  let s0 := rotr32 2 s.a ^^^ rotr32 13 s.a ^^^ rotr32 22 s.a
  let maj := (s.a &&& s.b) ^^^ (s.a &&& s.c) ^^^ (s.b &&& s.c)
  strictNat ((s.h + s1 + ch + k + w) % 2 ^ 32) (fun t1 =>
    strictNat ((s.d + t1) % 2 ^ 32) (fun e => strictNat ((t1 + s0 + maj) % 2 ^ 32) (fun a =>
      ⟨a, s.a, s.b, s.c, e, s.e, s.f, s.g⟩)))

/-- The message schedule, newest word first: `n` more words. -/
def shaSchedule : Nat → List Nat → List Nat
  | 0, ws => ws
  | n + 1, ws =>
    let x := ws.getD 14 0
    let y := ws.getD 1 0
    let s0 := rotr32 7 x ^^^ rotr32 18 x ^^^ (x >>> 3)
    let s1 := rotr32 17 y ^^^ rotr32 19 y ^^^ (y >>> 10)
    strictNat ((ws.getD 15 0 + s0 + ws.getD 6 0 + s1) % 2 ^ 32) (fun w => shaSchedule n (w :: ws))

def shaRun : List Nat → List Nat → ShaState → ShaState
  | k :: ks, w :: ws, s => shaRun ks ws (s.round k w)
  | _, _, s => s

/-- The 32-bit words of a block. -/
def shaWords (bs : List Byte) : List Nat := (List.range 16).map (fun i => beNat ((bs.drop (4 * i)).take 4))

/-- The hash value after one block of 64 bytes. -/
def shaBlock (h : List Nat) (bs : List Byte) : List Nat :=
  let v := fun i => h.getD i 0
  let r := shaRun shaRounds (shaSchedule 48 (shaWords bs).reverse).reverse ⟨v 0, v 1, v 2, v 3, v 4, v 5, v 6, v 7⟩
  [(v 0 + r.a) % 2 ^ 32, (v 1 + r.b) % 2 ^ 32, (v 2 + r.c) % 2 ^ 32, (v 3 + r.d) % 2 ^ 32,
   (v 4 + r.e) % 2 ^ 32, (v 5 + r.f) % 2 ^ 32, (v 6 + r.g) % 2 ^ 32, (v 7 + r.h) % 2 ^ 32]

/-- The padded message. -/
def shaPad (bs : List Byte) : List Byte :=
  bs ++ [0x80] ++ List.replicate ((119 - bs.length % 64) % 64) 0 ++ beBytes 8 (8 * bs.length)

def shaGo : Nat → List Nat → List Byte → List Nat
  | 0, h, _ => h
  | n + 1, h, bs => shaGo n (shaBlock h (bs.take 64)) (bs.drop 64)

/-- The 32-byte string that SHA-256 produces. -/
def sha256Bytes (bs : List Byte) : List Byte :=
  let m := shaPad bs
  (shaGo (m.length / 64) shaStart m).flatMap (beBytes 4)

/-- A digest, as the number its 32-byte string spells from the lowest byte up (R5, R497). -/
def sha256 (bs : List Byte) : BitVec 256 := BitVec.ofNat 256 (leNat (sha256Bytes bs))

/-- The string of a digest. -/
def digestBytes (d : BitVec 256) : List Byte := leBytes 32 d.toNat

def digestOf (bs : List Byte) : BitVec 256 := BitVec.ofNat 256 (leNat bs)

/-- A digest as the integer that ECDSA signs. -/
def digestInt (d : BitVec 256) : Nat := beNat (digestBytes d)

/-! P-256. -/

def curveP : Nat := 0xffffffff00000001000000000000000000000000ffffffffffffffffffffffff
def curveB : Nat := 0x5ac635d8aa3a93e7b3ebbd55769886bc651d06b0cc53b0f63bce3c3e27d2604b
def curveN : Nat := 0xffffffff00000000ffffffffffffffffbce6faada7179e84f3b9cac2fc632551
def curveGx : Nat := 0x6b17d1f2e12c4247f8bce6e563a440f277037d812deb33a0f4a13945d898c296
def curveGy : Nat := 0x4fe342e2fe1a7f9b8ee7eb4a7c0f9e162bce33576b315ececbb6406837bf51f5

/-- b to the power e modulo m, for e below 2^256. -/
def powMod (b e m : Nat) : Nat :=
  (List.range 256).foldr (fun i acc => strictNat (acc * acc % m) (fun q => if e.testBit i then q * b % m else q)) 1

/-- The inverse modulo a prime. -/
def invMod (a m : Nat) : Nat := powMod (a % m) (m - 2) m

/-- A point in Jacobian coordinates; z = 0 is the point at infinity. -/
structure EcPoint where
  x : Nat
  y : Nat
  z : Nat
deriving DecidableEq, Repr

def subMod (a b m : Nat) : Nat := (a + m - b % m) % m

def EcPoint.double (q : EcPoint) : EcPoint :=
  let p := curveP
  let yy := q.y * q.y % p
  let zz := q.z * q.z % p
  let s := 4 * q.x * yy % p
  let m := 3 * subMod q.x zz p * (q.x + zz) % p
  let x := subMod (m * m) (2 * s) p
  strictNat x (fun x => strictNat (subMod (m * subMod s x p) (8 * yy * yy) p) (fun y =>
    strictNat (2 * q.y * q.z % p) (fun z => ⟨x, y, z⟩)))

def EcPoint.add (a b : EcPoint) : EcPoint :=
  let p := curveP
  if a.z = 0 then b
  else if b.z = 0 then a
  else
    let za := a.z * a.z % p
    let zb := b.z * b.z % p
    let u1 := a.x * zb % p
    let u2 := b.x * za % p
    let s1 := a.y * zb * b.z % p
    let s2 := b.y * za * a.z % p
    if u1 = u2 then (if s1 = s2 then a.double else ⟨1, 1, 0⟩)
    else
      let h := subMod u2 u1 p
      let r := subMod s2 s1 p
      let hh := h * h % p
      let v := u1 * hh % p
      strictNat (subMod (r * r) (hh * h + 2 * v) p) (fun x =>
        strictNat (subMod (r * subMod v x p) (s1 * hh * h) p) (fun y =>
          strictNat (h * a.z * b.z % p) (fun z => ⟨x, y, z⟩)))

/-- k times a point, for k below 2^256. -/
def EcPoint.mul (k : Nat) (q : EcPoint) : EcPoint :=
  (List.range 256).foldr (fun i (acc : EcPoint) => if k.testBit i then acc.double.add q else acc.double) ⟨1, 1, 0⟩

/-- The affine coordinates of a point. -/
def EcPoint.affine (q : EcPoint) : Nat × Nat :=
  let i := invMod q.z curveP
  (q.x * i * i % curveP, q.y * i * i * i % curveP)

def ecBase : EcPoint := ⟨curveGx, curveGy, 1⟩

/-- The public key of a private key: X then Y, 64 bytes (R497, R509). -/
def publicKey (d : Nat) : List Byte :=
  let q := (EcPoint.mul d ecBase).affine
  beBytes 32 q.1 ++ beBytes 32 q.2

/-- Is (x, y) a point of the curve? -/
def onCurve (x y : Nat) : Bool :=
  x < curveP && y < curveP && y * y % curveP == (x * x * x + (curveP - 3) * x + curveB) % curveP

/-- ECDSA: does the signature r, s over a digest verify under a public key? -/
def ecdsaVerify (key : Nat × Nat) (digest r s : Nat) : Bool :=
  if r = 0 ∨ s = 0 ∨ curveN ≤ r ∨ curveN ≤ s ∨ !onCurve key.1 key.2 then false
  else
    let w := invMod s curveN
    let q := (EcPoint.mul (digest * w % curveN) ecBase).add (EcPoint.mul (r * w % curveN) ⟨key.1, key.2, 1⟩)
    q.z != 0 && q.affine.1 % curveN == r

/-- Does a signature of 64 bytes, r then s, over some bytes verify under a key of the mask ROM (R496, R497)? Key 0 is the firmware key,
1 the configuration key, 2 the debug key. -/
def signatureValid (k : Nat) (content sig : List Byte) : Bool :=
  ecdsaVerify (Config.romKey k) (digestInt (sha256 content)) (beNat (sig.take 32)) (beNat ((sig.drop 32).take 32))

/-! RFC 6979. -/

def hmac (key msg : List Byte) : List Byte :=
  let k := key ++ List.replicate (64 - key.length) 0
  sha256Bytes (k.map (· ^^^ 0x5C) ++ sha256Bytes (k.map (· ^^^ 0x36) ++ msg))

/-- The first candidate for k that lies in the range and gives a signature; a candidate fails with a chance of about 2^−32. -/
def signGo (d e : Nat) : Nat → List Byte → List Byte → List Byte
  | 0, _, _ => List.replicate 64 0
  | n + 1, key, v =>
    let v := hmac key v
    let k := beNat v
    let r := (EcPoint.mul k ecBase).affine.1 % curveN
    let s := invMod k curveN * (e + r * d) % curveN
    if k = 0 ∨ curveN ≤ k ∨ r = 0 ∨ s = 0 then
      let key := hmac key (v ++ [0])
      signGo d e n key (hmac key v)
    else beBytes 32 r ++ beBytes 32 s

/-- The signature of some bytes with a private key: r then s, 64 bytes (R497). -/
def ecdsaSign (d : Nat) (content : List Byte) : List Byte :=
  let h := digestInt (sha256 content)
  let seed := beBytes 32 d ++ beBytes 32 (h % curveN)
  let v := List.replicate 32 (1 : Byte)
  let key := hmac (List.replicate 32 0) (v ++ [0] ++ seed)
  let v := hmac key v
  let key := hmac key (v ++ [1] ++ seed)
  signGo d h 16 key (hmac key v)

end Sys2Proof.Machine
end

