-- ==== Sys2Proof/Machine/State.lean ====
section
/-! DEFINITION. The state of the module, as plain data, the reasons a step can stop, and the state after
reset. Widths and rules are listed in INVENTORY.md under "State". -/

namespace Sys2Proof.Machine

/-- Why a step faults. -/
inductive Fault where
  /-- Raised by no command: the spec gives every event an outcome. Kept so that the type has a name to
  claim the absence of. Safe: a model that stops proves less. -/
  | impossible
deriving DecidableEq, Repr

/-- Why a step is refused. -/
inductive Refusal where
  /-- Raised by an arm of `exec` whose command has no meaning yet. Safe: nothing is proved about it. -/
  | notModelled (mnemonic : String)
deriving DecidableEq, Repr

/-- Run state of a stream (R133). -/
inductive RunState where
  | idle | running | waiting | halted
deriving DecidableEq, Repr

/-- What a WAITING stream waits for: a semaphore with N, its wake wire, and whether the bank has the
registration (R257, R260); or a Bell (R212). -/
inductive WaitFor where
  | none
  | sem (addr : Nat) (n : Int) (wire : Nat) (registered : Bool)
  | bell (target : Nat)
deriving DecidableEq, Repr

/-- One stream of a croft (R133, R158, R554, R144). `s` and `p` hold S1–S31 and P0–P15 (unlisted: 0);
`windows` are the 4 KiB code windows in the instruction buffer; `stallBells` counts the Bells a WAIT has
been unsatisfied (R274) and `stallSent` says that its WAIT_STALL went out; `haltedIn` are the attempts, by step and
number, that ran when it halted (R411). -/
structure Stream where
  pc         : Ptr := 0
  s          : Table Word := []
  p          : Table Ptr := []
  status     : Word := 0
  run        : RunState := .idle
  step       : Nat := 0
  waiting    : WaitFor := .none
  windows    : List Nat := []
  stallBells : Nat := 0
  stallSent  : Bool := false
  haltedIn   : List (Nat × Nat) := []
deriving DecidableEq, Repr

/-- One accumulator set (R122): 1,024 A40 totals (element 32 m + n; a list that ends early goes on with +0), OVF
and the block counter (R113). -/
structure AccSet where
  totals : List A40 := []
  ovf    : Bool := false
  count  : Nat := 0
deriving DecidableEq, Repr

/-- One queued entry-accumulator pair (R181): the set it is queued for, the row (`side` A) or the column
(`side` B) it reaches, and its 32 products in A40. -/
structure CometPair where
  set      : Nat
  sideB    : Bool
  line     : Nat
  products : List A40
deriving DecidableEq, Repr

/-- One matrix array (R122): its role bit (which set is active), both sets, the chunk registers of the
active set (FP32; a list that ends early goes on with +0) and the Comet queue. -/
structure ArrayState where
  active : Nat := 0
  set0   : AccSet := {}
  set1   : AccSet := {}
  chunk  : List (BitVec 32) := []
  comet  : List CometPair := []
deriving DecidableEq, Repr

/-- One statistics accumulator (R100–R102), with the TID, FMT, BLK, SCALE_MODE, ROUND and ROTATE of the
last conversion added (R189). -/
structure StatAcc where
  elements  : Nat := 0
  zeros     : Nat := 0
  saturated : Nat := 0
  nonfinite : Nat := 0
  underflow : Nat := 0
  satblk    : Nat := 0
  cometOvf  : Nat := 0
  extracted : Nat := 0
  countSat  : Bool := false
  amax      : A40 := 0
  errsq     : A40 := 0
  tid       : Nat := 0
  fmt       : Nat := 0
  blk       : Nat := 0
  mode      : Nat := 0
  round     : Nat := 0
  rotate    : Nat := 0
deriving DecidableEq, Repr

/-- One croft (R134). `tiles` holds T0–T127, byte b of Tt at 2,048 t + b; the store is in `State.mem`.
`wires` are the wake wires held (R257), `operands` the tiles whose records the operand buffer holds, newest first (R174). -/
structure Croft where
  f      : Stream := {}
  b      : Stream := {}
  u      : Stream := {}
  tiles  : Memory := []
  arrays : Table ArrayState := []
  stats  : Table StatAcc := []
  wires  : List Nat := []
  operands : List Nat := []
deriving DecidableEq, Repr

/-- What a save area holds (R160): the croft's state and its store (byte at its store offset). -/
structure SaveArea where
  croft : Croft := {}
  store : Memory := []
deriving DecidableEq, Repr

/-- A resource of a croft that two instructions can conflict over (R150): a tile register, an accumulator
set, a statistics accumulator, an S or P register, 64-byte blocks of memory. -/
inductive Res where
  | tile (n : Nat)
  | set (array set : Nat)
  | stat (n : Nat)
  | sreg (n : Nat)
  | preg (n : Nat)
  | mem (block count : Nat)
deriving DecidableEq, Repr

/-- The unit or queue an instruction occupies until it completes (R164, R205). -/
inductive UnitKind where
  | array (n : Nat) | converter | statPath | cometUnit | rotation | accPort (n : Nat)
  | vector | dataMove | tallyPort | rdma | fp3 | mill
deriving DecidableEq, Repr

/-- A value on its way through the arithmetic: a signed dyadic (−1)^neg · m · 2^e, an infinity or a NaN. -/
inductive Val where
  | fin (neg : Bool) (m : Nat) (e : Int)
  | inf (neg : Bool)
  | nan
deriving DecidableEq, Repr

/-- Everything a conversion fixed at issue (R71, R168–R170, R183, R185, R291, R315): format and mode fields
after the ladder and the clamps, the code that FIXED, DELAYED and GRAD_W give every block (none: MAXNOW), the
exchange map's boosts by block, and the locator. -/
structure ConvPlan where
  fmt      : Nat
  blk      : Nat
  mode     : Nat
  code     : Option Int
  gradW    : Bool
  boosts   : List Nat
  round    : Nat
  rotate   : Nat
  cometK   : Nat
  cometT   : Nat
  clip     : Nat
  tid      : Nat
  base     : Nat
  cols     : Nat
  vr       : Nat
  rotId    : Nat
  seed     : Word
  step     : Nat
  dst      : Nat
  tiles    : Nat
  sideAddr : Option Nat
  sta      : Nat
  flag     : Bool
deriving DecidableEq, Repr

/-- Where a data move reads or writes: a device address, or a far-memory window's queue pair and remote
address (R414). -/
inductive Place where
  | dev (addr : Nat)
  | far (qpn : Nat) (remote : Nat) (window : Nat)
deriving DecidableEq, Repr

/-- A shard descriptor (R346) with the rule descriptor and the schedule entry read at issue (R345, R348,
R349), and how far it has come: bindings of its positions, tiles done, NaN met. -/
structure Shard where
  addr     : Nat
  step     : Nat
  state0   : Nat
  state1   : Nat
  map0     : Nat
  map1     : Nat
  tidP     : Nat
  tidM1    : Nat
  tidM2    : Nat
  m1       : Bool
  m2       : Bool
  res      : Bool
  lw       : Bool
  fsv      : Bool
  gsv      : Bool
  rows     : Nat
  cols     : Nat
  firstTile : Nat
  nt       : Nat
  pos      : Nat
  npos     : Nat
  fsem     : Nat
  gsem     : Nat
  rule     : Nat
  fbrule   : Nat
  rcpP     : Nat
  rcpM1    : Nat
  rcpM2    : Nat
  beta1    : A40
  beta2    : A40
  epsA     : A40
  wd       : A40
  gscale   : A40
  lr       : A40
  c1       : A40
  c2       : A40
  /-- Bindings of each position so far (R336). -/
  binds    : Table Nat := []
  /-- Tiles that have passed the front and had their map bytes written. -/
  fronted  : Nat := 0
  /-- Tiles a station has finished. -/
  written  : Nat := 0
  upelDone : Bool := false
  uplwDone : Bool := false
  /-- The mirror of the residual region has been sent (R358). -/
  resSent  : Bool := false
deriving DecidableEq, Repr

/-- A vector operand or result: a tile register, or an accumulator set (array, set). -/
inductive VecReg where
  | tile (n : Nat)
  | set (a i : Nat)
deriving DecidableEq, Repr

/-- What a vector instruction computes (R191–R196): elementwise arithmetic, a product with a scalar, a unary function, a
reduction or a broadcast along rows or (`cols`) columns, a comparison that selects, a widening from a tile format, a copy of
bytes, and a copy of a set with its OVF. -/
inductive VecFn where
  | add | sub | mul | fma | max | min
  | scale (k : A40)
  | un (f : Nat)
  | red (op : Nat) (cols : Bool)
  | bcast (cols : Bool)
  | select (op : Nat)
  | widen (fmt : Nat)
  | bytes
  | copy
deriving DecidableEq, Repr

/-- What an instruction in flight will do when it completes, with the operands it has read. -/
inductive FlightOp where
  | mma (a : List Byte) (fmtA blkA : Nat) (tA : Bool) (targets : List (Nat × Nat × List Byte))
        (fmtB blkB : Nat) (tB : Bool) (init : Bool) (chunk : Nat)
  | accLoad (array set addr : Nat)
  | accStore (array set addr : Nat)
  | comet (array set : Nat) (pairs : List CometPair)
  | convert (plan : ConvPlan) (src : List (List Val))
  | stat (acc seq step attempt : Nat)
  | rotate (inverse : Bool) (k fmt src dst : Nat) (signs : List Bool)
  | vector (fn : VecFn) (fmt : Nat) (srcs : List VecReg) (dst : VecReg)
  | copy (src : Place) (dst : Place) (blocks : Nat)
  | loadTile (src : Place) (tile len : Nat)
  | storeTile (tile len : Nat) (dst : Place)
  | gather (moves : List (Place × Nat)) (size : Nat)
  | prefetch (src : Place) (dst : Nat) (blocks done : Nat)
  | semAdd (addr : Nat) (amount : Int)
  | semRead (addr : Nat) (sreg : Nat)
  | put (qpn : Nat)
  | get (qpn addr len done : Nat)
  | redw (qpn : Nat) (inner : List (Nat × ReduceHdr × List (List Byte)))
  | nsig (qpn : Nat)
  | vote (step : Nat)
  | upskip (step reason : Nat)
  | upcmt (step : Nat)
  | upel (step shard : Nat)
  | uplw (shard : Shard) (result outcome : Nat)
deriving DecidableEq, Repr

/-- An instruction that has issued and not completed (R149). -/
structure Flight where
  id     : Nat
  ctx    : Nat
  croft  : Nat
  strm   : Strm
  pc     : Ptr
  doneSem : Nat
  doneAdd : Nat
  units  : List UnitKind
  reads  : List Res
  writes : List Res
  op     : FlightOp
  far    : Option Nat
  /-- Completed for its stream already, and only its blocks still move (PREFETCH, R202). -/
  posted : Bool
deriving DecidableEq, Repr

/-- State of a held step (R363). -/
inductive StepState where
  | prepared | running | checked | cast | aborted | committed | skipped
deriving DecidableEq, Repr

/-- Numerics stage of an attempt (R298). -/
inductive Stage where
  | fresh | rescaled | climbed
deriving DecidableEq, Repr

/-- What the Ledger record ring keeps of a freed step (R367, R369): its attempt, stage, outcome (1: SKIPPED), skip reason,
precondition fall-backs and PROG_VER. -/
structure LedRecord where
  step      : Nat
  attempt   : Nat
  stage     : Stage
  outcome   : Nat
  skipWhy   : Nat
  fallbacks : List (Nat × Bool)
  progVer   : Word
deriving DecidableEq, Repr

/-- A held step's Ledger entry (R367) and what FP3, FP5 and the exchange keep for it. `rungs` is the rung state of its opening and
`attRungs` that of the attempt (R291, R302); `xmax` and `lasts` are R327; `voters` are the vote-tree members whose ballots are merged
(R371); `fallbacks` are the shards that took a fall-back row, true for the committed preconditioner (R356); `tries` numbers its attempts
without ATTEMPT's wrap, and `ueTries` are those in which an uncorrectable error was recorded (R411). `netLost`: in this attempt a network
access failed, or the twin was lost before it had every mirror write, so the attempt passes neither UPDATE nor CHECK (R156, R200, R360),
and `lostAsked` that its abort has been asked for; `mapsKept`: its next map bytes are the committed ones (R325). -/
structure HeldStep where
  desc     : StepDesc
  state    : StepState := .prepared
  attempt  : Nat := 0
  stage    : Stage := .fresh
  opened   : Bool := false
  twinAck  : Bool := false
  recipes  : List (Reg × Reg) := []
  thr0     : Reg := 0
  thr1     : Reg := 0
  snapshot : Table A40 := []
  rungs    : Table Nat := []
  attRungs : Table Nat := []
  flagged  : List Nat := []
  ballots  : Nat := 0
  upcmts   : Nat := 0
  skip     : Bool := false
  skipWhy  : Nat := 0
  outcome  : Nat := 0
  climb    : List Nat := []
  stages   : Nat := 0
  tests    : Nat := 0
  firstTid : Option Nat := none
  top      : Bool := false
  rescaled : Bool := false
  xmax     : Table A40 := []
  lasts    : Nat := 0
  records  : List StatRec := []
  merged   : Option Ballot := none
  voters   : List Nat := []
  fallbacks : List (Nat × Bool) := []
  tries    : Nat := 0
  ueTries  : List Nat := []
  evaluated : Bool := false
  satBlocks    : Nat := 0
  nonfinBlocks : Nat := 0
  exchError    : Bool := false
  nan          : Bool := false
  netLost      : Bool := false
  lostAsked    : Bool := false
  mapsKept     : Bool := false
deriving DecidableEq, Repr

/-- A mirror write the twin has not acknowledged (R357). -/
structure MirrorWrite where
  id     : Nat
  step   : Nat
deriving DecidableEq, Repr

/-- The walk of the gather list (R331): entries started and not complete, and the next to start. -/
structure Walk where
  step    : Nat
  next    : Nat
  running : List Nat
deriving DecidableEq, Repr

/-- Order 6 of R389 for a context's mirror: nothing to do, due, or sent and not acknowledged yet. -/
inductive CopyState where
  | none | due | sent
deriving DecidableEq, Repr

/-- Session states (R468). -/
inductive SesState where
  | none | opened | detached | releasing
deriving DecidableEq, Repr

/-- An event before it is written (R466, R467): code, the CTX byte, the Bell, and the payload fields as
(value, width) packed from bit 0. -/
structure Event where
  code    : Nat
  ctx     : Nat
  bell    : Nat
  payload : List (Nat × Nat)
deriving DecidableEq, Repr

/-- The session of a context (R452–R468) and its mailbox (R464). `told`: EVENTS_LOST, or the first staged event, has been written (R467);
`age` is the time in µs since the last renewal, or since the session became DETACHED (R468). -/
structure Session where
  state    : SesState := .none
  token    : Word := 0
  winKey   : Reg := 0
  draws    : Nat := 0
  modQpn   : Nat := 0
  hostQpn  : Nat := 0
  nonce    : Reg := 0
  evrAddr  : Nat := 0
  evrKey   : Reg := 0
  evrN     : Nat := 64
  head     : Nat := 0
  lost     : Nat := 0
  told     : Bool := false
  staged   : List Event := []
  mbox     : Memory := []
  lastGo   : Nat := 0
  done     : Nat := 0
  age      : Nat := 0
deriving DecidableEq, Repr

/-- A context (R135, R163, and the chapters of its registers). `shadow` is what a READ of a register of the
page returns for fields that are written, `eff` the RWT values in effect (R8, R9). -/
structure Ctx where
  exist     : Bool := false
  ses       : Session := {}
  shadow    : Table Reg := []
  eff       : Table Reg := []
  key       : BitVec 256 := 0
  seed      : Word := 0
  parked    : Bool := false
  -- Ledger (R363–R369)
  steps     : List HeldStep := []
  first     : Option Nat := none
  lastSub   : Option Nat := none
  lastCmt   : Nat := 0
  cmtSeen   : Bool := false
  aborts    : Nat := 0
  abortRun  : Nat := 0
  stuck     : Bool := false
  ledIgnored : Bool := false
  region    : Nat := 0
  regionGib : Nat := 0
  records   : List LedRecord := []
  flips     : List Decision := []
  resumeAt  : Option Nat := none
  quietWait : Bool := false
  faulted   : Bool := false
  walks     : List Walk := []
  -- numerics (R278–R307)
  working   : List (Reg × Reg) := []
  wthr0     : Reg := 0x00040010
  wthr1     : Reg := 0x400000FE
  pendingSet : Option PendingSet := none
  applyResult : Nat := 0
  applyAsk  : Nat := 0
  rungs     : Table Nat := []
  climbs    : List (Nat × Table Nat) := []
  newest    : Option Nat := none
  history   : Table (List StatRec) := []
  rings     : Table StatRec × Table StatRec := ([], [])
  -- Mill (R340–R362)
  genState  : Nat := 0
  genMap    : Nat := 0
  shards    : List Shard := []
  mirrors   : List MirrorWrite := []
  pfbKept   : Nat := 0
  pfbElem   : Nat := 0
  pfbTot    : Nat := 0
  millIgnored : Bool := false
  millSkipped : Bool := false
  gathersMap : List (Nat × Nat) := []
  /-- A mirror write of a held step could not be sent, or was lost with its queue pair (R561). -/
  unsent    : Bool := false
  /-- The twin's numerics are behind the last commit or accepted apply (R387). -/
  numDue    : Bool := false
  copies    : CopyState := .none
  -- Tally, exchange, session registers that only the module writes
  satSeen   : Bool := false
  satAddr   : Nat := 0
  holdNaks  : Nat := 0
  holdPeak  : Nat := 0
  xsatBlocks : Nat := 0
  xnonfin   : Nat := 0
  xerr      : Nat := 0
  ovrF      : Nat := 0
  ovrB      : Nat := 0
  ovrU      : Nat := 0
  skips     : Nat := 0
  sesIgnored : Bool := false
  /-- Context semaphores while the context is not resident (R266), by 24-bit address. -/
  image     : Table Int := []
deriving DecidableEq, Repr

/-- A registration in a bank's watch table (R257). -/
structure Watch where
  addr  : Nat
  n     : Int
  croft : Nat
  wire  : Nat
deriving DecidableEq, Repr

/-- A change a bank holds while its save and restore runs (R267). -/
structure Deferred where
  ctx    : Nat
  addr   : Nat
  amount : Int
  /-- The SADD or SSUB in flight that it completes, if it is one. -/
  flight : Option Nat := none
deriving DecidableEq, Repr

/-- The Tally (R251–R267): counts by 24-bit address, watch tables, wake notices on their way, withdrawals not
confirmed, banks whose save and restore runs, their deferred queues, completion signals that wait in the hub, and
the context whose context semaphores the banks hold. `firmware` is the free-value index of the firmware's last change of its own
semaphores (R252, R254; the model's own, log entry 13), none before start-up; their entries in `counts` are what others added. -/
structure Tally where
  counts   : Table Int := []
  watches  : List Watch := []
  notices  : List (Nat × Nat) := []
  withdrawn : List (Nat × Nat) := []
  busy     : List Nat := []
  deferred : Table (List Deferred) := []
  hubWait  : List Deferred := []
  holds    : Nat := 0
  swapOut  : Nat := 0
  swapIn   : Nat := 0
  firmware : Option Nat := none
deriving DecidableEq, Repr

/-- A work request on a queue pair (R205, R222, R436): the instruction in flight or the hub's own transfer it
belongs to, its first PSN and its number of packets. -/
inductive Owner where
  | flight (id : Nat)
  | gather (ctx entry : Nat)
  | gatherSig (ctx entry : Nat)
  | mirror (ctx id : Nat)
  | ledger (ctx step : Nat)
  | copy (ctx id : Nat)
  | numerics (ctx id : Nat)
  | control
deriving DecidableEq, Repr

structure WorkReq where
  owner  : Owner
  psn    : Nat
  count  : Nat
deriving DecidableEq, Repr

/-- A parked SIG (R270). -/
structure HoldEntry where
  sigPsn    : Nat
  watermark : Nat
  amount    : BitVec 32
  addr      : Nat
deriving DecidableEq, Repr

/-- A group-control message's payload (R445). -/
inductive Msg where
  | ballot (b : Ballot)
  | decision (d : Decision)
  | heartbeat (dev : Nat) (restart : Bool) (quiet : BitVec 16)
  | report (gtag reporter suspect bell reason : Nat)
  | notice (suspect kind : Nat)
  | probe (suspect : Nat)
  | probeReply (dev : Nat)
  | state (d : Option Decision)
  | resume (bell : Nat) (mask : BitVec 16)
  | takeover (dev twin : Nat) (addrs : List PortAddr)
  | groupLoss (dev : Nat) (mask : BitVec 16)
deriving DecidableEq, Repr

/-- How a subport trains (R418): Clause 73 auto-negotiation and link training, preset equalization at the configured rate, or a
chip-to-module link, which does not negotiate. -/
inductive TrainMode where
  | negotiate | preset | module
deriving DecidableEq, Repr

/-- The headers of a frame the module sends on a subport (R423, R424, R427, R439): PCP and VID of its tag (none: untagged), DSCP,
ECT(0), DF of an IPv4 packet, the UDP ports, which frame of its message it is, the BTH opcode of an Agbel packet or a CNP, and the
Agbel header's bytes. -/
structure FrameHdr where
  port    : Nat
  sub     : Nat
  tag     : Option (Nat × Nat)
  dscp    : Nat
  ect     : Bool
  df      : Bool
  sport   : Nat
  dport   : Nat
  part    : Nat
  opcode  : Option Nat
  hdr     : List Byte
deriving DecidableEq, Repr

/-- What the messages of PTP that the module sends name: DOMAIN and TRANSPORT of NET_PTP (R447). -/
structure PtpHdr where
  domain    : Nat
  transport : Nat
deriving DecidableEq, Repr

/-- A packet, message, event or write the module has sent. -/
inductive Output where
  | sesReply (port sub : Nat) (dqpn : Nat) (dip : BitVec 128) (ctx code abiMin abiMax : Nat) (token : Word) (modQpn : Nat)
             (featDevice featActive nonce : Reg) (winBase : Nat) (winKey : Reg)
  | ack (qpn psn : Nat)
  | nak (qpn psn : Nat) (syndrome : Nat)
  | rnr (qpn psn timer : Nat)
  | readResponse (qpn psn : Nat) (data : List Byte)
  | atomicResponse (qpn psn : Nat) (old : Word)
  | rdmaWrite (qpn psn : Nat) (remote : Nat) (src : Nat) (len : Nat) (imm : Option Reg)
  | rdmaWriteData (qpn psn : Nat) (remote : Nat) (data : List Byte)
  | rdmaRead (qpn psn : Nat) (remote : Nat) (len : Nat)
  | reduceWrite (qpn psn : Nat) (h : ReduceHdr) (src : Nat) (records : Nat)
  | sig (qpn psn : Nat) (h : SigHdr)
  | retransmit (qpn psn : Nat)
  | hostWrite (qpn psn : Nat) (addr : Nat) (key : Reg) (data : List Byte)
  | vote (qpn psn dst : Nat) (h : VoteHdr) (m : Msg)
  | stateCopy (ctx dst genState genMap : Nat)
  | arpReply (port sub : Nat) (addr : BitVec 32) (mac : BitVec 48)
  | neighborAdvert (port sub : Nat) (addr : BitVec 128) (mac : BitVec 48)
  | echoReply (port sub : Nat) (addr : BitVec 128) (data : List Byte)
  | gratuitousArp (port sub : Nat) (addr : BitVec 128) (mac : BitVec 48) (override : Bool)
  | resolveMac (qpn : Nat)
  | delayResp (port : Nat) (peer : Bool) (h : PtpHdr)
  | announce (port : Nat) (h : PtpHdr) (m : Master)
  | ptpSync (port : Nat) (h : PtpHdr)
  | delayReq (port : Nat) (peer : Bool) (h : PtpHdr)
  | ibi (code : Nat)
  | linkTrain (port sub : Nat) (mode : TrainMode)
  | cnp (qpn : Nat)
  | udCnp (port sub : Nat) (dqpn : Nat) (dip : BitVec 128)
  | pfc (port sub prio : Nat) (xoff : Bool)
  | frame (h : FrameHdr) (o : Output)
deriving DecidableEq, Repr

/-- A queue pair: bytes 0–111 of its context (R434) by field, and the module's own state. Rates in Mb/s times
2^16 (R427). -/
structure Qp where
  used     : Bool := false
  state    : Nat := 0
  ud       : Bool := false
  agbel    : Bool := false
  immV     : Bool := false
  ctx      : Nat := 0
  port     : Nat := 0
  sub      : Nat := 0
  pmtu     : Nat := 1
  dqpn     : Nat := 0
  sqPsn    : Nat := 0
  rqPsn    : Nat := 0
  timeout  : Nat := 1
  retry    : Nat := 0
  rnrRetry : Nat := 0
  minRnr   : Nat := 0
  respRes  : Nat := 1
  initDepth : Nat := 1
  pcp      : Nat := 3
  dscp     : Nat := 26
  vid      : Nat := 0
  untag    : Bool := false
  sport    : Nat := 0
  pkey     : Nat := 0xFFFF
  sip      : BitVec 128 := 0
  dip      : BitVec 128 := 0
  lwinBase : Nat := 0
  lwinLen  : Nat := 0
  lkey     : Reg := 0
  lacc     : Nat := 0
  immSem   : Nat := 0
  rwinBase : Nat := 0
  rwinLen  : Nat := 0
  rkey     : Reg := 0
  qkey     : Reg := 0
  -- module state (bytes 112–255)
  session  : Bool := false
  macKnown : Bool := false
  /-- Its MAC address is to be resolved when FP2 runs again (R451). -/
  macDue   : Bool := false
  work     : List WorkReq := []
  lastData : Nat := 2 ^ 24 - 1
  tries    : Nat := 0
  rnrTries : Nat := 0
  rnrWait  : Bool := false
  holds    : List HoldEntry := []
  lost     : Bool := false
  held     : List Output := []
  portBuf  : List Instr := []
  rate     : Nat := 0
  target   : Nat := 0
  alpha    : Nat := 65536
  recover  : Nat := 0
  /-- A CNP has been sent for it (R427). -/
  cnpSent  : Bool := false
  /-- The PSN that an RNR NAK named, while its timer runs (R271). -/
  rnrPsn   : Nat := 0
  /-- Answers of the newest atomics by PSN, newest first, to repeat when their requests come again. -/
  atomics  : List (Nat × Word) := []
deriving DecidableEq, Repr

/-- One subport (R420, R421, R426). -/
structure Subport where
  up     : Bool := false
  /-- Receive lanes whose P/N inversion training has corrected, as a mask (R545). -/
  polarity : Nat := 0
  ipv4   : BitVec 32 := 0
  ipv6   : BitVec 128 := 0
  paused : List Nat := []
deriving DecidableEq, Repr

/-- A message queued on a subport (R425): its queue pair, and how many of its frames have gone. -/
structure Egress where
  qpn  : Nat
  out  : Output
  sent : Nat := 0
deriving DecidableEq, Repr

/-- Ports and time (R416–R450). Subport s of port p is entry 4p + s. `egress` holds the packets queued on each subport, oldest first, and
`turn` the queue pair served last by (subport, PCP) (R425); `xoffs` are the (subport, priority) pairs paused by this module, and the
`drop` counters count frames longer than 9,216 bytes, frames without room, and UD packets without a context (R423, R426, R438); `udCnp`: a
CNP has answered a UD packet (R427); `mac` is the base MAC address that a record gave (R421); `wasReady`: READY has been reached since
reset (R450); `master` is the best master heard of and `follows` the port whose Syncs the module follows (R446). -/
structure Net where
  subs      : Table Subport := []
  storm     : List Nat := []
  ignored   : List Nat := []
  fecUncorr : Table Nat := []
  ptpState  : Nat := 0
  offset    : Int := 0
  goodSyncs : Nat := 0
  badSyncs  : Nat := 0
  ppsOk     : Bool := false
  ppsBad    : Nat := 0
  faultSent : Bool := false
  cache     : List Nat := []
  egress    : Table (List Egress) := []
  turn      : Table Nat := []
  xoffs     : List (Nat × Nat) := []
  dropLong  : Nat := 0
  dropFull  : Nat := 0
  dropUd    : Nat := 0
  udCnp     : Bool := false
  mac       : Option (BitVec 48) := none
  wasReady  : Bool := false
  master    : Option Master := none
  follows   : Option Nat := none
deriving DecidableEq, Repr

/-- State of a slot position (R318). -/
inductive SlotState where
  | free | opened | complete | taken
deriving DecidableEq, Repr

/-- A slot position (R313, R318, R319): binding, count, per-block scale bytes and NONFIN flags, and the
integer slots, element k in place k (none listed: 0). `second` marks the second position of an E5M2 tile, and `stamp` orders
completions (R339). -/
structure Slot where
  state  : SlotState := .free
  ctx    : Nat := 0
  step   : Nat := 0
  att    : Nat := 0
  tid    : Nat := 0
  fmt    : Nat := 4
  count  : Nat := 0
  scales : Table Nat := []
  nonfin : List Nat := []
  sums   : List Int := []
  second : Bool := false
  stamp  : Nat := 0
deriving DecidableEq, Repr

/-- A tile the Mill front has handed to a station (R337, R339): its shard as it was armed, and its delivered A40 elements. -/
structure StationJob where
  ctx   : Nat
  step  : Nat
  shard : Shard
  tile  : Nat
  pos   : Nat
  elems : List A40
deriving DecidableEq, Repr

/-- STATE of a suspicion entry (R378): judged until it answers or is declared, or due for a declaration that waits for FP4 (R476), with
PARTIAL or without. -/
inductive SuspectState where
  | judged
  | due (part : Bool)
deriving DecidableEq, Repr

/-- An entry of the suspicion table (R378). -/
structure Suspect where
  dev     : Nat
  first   : Nat
  reason  : Nat
  reports : Nat
  state   : SuspectState := .judged
  /-- Its NOTICE and PROBE have gone out (R378, R476). -/
  asked   : Bool := true
deriving DecidableEq, Repr

/-- A takeover under way (R389): the failed module, its twin, and the former device ID of the chosen stand-in. -/
structure Takeover where
  dev     : Nat
  twin    : Nat
  standin : Option Nat
deriving DecidableEq, Repr

/-- A module's view of its group (R370–R391). `addrs`, `active`, `standins`, `links` (the far ends of its PEER links) and `twins` (the
twin of each device) are what its firmware knows of the group. `silent` and `parentSilent` count silent Bells; `held` are the suspects
this module has reported, `reported` those of this Bell; `clears` and `streak` serve the PARTIAL rule of R378; `joining` are failed device
IDs that a stand-in adopts, `takeovers` their takeovers, and `copied` those whose copies this module has sent (R389); `newest` is the
newest decision of each group tag, `states` are the STATE messages in (sender, tag, decision), and `abortDue` the contexts whose ABORT a
new coordinator owes (R374, R445); `lastQuiet` is the quiet mask of the last armed heartbeat (R392); `mirrorGen` holds, by 16 × owner +
context, the committed generations (STATE, MAP) of the mirrors this module keeps as a twin (R341, R387); `lostDue` are failed devices
whose queue pairs FP2 has still to put into ERROR (R451). -/
structure Group where
  addrs     : List (Nat × PortAddr) := []
  active    : List Nat := []
  standins  : List Nat := []
  links     : List Nat := []
  twins     : Table Nat := []
  silent    : Table Nat := []
  parentSilent : Nat := 0
  toReport  : Table Nat := []
  held      : Table Nat := []
  reported  : List Nat := []
  suspects  : List Suspect := []
  known     : List Nat := []
  clears    : Table Nat := []
  streak    : Table (Nat × Nat) := []
  drops     : Nat := 0
  fenced    : Bool := false
  standby   : Bool := false
  takingOver : Option (Nat × Nat) := none
  takeAddrs : List PortAddr := []
  announceLeft : Nat := 0
  quietSeen : Table (BitVec 16) := []
  joining   : List Nat := []
  abortPending : List Nat := []
  states    : List (Nat × Nat × Option Decision) := []
  newCoord  : Bool := false
  newest    : Table Decision := []
  early     : List (Nat × Ballot) := []
  takeovers : List Takeover := []
  copied    : List Nat := []
  abortDue  : List Nat := []
  lastQuiet : BitVec 16 := 0
  mirrorGen : Table (Nat × Nat) := []
  lostDue   : List Nat := []
deriving DecidableEq, Repr

/-- A core's image (R473, R487): the flash slot it came from (1: slot B), its bundle's version and catalogue, and its SHA-256. -/
structure Image where
  slot      : Nat := 0
  version   : Word := 0
  hash      : BitVec 256 := 0
  catalogue : List Byte := []
deriving DecidableEq, Repr

/-- A firmware core (R480): STATE, REASON, SLOT (1: slot B) and RESTARTS; the Bell its restart began at, the Bells of
its restarts that R479 counts, the reason of a restart that waits, and the image it runs. -/
structure Core where
  state    : Nat := 0
  reason   : Nat := 0
  slot     : Nat := 0
  restarts : Nat := 0
  since    : Nat := 0
  recent   : List Nat := []
  why      : Nat := 0
  img      : Image := {}
deriving DecidableEq, Repr

/-- A flash slot's bundle (R487), as read by the checks of R488 and R500: `fp0Ok` are the images of order 3 (boot ROM extension and FP0),
`imagesOk` those of order 5 (FP1–FP7). -/
structure Bundle where
  present : Bool := false
  sigOk   : Bool := false
  fp0Ok   : Bool := false
  imagesOk : Bool := false
  svn     : Nat := 0
  version : Word := 0
  minPrev : Word := 0
  hashes  : Table (BitVec 256) := []
  catalogue : List Byte := []
deriving DecidableEq, Repr

/-- A trace record (R485). -/
structure TraceRec where
  seq  : Nat
  bell : Nat
  id   : Nat
  src  : Nat
deriving DecidableEq, Repr

/-- A log record (R482). -/
structure LogRec where
  bell  : Nat
  seq   : Nat
  src   : Nat
  level : Nat
  ctx   : Nat
  code  : Nat
deriving DecidableEq, Repr

/-- Firmware (R472–R495). `late` are commands that wait for a core to run again (R458, R476), oldest first. `order` are the cores an
activation still has to restart, `current` the one it restarts, `onStaged` those that run the staged image in the order of their restarts,
`undo` those a rollback still has to restart. `staging` is a bundle with the first check it fails, or 0. -/
structure Firmware where
  cores    : Table Core := []
  late     : List (Nat × Instr) := []
  updState : Nat := 0
  updResult : Nat := 0
  stg      : Word := 0
  staging  : Option (Nat × Bundle) := none
  order    : List Nat := []
  current  : Option Nat := none
  onStaged : List Nat := []
  undo     : List Nat := []
  /-- The hub's copies of each core's image: two of the slot it runs from, one of the slot before; and the SHA-256 recorded for it
  (R473). -/
  copies   : Table (List Image) := []
  prev     : Table Image := []
  loads    : Table (BitVec 256) := []
  /-- What a READ of a core's registers returns while it restarts: the last shadow copy, by window offset (R458). -/
  frozen   : Table (Table Reg) := []
  isStaged : Bool := false
  waitSince : Nat := 0
  confirmSince : Nat := 0
  slotA    : Bundle := { present := true, sigOk := true, fp0Ok := true, imagesOk := true }
  slotB    : Bundle := {}
  activeB  : Bool := false
  logQueue : List LogRec := []
  logRing  : List LogRec := []
  logSeq   : Nat := 0
  logLost  : Nat := 0
  trcSeq   : Nat := 0
  trcLost  : Nat := 0
  trcFull  : Bool := false
  trcRing  : List TraceRec := []
  trcBase  : Nat := 0
deriving DecidableEq, Repr

/-- The configuration record (R502): its header as its checks read it, and its body's Record values by register offset and base MAC address
(those of log entry 6 where it lists none). -/
structure CfgRecord where
  formOk : Bool := true
  serialOk : Bool := true
  sigOk  : Bool := true
  svn    : Nat := 0
  digest : BitVec 256 := 0
  values : Table Reg := []
  mac    : Option (BitVec 48) := none
deriving DecidableEq, Repr

/-- The security block and its non-volatile store (R496–R511). `puf` is the private key that the PUF response and the helper data give,
`certHash` the SHA-256 of the public key in the certificate, and `idKey` the identity key while the block holds it (R498, R499; log entry
12). `poked` are bytes that DBG_WRITE has put where the module keeps records of its own layout (R509; log entry 129). `harvest` places the
logical crofts of a die on its 152 positions, in ascending order of the crofts (R22, R23); `spares` are unused good positions by die,
`overlay` the remap entries (die, logical croft, position), oldest first (R25), and `testing` the crofts whose remap waits for its
self-test (R393). -/
structure Security where
  puf      : Nat := 1
  certHash : BitVec 256 := 0x9f0db5cbf5eed6fe24dff4d80f5d2f14803ebbb0c638c7ae362223ef7ddb75d8
  idKey    : Option Nat := none
  fwSvn    : Nat := 0
  cfgSvn   : Nat := 0
  debug    : Bool := false
  rdOn     : Bool := false
  wrOn     : Bool := false
  nonce    : Option (BitVec 256) := none
  dbgFail  : Nat := 0
  bootSlot : Nat := 0
  fallback : Bool := false
  meas     : Table (BitVec 256) := []
  cfg      : CfgRecord := {}
  cfgNext  : Option CfgRecord := none
  overlay  : List (Nat × Nat × Nat) := []
  harvest  : Table (List Nat) := []
  spares   : Table (List Nat) := []
  testing  : List Nat := []
  poked    : Table Byte := []
deriving DecidableEq, Repr

/-- The power-management block, its sideband and the retention cell (R513–R535). Clock indices count 0.05 GHz steps down from 1.75 GHz.
`wait`: the emergency takes effect one Bell later, and `latch`: its 1.20 GHz has not been in force yet (R519). `thermal` is the thermal
ceiling (R522). -/
structure Power where
  isOn     : Bool := true
  inRange  : Bool := true
  clk      : Nat := 11
  next     : Nat := 11
  nextCapped : Bool := false
  capped   : Bool := false
  thermal  : Nat := 0
  excess   : Nat := 0
  unmet    : Bool := false
  hold     : Bool := false
  alert    : Bool := false
  wait     : Bool := false
  latch    : Bool := false
  trips    : List Nat := []
  alerts   : Nat := 0
  tripCount : Nat := 0
  temps    : Temps := ⟨0, 0, 0, []⟩
  meas     : PowerMeas := ⟨0, 0, 0, 0, 0, 0⟩
  energy   : Nat := 0
  tray     : Nat := 1400
  inEffect : Nat := 1400
  onSent   : Option Nat := none
  offSent  : Option Nat := none
  offReason : Nat := 0
  bootFail : Nat := 0
  dynAddr  : Option Nat := none
  index    : Nat := 0
  ibiMask  : Nat := 0x1E
  armed    : Bool := false
deriving DecidableEq, Repr

/-- Wear indicators (R529–R531, R535). `daily` holds the last daily values of indicators 1–4, newest first; `cycleLog` and
`matingLog` hold (PTP time in ns, count) of the daily updates. -/
structure Health where
  days     : Nat := 65535
  limiter  : Nat := 0
  drift0   : Int := 0
  drift1   : Int := 0
  stack    : Nat := 0
  ce24     : Nat := 0
  ceStacks : List Nat := []
  lane     : Nat := 0
  eye      : Nat := 100
  eyeLanes : List Nat := []
  matings  : Nat := 0
  cycles   : Nat := 0
  hours    : Nat := 0
  dailyAt  : Nat := 0
  daily    : Table (List Int) := []
  cycleLog : List (Nat × Nat) := []
  matingLog : List (Nat × Nat) := []
deriving DecidableEq, Repr

/-- The module. -/
structure State where
  /-- The commands that wait, first in, first out. -/
  pending : List Instr := []
  /-- What the module has sent, newest first (the model's own; log entry 9). -/
  out     : List Output := []
  /-- Index of the next free value (the model's own; log entry 10). -/
  fresh   : Nat := 0
  /-- Name of the next instruction in flight (the model's own; log entry 8). -/
  nextId  : Nat := 0
  flights : List Flight := []
  -- module
  phase   : Nat := 0
  glbIgnored : Bool := false
  devid   : Nat := 0
  slotId  : Nat := 0
  shadow  : Table Reg := []
  eff     : Table Reg := []
  bellPeriod : Nat := 500
  bellEpoch  : Nat := 0
  bellNow : Nat := 0
  resident : Nat := 0
  switching : Bool := false
  switches : Table Nat := []
  mem     : Memory := []
  crofts  : Table Croft := []
  saved   : Table SaveArea := []
  tally   : Tally := {}
  ctxs    : Table Ctx := []
  slots   : Table Slot := []
  stations : Table (List StationJob) := []
  qps     : Table Qp := []
  net     : Net := {}
  group   : Group := {}
  fw      : Firmware := {}
  /-- Blocks with an uncorrectable error that quiet restores: WHERE, address, and the bytes their source holds (R409). -/
  badBlocks : List (Nat × Nat × List Byte) := []
  /-- Contexts whose numerics store has an uncorrectable error, with the state its copy holds, and queue pairs whose context has one,
  with what FP2 sets up again (R409). -/
  badStores : List (Nat × NumStore) := []
  badQps    : List (Nat × Qp) := []
  /-- Attempts (context, step, attempt) in which a croft's SRAM reported an uncorrectable error (R412). -/
  sramErrors : Table (List (Nat × Nat × Nat)) := []
  sec     : Security := {}
  pwr     : Power := {}
  hlth    : Health := {}
deriving DecidableEq, Repr

/-- Context C0, the system context, exists from reset (GLB_SESSIONS.EXISTS reads 0x0001, R459), with the lowest 4 GiB of die 0's
Ledger pool (R403). -/
def Ctx.system : Ctx := { exist := true, region := 0x3A00000000, regionGib := 4 }

/-- Right after module reset: phase POWER_GOOD with every volatile register at its reset value (R526). The
rails are up and nothing is in memory. Values the spec does not give are named in the log. -/
def State.reset : State := { ctxs := [(0, Ctx.system)] }

end Sys2Proof.Machine
end

