-- ==== Sys2Proof/Machine/Regs.lean ====
section
/-! DEFINITION. The registers of the emulated window (R6, R455, R459, R461): reset values and the values in
effect that the rest of the module reads. -/

namespace Sys2Proof.Machine

/-- Reset values of NUM_RCPn_A for entries 0–7, and again for 8–15 (R284): KIND, FMT, BLK, SCALE_MODE,
HIST_DEPTH, MARGIN, ROUND, ROTATE of R279. -/
def rcpDefaultA (n : Nat) : Nat :=
  let mk (kind fmt blk mode hist margin round : Nat) : Nat :=
    kind <<< 29 + fmt <<< 25 + blk <<< 23 + mode <<< 21 + hist <<< 16 + margin <<< 8 + round <<< 6
  match n % 8 with
  | 0 => mk 0 0 2 0 4 0 0
  | 1 => mk 1 0 1 0 4 0 0
  | 2 => mk 2 0 1 0 4 0 1
  | 3 => mk 3 4 0 1 8 0xF8 1
  | 4 => mk 4 8 0 0 0 0 1
  | 5 => mk 5 8 0 0 0 0 1
  | 6 => mk 6 8 0 0 0 0 0
  | _ => mk 7 8 0 0 0 0 1

/-- Reset values of NUM_RCPn_B (R280, R284): COMET_K, COMET_T, CLIP, CHUNK, RUNG. -/
def rcpDefaultB (n : Nat) : Nat :=
  let mk (k t : Nat) : Nat := k <<< 30 + t <<< 26 + 8 <<< 15
  match n % 8 with
  | 0 => mk 2 3
  | 1 => mk 1 3
  | 2 => mk 2 3
  | 3 => mk 0 3
  | _ => mk 0 0

/-- Value of a context-page register at context creation (R462), for the fields that software writes. -/
def ctxResetValue (off : Nat) : Reg :=
  BitVec.ofNat 32 <|
    if off = 0x004 then 2000
    else if off = 0x050 then 4 <<< 8 + 2
    else if off = 0x070 then 64 <<< 12 + 16
    else if off = 0x074 then 64 <<< 24 + 0xFE
    else if off = 0x280 then 0xF8 <<< 24 + 1
    else if 0x100 ≤ off ∧ off < 0x180 then
      (if off % 8 = 0 then rcpDefaultA ((off - 0x100) / 8) else rcpDefaultB ((off - 0x100) / 8))
    else if 0x300 ≤ off ∧ off < 0x380 then (if off % 8 = 0 then 10 <<< 24 else 0)
    else 0

/-- Value of a global-page register at module reset, for the fields that software writes (R398, R429, R447, R483, R535). The
"Record" fields are the model's choice (log entry 6): every port enabled, port 0 HOST and the others FABRIC, and able to
become grandmaster. -/
def glbResetValue (off : Nat) : Reg :=
  BitVec.ofNat 32 <|
    if off = 0x018 then (8 <<< 16) + (16 <<< 8) + 16
    else if 0x040 ≤ off ∧ off < 0x080 ∧ off % 8 = 0 then
      (1 <<< 31) + (1 <<< 26) + (8 <<< 16) + (if off = 0x040 then 0 else 0xAA <<< 8) + 8
    else if off = 0x080 then (1 <<< 26) + (0xFF <<< 8) + 128
    else if off = 0x140 then 0xAAAA
    else if off = 0x300 then 1400
    else if off = 0x310 then 95
    else 0

/-- The value a READ of a written field returns (R8). -/
def Ctx.reg (x : Ctx) (off : Nat) : Reg := Table.get (ctxResetValue off) x.shadow off

/-- The value of an RWT register in effect (R8, R9). -/
def Ctx.regEff (x : Ctx) (off : Nat) : Reg := Table.get (ctxResetValue off) x.eff off

def State.reg (s : State) (off : Nat) : Reg := Table.get (glbResetValue off) s.shadow off

def State.regEff (s : State) (off : Nat) : Reg := Table.get (glbResetValue off) s.eff off

/-- FEAT_DEVICE (R463). -/
def featDevice : Reg := 0x3F

/-- FEAT_ACTIVE = FEAT_DEVICE AND FEAT_HOST (R463). -/
def Ctx.featActive (x : Ctx) : Reg := featDevice &&& x.reg 0x010

def Ctx.feat (x : Ctx) (b : Nat) : Bool := bit x.featActive b

/-- MILL_TWIN.EN, which executes as 0 without feature TWIN (R362, R463). -/
def Ctx.twinEn (x : Ctx) : Bool := bit (x.reg 0x384) 31 && x.feat 0

def Ctx.twinQpn (x : Ctx) : Nat := bits (x.reg 0x384) 19 0

/-- MILL_MIRBASE and MILL_MIRSIZE in bytes (R362). -/
def Ctx.mirBase (x : Ctx) : Nat := (x.reg 0x388).toNat * 65536
def Ctx.mirSize (x : Ctx) : Nat := (x.reg 0x38C).toNat * 65536
def Ctx.imgSize (x : Ctx) : Nat := (x.reg 0x390).toNat * 65536

/-- LED_CFG (R368). -/
def Ctx.gtag (x : Ctx) : Nat := bits (x.reg 0x050) 31 16
def Ctx.regionSet (x : Ctx) : Nat := bits (x.reg 0x050) 15 8
def Ctx.depth (x : Ctx) : Nat := clampTo 1 4 (bits (x.reg 0x050) 2 0)

/-- NET_XCFG … NET_XTIDB (R333). -/
def Ctx.xboot (x : Ctx) : Int := signed 8 (bits (x.reg 0x280) 31 24)
def Ctx.xcontrib (x : Ctx) : Nat := clampTo 1 65536 (bits (x.reg 0x280) 16 0)
def Ctx.slotFirst (x : Ctx) : Nat := bits (x.reg 0x284) 31 16
def Ctx.slotCount (x : Ctx) : Nat := bits (x.reg 0x284) 15 0
def Ctx.mapBase (x : Ctx) : Nat := (x.reg 0x288).toNat * 65536
def Ctx.gatherBase (x : Ctx) : Nat := (x.reg 0x28C).toNat * 65536
def Ctx.gatherN (x : Ctx) : Nat := bits (x.reg 0x290) 19 0
def Ctx.tidBase (x : Ctx) : Nat := bits (x.reg 0x294) 23 0

/-- NUM_TABLES: the base of the numerics table region; 0 means there is none (R288). -/
def Ctx.tablesBase (x : Ctx) : Nat := (x.reg 0x084).toNat * 65536

/-- Far-memory window n (R413). -/
def Ctx.fwinEn (x : Ctx) (n : Nat) : Bool := bit (x.reg (0x300 + 8 * n)) 31 && x.feat 1
def Ctx.fwinQpn (x : Ctx) (n : Nat) : Nat := bits (x.reg (0x300 + 8 * n)) 19 0
def Ctx.fwinLen (x : Ctx) (n : Nat) : Nat := clampTo 1 8192 (bits (x.reg (0x304 + 8 * n)) 13 0) * 2 ^ 30

/-- TALLY_WAITWARN.BELLS in effect (R273). -/
def Ctx.waitWarn (x : Ctx) : Nat := bits (x.regEff 0x048) 15 0

/-- SES_LEASE in ms (R461). -/
def Ctx.lease (x : Ctx) : Nat := clampTo 100 60000 (bits (x.reg 0x004) 15 0)

/-- GLB_HBMCFG (R398): the Ledger pool per die in GiB, and the linear zone of a die in units of 4 GiB. -/
def State.pool (s : State) : Nat := clampTo 1 64 (bits (s.reg 0x018) 23 16)
def State.lin (s : State) (die : Nat) : Nat :=
  min ((240 - s.pool) / 4) (if die = 0 then bits (s.reg 0x018) 7 0 else bits (s.reg 0x018) 15 8)

/-- NET_PORTn (R429). -/
def State.portReg (s : State) (n : Nat) : Reg := s.reg (0x040 + 8 * n)
def State.portEn (s : State) (n : Nat) : Bool := bit (s.portReg n) 31
def State.portSplit (s : State) (n : Nat) : Nat := clampTo 0 2 (bits (s.portReg n) 30 29)
def State.portPfc (s : State) (n q : Nat) : Bool := bit (s.portReg n) (16 + q)
def State.portEcn (s : State) (n q : Nat) : Bool := bit (s.portReg n) q
def State.portRole (s : State) (n sub : Nat) : Nat := clampTo 0 2 (bits (s.portReg n) (2 * sub + 9) (2 * sub + 8))
/-- The subports a split gives (R417). -/
def State.subports (s : State) (n : Nat) : Nat := 2 ^ s.portSplit n

end Sys2Proof.Machine
end

