-- ==== Sys2Proof/Machine/Ops.lean ====
section
/-! DEFINITION. The named operations over the state: contexts, crofts and streams, what is sent, free values, held steps and queue
pairs. -/

namespace Sys2Proof.Machine

/-! Contexts. -/

def State.ctx (s : State) (c : Nat) : Ctx := Table.get {} s.ctxs c

def State.setCtx (s : State) (c : Nat) (x : Ctx) : State := { s with ctxs := Table.put s.ctxs c x }

def State.modCtx (s : State) (c : Nat) (f : Ctx → Ctx) : State := s.setCtx c (f (s.ctx c))

/-- The contexts that exist, in number order. -/
def State.contexts (s : State) : List Nat := (List.range 16).filter (fun c => (s.ctx c).exist)

/-- Does a context other than C0 exist? -/
def State.tenants (s : State) : Bool := (s.contexts.filter (· != 0)).length != 0

/-! Crofts and streams (R133, R134). -/

def Croft.strm (x : Croft) : Strm → Stream
  | .F => x.f
  | .B => x.b
  | .U => x.u

def Croft.setStrm (x : Croft) (t : Strm) (y : Stream) : Croft :=
  match t with
  | .F => { x with f := y }
  | .B => { x with b := y }
  | .U => { x with u := y }

/-- The croft as the resident context has it. -/
def State.croft (s : State) (l : Nat) : Croft := Table.get {} s.crofts l

def State.setCroft (s : State) (l : Nat) (x : Croft) : State := { s with crofts := Table.put s.crofts l x }

/-- The save area of a context's croft (R160). -/
def State.area (s : State) (c l : Nat) : SaveArea := Table.get {} s.saved (c * 288 + l)

/-- A croft's state for a context, on the croft or in the save area. -/
def State.croftOf (s : State) (c l : Nat) : Croft := if c = s.resident then s.croft l else (s.area c l).croft

def State.setCroftOf (s : State) (c l : Nat) (x : Croft) : State :=
  if c = s.resident then s.setCroft l x
  else { s with saved := Table.put s.saved (c * 288 + l) { s.area c l with croft := x } }

def State.strm (s : State) (l : Nat) (t : Strm) : Stream := (s.croft l).strm t

def State.setStrm (s : State) (l : Nat) (t : Strm) (y : Stream) : State :=
  s.setCroft l ((s.croft l).setStrm t y)

def State.modStrm (s : State) (l : Nat) (t : Strm) (f : Stream → Stream) : State :=
  s.setStrm l t (f (s.strm l t))

def State.strmOf (s : State) (c l : Nat) (t : Strm) : Stream := (s.croftOf c l).strm t

def State.setStrmOf (s : State) (c l : Nat) (t : Strm) (y : Stream) : State :=
  s.setCroftOf c l ((s.croftOf c l).setStrm t y)

/-- Scalar register n; S0 reads 0 (R133). -/
def Stream.sreg (y : Stream) (n : Nat) : Word := if n % 32 = 0 then 0 else Table.get 0 y.s (n % 32)

/-- Write scalar register n; a write to S0 is discarded (R133). -/
def Stream.setS (y : Stream) (n : Nat) (v : Word) : Stream :=
  if n % 32 = 0 then y else { y with s := Table.put y.s (n % 32) v }

/-- Pointer register n (R133). -/
def Stream.preg (y : Stream) (n : Nat) : Ptr := Table.get 0 y.p (n % 16)

def Stream.setP (y : Stream) (n : Nat) (v : Ptr) : Stream := { y with p := Table.put y.p (n % 16) v }

/-- All three streams. -/
def allStrms : List Strm := [.F, .B, .U]

/-- Crofts that hold state of a context, by logical ID: those listed. -/
def State.croftIds (s : State) (c : Nat) : List Nat :=
  if c = s.resident then s.crofts.map (·.1)
  else ((s.saved.map (·.1)).filter (fun k => k / 288 = c)).map (· % 288)

/-- Change every listed croft of a context. -/
def State.mapCrofts (s : State) (c : Nat) (f : Croft → Croft) : State :=
  (s.croftIds c).foldl (fun s l => s.setCroftOf c l (f (s.croftOf c l))) s

/-- Change every stream of a croft. -/
def Croft.mapStrms (x : Croft) (f : Stream → Stream) : Croft := { x with f := f x.f, b := f x.b, u := f x.u }

/-- Crofts with at least one HALTED stream (SES_RUN.HALTED, R461). -/
def State.haltedCrofts (s : State) (c : Nat) : Nat :=
  ((s.croftIds c).filter (fun l => allStrms.any (fun t => (s.strmOf c l t).run == .halted))).length

/-! What is sent, and free values. -/

def State.send (s : State) (o : Output) : State := { s with out := o :: s.out }

/-- A free 64-bit value that nothing else uses (log entry 10). -/
def State.draw64 (s : State) : Word × State := (Config.free64 s.fresh, { s with fresh := s.fresh + 1 })

def State.draw256 (s : State) : BitVec 256 × State := (Config.free256 s.fresh, { s with fresh := s.fresh + 1 })

/-- n free bytes. -/
def State.drawBytes (s : State) (n : Nat) : List Byte × State :=
  ((List.range n).map (fun i => Config.freeByte (s.fresh + i)), { s with fresh := s.fresh + n })

/-- Bytes that lie where the module keeps structures of its own, and hold what was put there (R408, R509; log entry 129). -/
def State.poke (s : State) (a : Nat) (bs : List Byte) : State :=
  { s with sec := { s.sec with poked := (List.zip (List.range bs.length) bs).foldl (fun t e => Table.put t (a + e.1) e.2) s.sec.poked } }

/-- The module has written the range itself: what was put there is gone. -/
def State.unpoke (s : State) (a n : Nat) : State :=
  if s.sec.poked.isEmpty then s
  else { s with sec := { s.sec with poked := s.sec.poked.filter (fun e => !(a ≤ e.1 && e.1 < a + n)) } }

/-! Firmware cores, the phase and the in-band interrupts. -/

/-- Is a core RUNNING (R480)? -/
def State.up (s : State) (k : Nat) : Bool := (Table.get {} s.fw.cores k).state == 0

/-- A command waits for a core to run again (R458, R476). -/
def State.hold (s : State) (k : Nat) (i : Instr) : State := { s with fw := { s.fw with late := s.fw.late ++ [(k, i)] } }

/-- An in-band interrupt, when IBI_MASK enables its code and the standby domain is powered (R534, R547). -/
def State.ibi (s : State) (code : Nat) : State := if s.pwr.inRange && s.pwr.ibiMask.testBit code then s.send (.ibi code) else s

/-- GLB_STATE.PHASE changes (R459, R534). -/
def State.setPhase (s : State) (p : Nat) : State := if s.phase = p then s else { s with phase := p }.ibi 3

/-! Held steps (R363, R367). -/

def Ctx.step? (x : Ctx) (n : Nat) : Option HeldStep := x.steps.find? (fun h => h.desc.step == n)

def Ctx.modStep (x : Ctx) (n : Nat) (f : HeldStep → HeldStep) : Ctx :=
  { x with steps := x.steps.map (fun h => if h.desc.step == n then f h else h) }

/-- Has the Ledger entry of step n opened (R364, R554)? -/
def Ctx.stepOpen (x : Ctx) (n : Nat) : Bool := x.steps.any (fun h => h.desc.step == n && h.opened)

def HeldStep.settled (h : HeldStep) : Bool := h.state == .committed || h.state == .skipped

/-- Held steps that have not committed, in order. -/
def Ctx.uncommitted (x : Ctx) : List HeldStep := x.steps.filter (fun h => !h.settled)

/-- The attempts of a context that run: their steps and numbers (R411, R412). -/
def Ctx.liveAttempts (x : Ctx) : List (Nat × Nat) :=
  (x.steps.filter (fun h => h.opened && !h.settled && h.state != .aborted)).map (fun h => (h.desc.step, h.tries))

/-- Is any step of the context open (R286, R288, R333: the fields that count as running)? -/
def Ctx.anyOpen (x : Ctx) : Bool := x.steps.any (fun h => h.opened && !h.settled)

/-! Queue pairs (R434). -/

def State.qp (s : State) (n : Nat) : Qp := Table.get {} s.qps n

def State.setQp (s : State) (n : Nat) (q : Qp) : State := { s with qps := Table.put s.qps n q }

def State.modQp (s : State) (n : Nat) (f : Qp → Qp) : State := s.setQp n (f (s.qp n))

/-- Bytes of a packet's payload (R434 PMTU). -/
def Qp.mtu (q : Qp) : Nat := 128 * 2 ^ clampTo 1 5 q.pmtu

/-- Packets of a message of len bytes. -/
def Qp.packets (q : Qp) (len : Nat) : Nat := max 1 ((len + q.mtu - 1) / q.mtu)

def psnAdd (p n : Nat) : Nat := (p + n) % 2 ^ 24

/-- How far a PSN lies ahead of another, modulo 2^24. -/
def psnSub (a b : Nat) : Nat := (a + 2 ^ 24 - b) % 2 ^ 24

/-- Is `a` at or behind `b`: less than half the PSN space back? -/
def psnLe (a b : Nat) : Bool := psnSub b a < 2 ^ 23

end Sys2Proof.Machine
end

