-- ==== Sys2Proof/Machine/Events.lean ====
section
/-! DEFINITION. What the firmware and the hub send on queue pairs (R229, R425, R438), and events into a session's ring (R466, R467). -/

namespace Sys2Proof.Machine

/-! Sending. -/

/-- Queue-pair contexts the hub caches (R438). -/
def cacheMax : Nat := 16384

def State.cached (s : State) (n : Nat) : Bool := s.net.cache.contains n

/-- Is a context pinned in the cache (R438)? -/
def Qp.pinned (q : Qp) : Bool := !q.work.isEmpty || !q.holds.isEmpty || !q.portBuf.isEmpty || !q.held.isEmpty

/-- Bring a context into the cache; the least recently used one that is not pinned leaves a full one. -/
def State.cacheIn (s : State) (n : Nat) : State :=
  let old := s.net.cache.filter (· != n)
  let kept :=
    if old.length < cacheMax then some old
    else match old.reverse.find? (fun m => !(s.qp m).pinned) with
      | some m => some (old.filter (· != m))
      | none => none
  match kept with
  | some c => { s with net := { s.net with cache := n :: c } }
  | none => s

/-- Can a context still enter the cache (R438)? -/
def State.cacheRoom (s : State) : Bool :=
  s.net.cache.length < cacheMax || s.net.cache.any (fun m => !(s.qp m).pinned)

/-- Queue something that a queue pair sends on its subport (R425). -/
def State.enqueue (s : State) (n : Nat) (o : Output) : State :=
  let q := s.qp n
  let k := 4 * q.port + q.sub
  { s with net := { s.net with egress := Table.put s.net.egress k (Table.get [] s.net.egress k ++ [{ qpn := n, out := o }]) } }

/-- Send something on a queue pair. It waits while the context is fetched (R438), and then in the queue of its subport (R425); a
fenced module sends nothing on a training or system queue pair (R381). -/
def State.transmit (s : State) (n : Nat) (o : Output) : State :=
  let q := s.qp n
  if s.group.fenced && !q.session then s
  else if s.cached n then (s.cacheIn n).enqueue n o
  else s.setQp n { q with held := q.held ++ [o] }

/-- Queue a work request, give it its PSNs, and send its packets. -/
def State.postAll (s : State) (n : Nat) (o : Owner) (count : Nat) (data : Bool) (outs : Nat → List Output) : State :=
  let q := s.qp n
  let w : WorkReq := ⟨o, q.sqPsn, count⟩
  let s := s.setQp n { q with
    work := q.work ++ [w], sqPsn := psnAdd q.sqPsn count
    lastData := if data then psnAdd q.sqPsn (count - 1) else q.lastData }
  (outs q.sqPsn).foldl (fun s o => s.transmit n o) s

/-- A work request of one message. -/
def State.post (s : State) (n : Nat) (o : Owner) (count : Nat) (data : Bool) (out : Nat → Output) : State :=
  s.postAll n o count data (fun p => [out p])

/-- Firmware's WRITEs to the host on a session queue pair (R466). No row brings their acknowledgment, so only the newest count as
outstanding (log entry 127). -/
def State.postHost (s : State) (n : Nat) (ws : List (Nat × Reg × List Byte)) : State :=
  let s := s.modQp n (fun q => { q with work := q.work.filter (fun w => w.owner != .control) })
  ws.foldl (fun s w => s.post n .control ((s.qp n).packets w.2.2.length) true (fun p => .hostWrite n p w.1 w.2.1 w.2.2)) s

/-! Events (R466, R467). -/

/-- Most events staged for a context (R467). -/
def stagedMax : Nat := 256

/-- Payload fields packed from bit 0 (R466). -/
def packPayload : List (Nat × Nat) → Nat
  | [] => 0
  | (v, w) :: fs => v % 2 ^ w + 2 ^ w * packPayload fs

/-- Is the ring full: HEAD − TAIL = EVR_N, modulo 2^32 (R467)? -/
def Ctx.ringFull (x : Ctx) : Bool := (x.ses.head + 2 ^ 32 - (x.reg 0x01C).toNat) % 2 ^ 32 ≥ x.ses.evrN

/-- The 64 bytes of a record (R466). -/
def Event.record (e : Event) (seq phase : Nat) : List Byte :=
  leBytes 2 e.code ++ leBytes 1 phase ++ leBytes 1 e.ctx ++ leBytes 4 seq ++ leBytes 8 e.bell ++ leBytes 48 (packPayload e.payload)

/-- Where the record at HEAD goes (R466). -/
def Session.slotAddr (x : Session) : Nat := x.evrAddr + 64 * (x.head % x.evrN)

/-- PHASE of the record at HEAD: the first pass of the ring is the odd one (R466). -/
def Session.phaseBit (x : Session) : Nat := (x.head / x.evrN + 1) % 2

/-- Write one record at HEAD: bytes 4–63, then bytes 0–3 in a second WRITE on the session queue pair (R466). -/
def State.writeEvent (s : State) (c : Nat) (e : Event) : State :=
  let x := (s.ctx c).ses
  let r := e.record x.head x.phaseBit
  (s.postHost x.modQpn [(x.slotAddr + 4, x.evrKey, r.drop 4), (x.slotAddr, x.evrKey, r.take 4)]).modCtx c
    (fun y => { y with ses := { y.ses with head := (y.ses.head + 1) % 2 ^ 32 } })

/-- Stage an event; beyond 256 it is lost and counted (R467). -/
def Session.stage (x : Session) (e : Event) : Session :=
  if x.staged.length < stagedMax then { x with staged := x.staged ++ [e] } else { x with lost := min (2 ^ 32 - 1) (x.lost + 1) }

/-- Hand an event to a context's session: into the ring, or staged while the ring is full, earlier events are staged, FP1 restarts (R476),
or the session is DETACHED. Without a session there is no ring. -/
def State.raise (s : State) (c : Nat) (tag code : Nat) (payload : List (Nat × Nat)) : State :=
  let x := s.ctx c
  let e : Event := ⟨code, tag, s.bellNow, payload⟩
  let wait := s.setCtx c { x with ses := x.ses.stage e }
  match x.ses.state with
  | .opened => if x.ringFull || !x.ses.staged.isEmpty || !s.up 1 then wait else s.writeEvent c e
  | .detached => wait
  | _ => s

/-- An event of a context to its session. -/
def State.event (s : State) (c code : Nat) (payload : List (Nat × Nat)) : State := s.raise c c code payload

/-- Contexts whose session is OPEN. -/
def State.openSessions (s : State) : List Nat := s.contexts.filter (fun c => (s.ctx c).ses.state == .opened)

/-- A module-wide event to every open session. -/
def State.eventAll (s : State) (code : Nat) (payload : List (Nat × Nat)) : State :=
  s.openSessions.foldl (fun s c => s.raise c 0xFF code payload) s

/-- Staged events that now fit are written; before the first of them EVENTS_LOST with the count of SES_EVLOST, if that is not 0 (R467).
`told`: the first one has been written, or EVENTS_LOST before it. -/
def flushGo : Nat → State → Nat → State
  | 0, s, _ => s
  | n + 1, s, c =>
    let x := s.ctx c
    if x.ses.state != .opened || x.ringFull || !s.up 1 then s
    else match x.ses.staged with
      | [] => s
      | e :: es =>
        if x.ses.lost ≠ 0 ∧ !x.ses.told then
          let s := s.modCtx c (fun x => { x with ses := { x.ses with told := true } })
          flushGo n (s.writeEvent c ⟨0x000F, c, s.bellNow, [(x.ses.lost, 32)]⟩) c
        else
          let s := s.modCtx c (fun x => { x with ses := { x.ses with staged := es, told := !es.isEmpty } })
          flushGo n (s.writeEvent c e) c

def State.flushEvents (s : State) (c : Nat) : State := flushGo (stagedMax + 2) s c

end Sys2Proof.Machine
end

