-- ==== Sys2Proof/Machine/Tally.lean ====
section
/-! DEFINITION. The Tally (chapter 9): semaphore addresses, changes, watches, wake notices, the deferred queues,
and the events of the banks. -/

namespace Sys2Proof.Machine

/-- Die field 3 executes as 2, and an index beyond a bank's last semaphore as the last one (Sync class, R251). -/
def semAddr (a : Nat) : Nat :=
  let die := min 2 (a / 2 ^ 22 % 4)
  die * 2 ^ 22 + min (a % 2 ^ 22) (if die = 2 then 16383 else 65535)

def semBank (a : Nat) : Nat := a / 2 ^ 22

/-- Common indices are 0–4,095 of each bank (R251). -/
def semCommon (a : Nat) : Bool := a % 2 ^ 22 < 4096

/-- Indices 0–1,023 belong to the firmware (R264). -/
def semFirmware (a : Nat) : Bool := a % 2 ^ 22 < 1024

/-- A result saturates to −2^31 … 2^31 − 1 (R216). -/
def sat32 (i : Int) : Int := clampInt (-2 ^ 31) (2 ^ 31 - 1) i

/-- The firmware's part of a count: free values at indices 0–1,023 once the firmware runs, and 0 elsewhere (R252, R254; log entry
13). -/
def Tally.fwPart (t : Tally) (a : Nat) : Int :=
  match t.firmware with
  | some k => if semFirmware a then (Config.firmwareCount k a).toInt else 0
  | none => 0

/-- A count in its bank. -/
def Tally.count (t : Tally) (a : Nat) : Int := sat32 (Table.get 0 t.counts a + t.fwPart a)

/-- A count in its bank takes a value. -/
def Tally.setCount (t : Tally) (a : Nat) (v : Int) : Tally := { t with counts := Table.put t.counts a (v - t.fwPart a) }

/-- A semaphore's count for a context: in the bank, or in the save image (R266). -/
def State.semCount (s : State) (c a : Nat) : Int :=
  if semCommon a || c == s.tally.holds then s.tally.count a else Table.get 0 (s.ctx c).image a

/-- Test every watch entry on a semaphore: those that hold are removed and sent wake notices (R257). -/
def Tally.test (t : Tally) (a : Nat) : Tally :=
  let n := t.count a
  let hit := fun w : Watch => w.addr == a && w.n ≤ n
  { t with watches := t.watches.filter (fun w => !hit w),
           notices := t.notices ++ (t.watches.filter hit).map (fun w => (w.croft, w.wire)) }

/-- Apply one change at its bank or save image (R216, R256, R257, R268). -/
def State.applyChange (s : State) (c a : Nat) (n : Int) : State :=
  let raw := s.semCount c a + n
  let v := sat32 raw
  let s :=
    if semCommon a || c == s.tally.holds then
      { s with tally := Tally.test (s.tally.setCount a v) a }
    else s.modCtx c (fun x => { x with image := Table.put x.image a v })
  if v = raw then s else s.modCtx c (fun x => { x with satSeen := true, satAddr := a })

/-- The firmware changes its own semaphores, and the WAITs on them are tested (R252, R254, R257). The changes are free values: each
of its counts is a new one (log entry 13). -/
def State.firmwareTick (s : State) : State :=
  let t := { s.tally with firmware := some s.fresh }
  let t := ((t.watches.map (·.addr)).filter semFirmware).foldl Tally.test t
  { s with tally := t, fresh := s.fresh + 1 }

/-- A change from any context but C0 to a firmware semaphore is discarded (R264). -/
def semDiscarded (c a : Nat) : Bool := semFirmware a && c != 0

/-- Does the bank hold changes of this context to this semaphore back, its save and restore still running
(R267)? -/
def State.semHeld (s : State) (c a : Nat) : Bool :=
  !semCommon a && s.tally.busy.contains (semBank a) && (c == s.tally.swapOut || c == s.tally.swapIn)

def deferredMax : Nat := 4096

/-- While a bank's deferred queue is full it accepts no new change for a context semaphore, of any context (R267). -/
def State.semAccepts (s : State) (a : Nat) : Bool :=
  semCommon a || !s.tally.busy.contains (semBank a) || (Table.get [] s.tally.deferred (semBank a)).length < deferredMax

/-- A change that reaches its bank (R254, R264, R267): discarded, applied, deferred, or (a completion signal, SEM_ADD or IMM_SEM that
finds the queue full) left waiting in the hub (log entry 103). -/
def State.change (s : State) (c a : Nat) (n : Int) (flight : Option Nat) : State :=
  let a := semAddr a
  if semDiscarded c a then s
  else if !s.semAccepts a then { s with tally := { s.tally with hubWait := s.tally.hubWait ++ [⟨c, a, n, flight⟩] } }
  else if s.semHeld c a then
    let q := Table.get [] s.tally.deferred (semBank a)
    { s with tally := { s.tally with deferred := Table.put s.tally.deferred (semBank a) (q ++ [⟨c, a, n, flight⟩]) } }
  else s.applyChange c a n

/-- A completion signal (R153). -/
def State.signal (s : State) (c a : Nat) (n : Nat) : State := s.change c a n none

/-- The wire of a WAIT that is saved, or being saved, at a context switch: none of the 16. -/
def noWire : Nat := 16

/-- Withdraw the registration of a stream that waits (R260): the wire stays held until the bank confirms, and a
registration on its way is void. -/
def State.withdraw (s : State) (l : Nat) (t : Strm) : State :=
  let y := s.strm l t
  match y.waiting with
  | .sem _ _ wire _ =>
    let s := s.setStrm l t { y with waiting := .none }
    if noWire ≤ wire then s
    else { s with tally := { s.tally with
        watches := s.tally.watches.filter (fun w => !(w.croft == l && w.wire == wire)),
        withdrawn := s.tally.withdrawn ++ [(l, wire)] } }
  | _ => s

/-- The stream whose WAIT holds a wire. -/
def Croft.waiter (x : Croft) (wire : Nat) : Option Strm :=
  allStrms.find? (fun t => match (x.strm t).waiting with | .sem _ _ w _ => w == wire | _ => false)

/-- A WAIT or BELLW completes: the stream runs on behind it (R218, R258). -/
def Stream.resume (y : Stream) : Stream :=
  { y with run := .running, waiting := .none, pc := y.pc + 8, stallBells := 0, stallSent := false }

def Croft.freeWire (x : Croft) (wire : Nat) : Croft := { x with wires := x.wires.filter (· != wire) }

/-- The number of no context: none is resident, or none has its semaphores in the banks (log entry 16). -/
def nobody : Nat := 16

/-- Where the save image of a context's semaphores lies (R401): compute banks 0 and 1, and the hub's. -/
def imageAddr (c bank : Nat) : Nat :=
  let die0 := 0x3C00000000 + 0x264000000
  if bank = 2 then die0 + 0x400000 + c * 0x10000 else bank * 2 ^ 38 + die0 + c * 0x40000

/-- Save the banks' context semaphores for one context and restore another's (R266); common semaphores stay
(R263). -/
def State.swapSemaphores (s : State) (out inn : Nat) : State :=
  let mine := s.tally.counts.filter (fun e => !semCommon e.1)
  let common := s.tally.counts.filter (fun e => semCommon e.1)
  let s := if out = nobody then s else
    (((s.unpoke (imageAddr out 0) 0x40000).unpoke (imageAddr out 1) 0x40000).unpoke (imageAddr out 2) 0x10000).modCtx out
      (fun x => { x with image := mine })
  let img := (s.ctx inn).image
  let s := s.modCtx inn (fun x => { x with image := [] })
  { s with tally := { s.tally with counts := common ++ img, holds := inn, busy := [0, 1, 2],
                                   swapOut := out, swapIn := inn } }

/-- Context semaphores of a context go back to 0 (R252, R385); no WAIT of it is registered (R558). -/
def State.zeroSemaphores (s : State) (c : Nat) : State :=
  let s := s.modCtx c (fun x => { x with image := [] })
  if c = s.tally.holds then
    { s with tally := { s.tally with counts := s.tally.counts.filter (fun e => semCommon e.1) } }
  else s

end Sys2Proof.Machine
end

