-- ==== Sys2Proof/Machine/Flags.lean ====
section
/-! DEFINITION. Status codes, the stream status word and how an instruction completes (R153–R158). -/

namespace Sys2Proof.Machine

/-- Status codes (R154). -/
def stOk : Nat := 0x00
def stOperand : Nat := 0x10
def stAddress : Nat := 0x11
def stNumeric : Nat := 0x20
def stNetTimeout : Nat := 0x30
def stPeerLost : Nat := 0x31
def stAborted : Nat := 0x40
def stKilled : Nat := 0x50

/-- The bit of the status word a code sets (R158). -/
def statusBit (code : Nat) : Nat :=
  if code = stNumeric then 6
  else if code = stNetTimeout ∨ code = stPeerLost then 5
  else if code = stAborted then 4
  else 7

/-- The status word after one more completion (R158): FIRST_CODE and FAULT_PC keep the first code other than
OK and NUMERIC_FLAG. -/
def noteStatus (w : Word) (pc : Ptr) (code : Nat) : Word :=
  if code = stOk then w
  else
    let w := w ||| (1 <<< statusBit code)
    if code = stNumeric ∨ bits w 15 8 ≠ 0 then w
    else w ||| BitVec.ofNat 64 (code <<< 8) ||| BitVec.ofNat 64 (pc.toNat <<< 16)

/-- RDSTAT with CLR: every field but HALTED (R158). -/
def clearStatus (w : Word) : Word := w &&& 0x80

def Stream.note (y : Stream) (pc : Ptr) (code : Nat) : Stream := { y with status := noteStatus y.status pc code }

/-- Does a completion apply the completion signal (R156)? -/
def signals (code : Nat) : Bool := code == stOk || code == stNumeric || code == stNetTimeout || code == stPeerLost

/-- A stream halts on a fault of the instruction at `pc` (R155, R158), during the attempts `live` (R411). -/
def Stream.halt (y : Stream) (pc : Ptr) (code : Nat) (live : List (Nat × Nat)) : Stream :=
  { y.note pc code with run := .halted, waiting := .none, haltedIn := live }

/-- The stream halts on an instruction that faults (R155): it writes nothing, its PC stays, and the host gets
STREAM_FAULT. -/
def State.faultAt (s : State) (l : Nat) (t : Strm) (code : Nat) : State :=
  let y := s.strm l t
  let s := s.setStrm l t (y.halt y.pc code (s.ctx s.resident).liveAttempts)
  s.event s.resident 0x0001 [(l, 16), (t.num, 8), (y.pc.toNat, 48), (code, 8)]

/-- The instruction in flight with this name. -/
def State.flight? (s : State) (id : Nat) : Option Flight := s.flights.find? (fun f => f.id == id)

def State.dropFlight (s : State) (id : Nat) : State := { s with flights := s.flights.filter (fun f => f.id != id) }

/-- An instruction in flight completes with a status: its stream's word notes it, and its completion signal is
applied where R156 gives it. A PREFETCH that fails only notes NET (R202). -/
def State.complete (s : State) (f : Flight) (code : Nat) : State :=
  let s := s.dropFlight f.id
  let y := s.strmOf f.ctx f.croft f.strm
  let s := s.setStrmOf f.ctx f.croft f.strm (y.note f.pc code)
  if f.doneAdd ≠ 0 ∧ signals code then s.signal f.ctx f.doneSem f.doneAdd else s

end Sys2Proof.Machine
end

