-- ==== Sys2Proof/Machine/Operands.lean ====
section
/-! DEFINITION. Operand forms: fields of the two instruction forms (R138, R139), addresses and where they lie
(R142, R197, R395), conflicts (R150), units (R164, R205) and when an offered instruction is ready (R238). -/

namespace Sys2Proof.Machine

/-- What every meaning answers. -/
abbrev Answer := Host.Outcome State Fault Refusal

/-! Fields of the short form (R138). -/

def fMode (w : Word) : Nat := bits w 55 48
def fTag (w : Word) : Nat := bits w 55 50
def fDst (w : Word) : Nat := bits w 47 40
def fSrc1 (w : Word) : Nat := bits w 39 32
def fSrc2 (w : Word) : Nat := bits w 31 24
def fImm (w : Word) : Nat := bits w 23 0
def fImmS (w : Word) : Int := signed 24 (bits w 23 0)

/-! Fields of the long form (R139). -/

def gTagA (w : BitVec 128) : Nat := bits w 55 50
def gTagB (w : BitVec 128) : Nat := bits w 49 44
def gFlag (w : BitVec 128) (i : Nat) : Bool := bit w i
def gDst (w : BitVec 128) : Nat := bits w 39 32
def gSrcA (w : BitVec 128) : Nat := bits w 31 24
def gSrcB (w : BitVec 128) : Nat := bits w 23 16
def gSrcC (w : BitVec 128) : Nat := bits w 15 8
def gCtl (w : BitVec 128) : Nat := bits w 7 0
def gDoneSem (w : BitVec 128) : Nat := bits w 127 104
def gDoneAdd (w : BitVec 128) : Nat := bits w 103 96
def gImm (w : BitVec 128) : Nat := bits w 95 64
def gImmS (w : BitVec 128) : Int := signed 32 (bits w 95 64)
def gQpn (w : BitVec 128) : Nat := bits w 83 64

/-- A tag is FMT in [5:2] and BLK in [1:0] (R147). -/
def tagFmt (t : Nat) : Nat := t / 4 % 16
def tagBlk (t : Nat) : Nat := min 2 (t % 4)

/-! Operand bytes (R140). -/

def tileNo (b : Nat) : Nat := b % 128
def accNo (b : Nat) : Nat := b % 64
def accShd (b : Nat) : Bool := b.testBit 6
def sNo (b : Nat) : Nat := b % 32
def pNo (b : Nat) : Nat := b % 16

/-- The first of n consecutive registers, clamped so that the range ends at the last one (R166). -/
def firstOf (count n b : Nat) : Nat := min b (count - n)

/-- A pointer plus a signed number of units, within 48 bits (R142). -/
def ptrPlus (p : Ptr) (units : Int) (size : Nat) : Nat := (BitVec.ofInt 48 (p.toNat + units * size)).toNat

/-! The device address map (R395, R401). -/

/-- Bytes of a die's half of HBM, of the system area at its top, and where the system area begins in it. -/
def dieBytes : Nat := 2 ^ 38
def systemOffset : Nat := 240 * 2 ^ 30
def hbmEnd : Nat := 2 ^ 39
def storeBase : Nat := 0x010000000000
def storeStride : Nat := 0x400000
def storeBytes : Nat := 0x300000
def tallyBase : Nat := 0x020000000000
def regBase : Nat := 0x030000000000
def windowBase : Nat := 0x040000000000
def farBase : Nat := 0x800000000000
def farStride : Nat := 0x080000000000

/-- Do `len` bytes from `a` lie in HBM, outside the system areas? -/
def inHbm (a len : Nat) : Bool := a < hbmEnd && a % dieBytes + len ≤ systemOffset

/-- Do they lie in HBM at all (R143: branch targets)? -/
def inAnyHbm (a : Nat) : Bool := a < hbmEnd

/-- Do they lie in the store of logical croft l? -/
def inStoreOf (l a len : Nat) : Bool :=
  let b := storeBase + l * storeStride
  b ≤ a && a + len ≤ b + storeBytes

/-- Do they lie in the store of some logical croft? -/
def inSomeStore (a len : Nat) : Bool :=
  storeBase ≤ a && a < storeBase + 288 * storeStride && (a - storeBase) % storeStride + len ≤ storeBytes

/-- HBM or this croft's own store. -/
def inHbmOrOwn (l a len : Nat) : Bool := inHbm a len || inStoreOf l a len

/-! Conflicts (R150). -/

/-- Do two resources share anything? -/
def Res.meets : Res → Res → Bool
  | .tile a, .tile b => a == b
  | .set a i, .set b j => a == b && i == j
  | .stat a, .stat b => a == b
  | .sreg a, .sreg b => a == b
  | .preg a, .preg b => a == b
  | .mem a n, .mem b m => a < b + m && b < a + n
  | _, _ => false

def meetsAny (xs ys : List Res) : Bool := xs.any (fun x => ys.any (fun y => x.meets y))

/-- The 64-byte blocks of `len` bytes from `a`. -/
def memRes (a len : Nat) : Res := .mem (a / 64) ((a % 64 + len + 63) / 64)

/-- Registers: S0 holds nothing, so it never conflicts. -/
def sRes (n : Nat) : List Res := if n % 32 = 0 then [] else [.sreg (n % 32)]
def pRes (n : Nat) : List Res := [.preg (n % 16)]

/-- What an instruction needs to issue: what it reads and writes, and the units it takes a slot of. -/
structure Need where
  reads  : List Res := []
  writes : List Res := []
  units  : List UnitKind := []
deriving DecidableEq, Repr

/-- Slots of a unit with its queue (R164, R205); the croft's share of the hub's engines. -/
def unitSlots : UnitKind → Nat
  | .array _ => 2
  | .converter => 5
  | .statPath => 5
  | .cometUnit => 5
  | .rotation => 3
  | .accPort _ => 2
  | .vector => 5
  | .dataMove => 64
  | .tallyPort => 8
  | .rdma => 256
  | .fp3 => 16
  | .mill => 16

/-- Slots of a hub engine for the whole module (R205). -/
def moduleSlots : UnitKind → Nat
  | .rdma => 16384
  | .mill => 1024
  | _ => 288 * 64

/-- Slots of a unit that a croft's instructions hold: those of a context that is switched out as well (R159, R205). -/
def State.unitUse (s : State) (l : Nat) (u : UnitKind) : Nat :=
  (s.flights.filter (fun f => f.croft == l && f.units.contains u)).length

/-- Work requests that the hub's RDMA engine holds: those of the instructions, of far memory, and the hub's own (R4, R205, R229). -/
def State.workUse (s : State) : Nat := (s.qps.map (fun e => e.2.work.length)).sum

/-- Slots of a unit in use in the whole module. -/
def State.moduleUse (s : State) (u : UnitKind) : Nat :=
  if u = .rdma then s.workUse else (s.flights.filter (fun f => f.units.contains u)).length

def State.unitFree (s : State) (l : Nat) (u : UnitKind) : Bool :=
  s.unitUse l u < unitSlots u && s.moduleUse u < moduleSlots u

/-- Instructions of a stream in flight. -/
def State.ownFlights (s : State) (l : Nat) (t : Strm) : List Flight :=
  s.flights.filter (fun f => f.ctx == s.resident && f.croft == l && f.strm == t)

/-- Is no earlier instruction of the stream in conflict still executing (R150, R238)? -/
def State.noConflict (s : State) (l : Nat) (t : Strm) (n : Need) : Bool :=
  (s.ownFlights l t).all (fun f =>
    !meetsAny f.writes n.reads && !meetsAny f.writes n.writes && !meetsAny f.reads n.writes)

/-- Has every earlier instruction of the stream completed (R152, R231, R236)? PREFETCH completes at issue. -/
def State.allDone (s : State) (l : Nat) (t : Strm) : Bool := (s.ownFlights l t).all (·.posted)

/-- Does the stream offer an instruction whose bytes it has buffered (R144, R149, R238)? -/
def State.offers (s : State) (l : Nat) (t : Strm) (bytes : Nat) : Bool :=
  let y := s.strm l t
  y.run == .running && !s.switching && y.windows.contains (y.pc.toNat / 4096) &&
    y.windows.contains ((y.pc.toNat + bytes - 1) / 4096)

/-- The readiness test of R238 without the conditions of an entry, and a free slot in every unit (R165). -/
def State.ready (s : State) (l : Nat) (t : Strm) (bytes : Nat) (n : Need) : Bool :=
  s.offers l t bytes && s.noConflict l t n && n.units.all (fun u => s.unitFree l u)

/-- The stream moves on to its next instruction. -/
def State.advance (s : State) (l : Nat) (t : Strm) (bytes : Nat) : State :=
  s.modStrm l t (fun y => { y with pc := y.pc + BitVec.ofNat 48 bytes })

/-- An instruction issues: it goes into flight under a new name, and its stream moves on. -/
def State.issue (s : State) (l : Nat) (t : Strm) (bytes : Nat) (n : Need) (op : FlightOp)
    (doneSem doneAdd : Nat) (far : Option Nat) (posted : Bool) : State :=
  let f : Flight := { id := s.nextId, ctx := s.resident, croft := l, strm := t, pc := (s.strm l t).pc,
                      doneSem := doneSem, doneAdd := doneAdd, units := n.units, reads := n.reads,
                      writes := n.writes, op := op, far := far, posted := posted }
  { s.advance l t bytes with flights := s.flights ++ [f], nextId := s.nextId + 1 }

/-- Has the Ledger entry of the stream's step opened (R554)? -/
def State.entryOpen (s : State) (l : Nat) (t : Strm) : Bool := (s.ctx s.resident).stepOpen (s.strm l t).step

/-- The held step a stream's instructions take their step from (R554). -/
def State.entry (s : State) (l : Nat) (t : Strm) : HeldStep :=
  ((s.ctx s.resident).step? (s.strm l t).step).getD { desc := ⟨0, 0, 0, 0, 0, 0, 0, 0, 0⟩ }

end Sys2Proof.Machine
end

