-- ==== Sys2Proof/Machine/Control.lean ====
section
/-! DEFINITION. The control class (R206–R215) and reserved opcodes (R145). -/

namespace Sys2Proof.Machine

/-- A short-form instruction that is ready acts; one that is not leaves everything as it is (log entry 1). -/
def shortForm (l : Nat) (t : Strm) (n : Need) (act : State → State) (s : State) : Answer :=
  .next (if s.ready l t 8 n then act s else s)

/-- The address a branch goes to: the branch's own plus sext(IMM24) × 8 (R143). -/
def branchTarget (pc : Ptr) (w : Word) : Nat := ptrPlus pc (fImmS w) 8

/-- Go to a target; one outside HBM, or not at a multiple of 8, is an ADDRESS_FAULT at the branch (R133,
statuses of the control class). `link` is written into P15 (R143, R208). -/
def State.goTo (s : State) (l : Nat) (t : Strm) (target : Nat) (link : Bool) : State :=
  if inAnyHbm target ∧ target % 8 = 0 then
    s.modStrm l t (fun y =>
      let y := if link then y.setP 15 (y.pc + 8) else y
      { y with pc := BitVec.ofNat 48 target })
  else s.faultAt l t stAddress

/-- Write an S register and move on. -/
def State.putS (s : State) (l : Nat) (t : Strm) (n : Nat) (v : Word) : State :=
  s.modStrm l t (fun y => { y.setS n v with pc := y.pc + 8 })

/-- NOP. -/
def execNop (c : CroftId) (t : Strm) (_w : Word) (s : State) : Answer :=
  shortForm c t {} (fun s => s.advance c t 8) s

/-- JMP (R143). -/
def execJmp (c : CroftId) (t : Strm) (w : Word) (s : State) : Answer :=
  shortForm c t {} (fun s => s.goTo c t (branchTarget (s.strm c t).pc w) false) s

/-- COND of BR (R206). -/
def condHolds (cond : Nat) (a b : Word) : Bool :=
  match cond with
  | 0 => a == b
  | 1 => a != b
  | 2 => a.toInt < b.toInt
  | 3 => b.toInt ≤ a.toInt
  | 4 => a.toNat < b.toNat
  | _ => b.toNat ≤ a.toNat

/-- BR (R206). -/
def execBr (c : CroftId) (t : Strm) (w : Word) (s : State) : Answer :=
  shortForm c t { reads := sRes (fSrc1 w) ++ sRes (fSrc2 w) } (fun s =>
    let y := s.strm c t
    if condHolds (fMode w % 8) (y.sreg (fSrc1 w)) (y.sreg (fSrc2 w)) then
      s.goTo c t (branchTarget y.pc w) false
    else s.advance c t 8) s

/-- LOOP (R207). -/
def execLoop (c : CroftId) (t : Strm) (w : Word) (s : State) : Answer :=
  shortForm c t { reads := sRes (fDst w), writes := sRes (fDst w) } (fun s =>
    let y := s.strm c t
    let v := y.sreg (fDst w)
    if v = 0 then s.advance c t 8
    else if v = 1 then s.putS c t (fDst w) 0
    else
      let target := branchTarget y.pc w
      if inAnyHbm target then
        (s.modStrm c t (fun y => y.setS (fDst w) (v - 1))).goTo c t target false
      else s.faultAt c t stAddress) s

/-- CALL (R143, R208). -/
def execCall (c : CroftId) (t : Strm) (w : Word) (s : State) : Answer :=
  shortForm c t { writes := pRes 15 } (fun s => s.goTo c t (branchTarget (s.strm c t).pc w) true) s

/-- RET (R143, R208). -/
def execRet (c : CroftId) (t : Strm) (_w : Word) (s : State) : Answer :=
  shortForm c t { reads := pRes 15 } (fun s => s.goTo c t ((s.strm c t).preg 15).toNat false) s

/-- The value SLI leaves in its register (R209). -/
def sliValue (part : Nat) (imm : Nat) (old : Word) : Word :=
  match part with
  | 0 => BitVec.ofInt 64 (signed 24 imm)
  | 1 => (old &&& ~~~(0xFFFFFF <<< 24 : Word)) ||| (BitVec.ofNat 64 imm <<< 24)
  | _ => (old &&& ~~~(0xFFFF <<< 48 : Word)) ||| (BitVec.ofNat 64 (imm % 2 ^ 16) <<< 48)

/-- SLI (R209). -/
def execSli (c : CroftId) (t : Strm) (w : Word) (s : State) : Answer :=
  shortForm c t { reads := sRes (fDst w), writes := sRes (fDst w) } (fun s =>
    s.putS c t (fDst w) (sliValue (fMode w % 4) (fImm w) ((s.strm c t).sreg (fDst w)))) s

/-- The operations of SALU (R210). -/
def saluValue (op : Nat) (a b : Word) : Word :=
  match op with
  | 0 => a + b
  | 1 => a - b
  | 2 => a * b
  | 3 => a &&& b
  | 4 => a ||| b
  | 5 => a ^^^ b
  | 6 => a <<< (b.toNat % 64)
  | 7 => a >>> (b.toNat % 64)
  | 8 => a.sshiftRight (b.toNat % 64)
  | 9 => if a.toInt ≤ b.toInt then a else b
  | 10 => if a.toInt ≤ b.toInt then b else a
  | 11 => if a.toNat ≤ b.toNat then a else b
  | _ => if a.toNat ≤ b.toNat then b else a

/-- SALU (R210). -/
def execSalu (c : CroftId) (t : Strm) (w : Word) (s : State) : Answer :=
  shortForm c t { reads := sRes (fSrc1 w) ++ sRes (fSrc2 w), writes := sRes (fDst w) } (fun s =>
    let y := s.strm c t
    s.putS c t (fDst w)
      (saluValue (fMode w) (y.sreg (fSrc1 w)) (y.sreg (fSrc2 w) + BitVec.ofInt 64 (fImmS w)))) s

/-- The pointer PSET writes (R211). -/
def psetValue (y : Stream) (w : Word) : Ptr :=
  let base : Ptr := if bit w 48 then y.preg (fSrc1 w) else (y.sreg (fSrc1 w)).setWidth 48
  BitVec.ofNat 48 (ptrPlus base (fImmS w) 64)

/-- PSET (R211). -/
def execPset (c : CroftId) (t : Strm) (w : Word) (s : State) : Answer :=
  shortForm c t { reads := if bit w 48 then pRes (fSrc1 w) else sRes (fSrc1 w), writes := pRes (fDst w) } (fun s =>
    s.modStrm c t (fun y => { y.setP (fDst w) (psetValue y w) with pc := y.pc + 8 })) s

/-- Count a TICK_OVERRUN of a context's stream, saturating (R246, R461). -/
def Ctx.overrun (x : Ctx) (t : Strm) (n : Nat) : Ctx :=
  let sat := fun v : Nat => min (2 ^ 32 - 1) (v + n)
  match t with
  | .F => { x with ovrF := sat x.ovrF }
  | .B => { x with ovrB := sat x.ovrB }
  | .U => { x with ovrU := sat x.ovrU }

/-- BELLW (R212, R246). -/
def execBellw (c : CroftId) (t : Strm) (w : Word) (s : State) : Answer :=
  shortForm c t { reads := sRes (fSrc1 w) } (fun s =>
    let target := ((s.strm c t).sreg (fSrc1 w)).toNat
    if target ≤ s.bellNow then
      (s.advance c t 8).modCtx s.resident (fun x => x.overrun t (1 + (s.bellNow - target)))
    else s.modStrm c t (fun y => { y with run := .waiting, waiting := .bell target })) s

/-- RDSTAT (R158, R213): ready once every earlier instruction of the stream has completed (R152). -/
def execRdstat (c : CroftId) (t : Strm) (w : Word) (s : State) : Answer :=
  shortForm c t { writes := sRes (fDst w) } (fun s =>
    if s.allDone c t then
      s.modStrm c t (fun y =>
        { y.setS (fDst w) y.status with
            status := if bit w 48 then clearStatus y.status else y.status, pc := y.pc + 8 })
    else s) s

/-- The arithmetic clock in MHz (R28, R213). -/
def State.clockMhz (s : State) : Nat := 1750 - 50 * s.pwr.clk

/-- The value RDCTX reads (R213). -/
def rdctxValue (s : State) (l : Nat) (t : Strm) (sel : Nat) : Nat :=
  match sel with
  | 0 => s.bellNow
  | 1 => (s.strm l t).step
  | 2 => (s.entry l t).attempt
  | 3 => l
  | 4 => s.resident
  | 5 => t.num
  | 6 => s.devid
  | _ => s.clockMhz

/-- RDCTX (R213); selectors 1 and 2 wait for the step's entry to open (R554). -/
def execRdctx (c : CroftId) (t : Strm) (w : Word) (s : State) : Answer :=
  shortForm c t { writes := sRes (fDst w) } (fun s =>
    let sel := fMode w
    if (sel = 1 ∨ sel = 2) ∧ !s.entryOpen c t then s
    else s.putS c t (fDst w) (BitVec.ofNat 64 (rdctxValue s c t sel))) s

/-- HALT (R215): ready once every earlier instruction of the stream has completed (R152). -/
def execHalt (c : CroftId) (t : Strm) (_w : Word) (s : State) : Answer :=
  shortForm c t {} (fun s =>
    if s.allDone c t then s.modStrm c t (fun y => { y with run := .idle, pc := y.pc + 8 }) else s) s

/-- An instruction with a reserved opcode completes with OPERAND_FAULT (R145). -/
def execReservedOpcode (c : CroftId) (t : Strm) (_w : Word) (s : State) : Answer :=
  shortForm c t {} (fun s => s.faultAt c t stOperand) s

/-- The windows an instruction buffer keeps: the one that holds the PC and the next (R144). -/
def keepWindows (pc : Ptr) (ws : List Nat) : List Nat :=
  ws.filter (fun v => v == pc.toNat / 4096 || v == pc.toNat / 4096 + 1)

/-- INSTRUCTION_WINDOW_ARRIVAL (R144): a 4 KiB window of code arrives in the stream's buffer. -/
def execInstructionWindowArrival (c : CroftId) (t : Strm) (window : Nat) (s : State) : Answer :=
  .next (s.modStrm c t (fun y => { y with windows := keepWindows y.pc (window :: y.windows.filter (· != window)) }))

end Sys2Proof.Machine
end

