-- ==== Sys2Proof/Machine/Numfmt.lean ====
section
/-! DEFINITION. Number formats (chapter 2) and rounding (R92–R96): exact values, what a code stands for, and
the code an exact value rounds to. -/

namespace Sys2Proof.Machine

/-- Position of the highest set bit of a positive number. -/
def log2 (m : Nat) : Nat := Nat.log2 m

namespace Val

def zero : Val := .fin false 0 0

def isNan : Val → Bool
  | .nan => true
  | _ => false

def isFinite : Val → Bool
  | .fin _ _ _ => true
  | _ => false

def isZero : Val → Bool
  | .fin _ m _ => m == 0
  | _ => false

/-- Is the sign bit set? -/
def isNeg : Val → Bool
  | .fin n _ _ => n
  | .inf n => n
  | .nan => false

def neg : Val → Val
  | .fin n m e => .fin (!n) m e
  | .inf n => .inf (!n)
  | .nan => .nan

def abs : Val → Val
  | .fin _ m e => .fin false m e
  | .inf _ => .inf false
  | .nan => .nan

/-- Multiply by 2^k. -/
def scale (k : Int) : Val → Val
  | .fin n m e => .fin n m (e + k)
  | v => v

/-- The integer a finite value is at exponent `e0`, for `e0` at most its exponent. -/
def atExp (e0 : Int) : Val → Int
  | .fin n m e => let i : Int := (m : Int) * (2 ^ (e - e0).toNat : Nat); if n then -i else i
  | _ => 0

/-- Exact sum. An exact zero sum is −0 only when both terms are −0 (IEEE 754 under nearest). -/
def add : Val → Val → Val
  | .nan, _ => .nan
  | _, .nan => .nan
  | .inf a, .inf b => if a = b then .inf a else .nan
  | .inf a, _ => .inf a
  | _, .inf b => .inf b
  | .fin a m e, .fin b n f =>
    let e0 := min e f
    let i := atExp e0 (.fin a m e) + atExp e0 (.fin b n f)
    if i = 0 then .fin (a && b && m == 0 && n == 0) 0 0 else .fin (i < 0) i.natAbs e0

/-- Exact product; 0 × ∞ is a NaN. -/
def mul : Val → Val → Val
  | .nan, _ => .nan
  | _, .nan => .nan
  | .inf a, .inf b => .inf (a != b)
  | .inf a, .fin b n _ => if n = 0 then .nan else .inf (a != b)
  | .fin a m _, .inf b => if m = 0 then .nan else .inf (a != b)
  | .fin a m e, .fin b n f => .fin (a != b) (m * n) (e + f)

/-- Are two finite magnitudes in order: |x| < |y|? -/
def absLt : Val → Val → Bool
  | .fin _ m e, .fin _ n f =>
    let e0 := min e f
    m * 2 ^ (e - e0).toNat < n * 2 ^ (f - e0).toNat
  | .fin _ _ _, .inf _ => true
  | _, _ => false

/-- x < y for values that are not NaN; +0 equals −0. -/
def lt : Val → Val → Bool
  | .fin a m e, .fin b n f =>
    let e0 := min e f
    atExp e0 (.fin a m e) < atExp e0 (.fin b n f)
  | .inf a, .inf b => a && !b
  | .inf a, .fin _ _ _ => a
  | .fin _ _ _, .inf b => !b
  | _, _ => false

/-- x = y for values that are not NaN; +0 equals −0. -/
def eqv : Val → Val → Bool
  | .fin a m e, .fin b n f =>
    let e0 := min e f
    atExp e0 (.fin a m e) == atExp e0 (.fin b n f)
  | .inf a, .inf b => a == b
  | _, _ => false

end Val

/-- A format's grid of magnitudes: significand bits with the hidden one, exponent of the smallest step,
exponent of the top binade's step, and the largest finite magnitude as a multiple of the top step. -/
structure Grid where
  p    : Nat
  q    : Int
  kmax : Int
  maxN : Nat
deriving DecidableEq, Repr

/-- The grids of FMT 0–9, 11, 12 (R38–R51): integers have one step everywhere. -/
def grid : Nat → Grid
  | 0 => ⟨2, -1, 1, 3⟩
  | 1 => ⟨3, -2, -2, 7⟩
  | 2 => ⟨4, -3, -1, 15⟩
  | 3 => ⟨3, -4, 2, 7⟩
  | 4 => ⟨4, -9, 5, 14⟩
  | 5 => ⟨3, -16, 13, 7⟩
  | 6 => ⟨7, -6, -6, 127⟩
  | 7 => ⟨1, 0, 0, 1⟩
  | 8 => ⟨8, -133, 120, 255⟩
  | 9 => ⟨11, -24, 5, 2047⟩
  | 11 => ⟨32, -157, 96, 2 ^ 32 - 1⟩
  | _ => ⟨24, -149, 104, 2 ^ 24 - 1⟩

/-- Bits of an element (R36). -/
def fmtBits : Nat → Nat
  | 0 => 4 | 1 => 4 | 2 => 6 | 3 => 6 | 4 => 8 | 5 => 8 | 6 => 8 | 7 => 2
  | 8 => 16 | 9 => 16 | 10 => 8 | 11 => 40 | _ => 32

/-- A format with a block scale (R36). -/
def scaled (fmt : Nat) : Bool := fmt ≤ 7

/-- INT4, INT8 and TERN are two's-complement or ternary, not floating point. -/
def isInt (fmt : Nat) : Bool := fmt == 1 || fmt == 6 || fmt == 7

/-- Formats that have infinities and IEEE NaNs: E5M2, BF16, FP16, FP32. -/
def hasInf (fmt : Nat) : Bool := fmt == 5 || fmt == 8 || fmt == 9 || fmt == 12

/-- What a floating-point code of `p` significand bits and smallest step 2^q stands for, `top` being the
exponent field of infinities and NaNs, if the format has such a field. -/
def decodeFloat (bitsN p : Nat) (q : Int) (top : Option Nat) (infs : Bool) (c : Nat) : Val :=
  let sgn := c.testBit (bitsN - 1)
  let mag := c % 2 ^ (bitsN - 1)
  let ef := mag / 2 ^ (p - 1)
  let mant := mag % 2 ^ (p - 1)
  if some ef = top then (if infs && mant == 0 then .inf sgn else .nan)
  else if ef = 0 then .fin sgn mant q
  else .fin sgn (2 ^ (p - 1) + mant) (q + (ef - 1 : Nat))

/-- The value v(c) of a code (R38–R50), without its block scale. -/
def decode (fmt c : Nat) : Val :=
  match fmt with
  | 0 => decodeFloat 4 2 (-1) none false c
  | 1 => let n := signed 4 (c % 16); .fin (n < 0) n.natAbs (-2)
  | 2 => decodeFloat 6 4 (-3) none false c
  | 3 => decodeFloat 6 3 (-4) none false c
  | 4 => if c % 128 = 127 then .nan else decodeFloat 8 4 (-9) none false c
  | 5 => decodeFloat 8 3 (-16) (some 31) true c
  | 6 => let n := signed 8 (c % 256); .fin (n < 0) n.natAbs (-6)
  | 7 => if c % 4 = 1 then .fin false 1 0 else if c % 4 = 3 then .fin true 1 0 else .fin false 0 0
  | 8 => decodeFloat 16 8 (-133) (some 255) true c
  | 9 => decodeFloat 16 11 (-24) (some 31) true c
  | 11 => decodeFloat 40 32 (-157) (some 255) false c
  | _ => decodeFloat 32 24 (-149) (some 255) true c

/-- The value 2^(E − 127) of an E8M0 code; 0xFF makes every element of its block a NaN (R48, R49). -/
def scaleBy (e : Nat) (v : Val) : Val := if e = 0xFF then .nan else v.scale ((e : Int) - 127)

/-- The canonical NaN of a format that has one (R53); the formats without one write +largest (R96). -/
def canonNan : Nat → Nat
  | 4 => 0x7F | 5 => 0x7E | 8 => 0x7FC0 | 9 => 0x7E00 | 11 => 0x7FC0000000 | 12 => 0x7FC00000
  | 0 => 7 | 1 => 7 | 2 => 0x1F | 3 => 0x1F | 6 => 127 | _ => 1

/-- Rounding modes (R92). -/
inductive Round where
  | rne | sr (u : Nat) | rtz | sat
deriving DecidableEq, Repr

/-- The step exponent of the grid around a magnitude m · 2^e: that of its binade, not below the smallest step
and not above the top binade's (R95). -/
def gridExp (g : Grid) (m : Nat) (e : Int) : Int :=
  if m = 0 then g.q else max g.q (min g.kmax (e + (log2 m : Int) - ((g.p : Int) - 1)))

/-- Round the magnitude m · 2^e to a multiple of 2^k. -/
def roundAt (r : Round) (m : Nat) (e k : Int) : Nat :=
  if k ≤ e then m * 2 ^ (e - k).toNat
  else
    let s := (k - e).toNat
    let n := m / 2 ^ s
    let rem := m % 2 ^ s
    match r with
    | .rtz => n
    | .sr u => if u < rem * 2 ^ 24 / 2 ^ s then n + 1 else n
    | _ => if 2 * rem < 2 ^ s then n else if 2 ^ s < 2 * rem then n + 1 else n + n % 2

/-- What a finite magnitude rounds to: the multiple and its step exponent, and whether it lies beyond the
largest finite magnitude (R55). -/
def roundMag (g : Grid) (r : Round) (m : Nat) (e : Int) : Nat × Int × Bool :=
  let k := gridExp g m e
  let n := roundAt r m e k
  (n, k, k = g.kmax ∧ g.maxN < n)

/-- The code of sign and magnitude n · 2^k on the grid. -/
def encodeMag (fmt : Nat) (sgn : Bool) (n : Nat) (k : Int) : Nat :=
  let g := grid fmt
  if fmt = 7 then (if n = 0 then 0 else if sgn then 3 else 1)
  else if isInt fmt then (if sgn then (2 ^ fmtBits fmt - n) % 2 ^ fmtBits fmt else n)
  else (k - g.q).toNat * 2 ^ (g.p - 1) + n + (if sgn then 2 ^ (fmtBits fmt - 1) else 0)

/-- The code of the largest finite magnitude with a sign. -/
def maxCode (fmt : Nat) (sgn : Bool) : Nat := encodeMag fmt sgn (grid fmt).maxN (grid fmt).kmax

/-- The code of an infinity, for a format that has one. -/
def infCode (fmt : Nat) (sgn : Bool) : Nat :=
  (match fmt with | 5 => 0x7C | 8 => 0x7F80 | 9 => 0x7C00 | _ => 0x7F800000) +
    (if sgn then 2 ^ (fmtBits fmt - 1) else 0)

/-- Does the mode write an infinity where a finite value overflows a format that has one (R55, R94)? -/
def Round.toInf : Round → Bool
  | .rne => true
  | .sr _ => true
  | _ => false

/-- The code an exact value converts to under a mode, with the block scale already divided out
(R55, R92–R96), and whether it overflowed. -/
def encode (fmt : Nat) (r : Round) : Val → Nat × Bool
  | .nan => (canonNan fmt, false)
  | .inf s => (if hasInf fmt && r.toInf then infCode fmt s else maxCode fmt s, false)
  | .fin s m e =>
    let (n, k, big) := roundMag (grid fmt) r m e
    if big then (if hasInf fmt && r.toInf then infCode fmt s else maxCode fmt s, true)
    else (encodeMag fmt s n k, false)

/-- Round to A40 (R51): nearest even, saturating; the flag says that it saturated. -/
def toA40 (v : Val) : A40 × Bool :=
  match v with
  | .nan => (BitVec.ofNat 40 (canonNan 11), false)
  | .inf s => (BitVec.ofNat 40 (maxCode 11 s), true)
  | .fin _ _ _ => let (c, o) := encode 11 .rne v; (BitVec.ofNat 40 c, o)

/-- The value of an A40 code. -/
def ofA40 (c : A40) : Val := decode 11 c.toNat

/-- The exact result of rounding to A40, as a value; beyond the range an infinity of the sign (R76, R186). -/
def roundA40Val : Val → Val
  | .fin s m e =>
    let (n, k, big) := roundMag (grid 11) .rne m e
    if big then .inf s else .fin s n k
  | v => v

/-- Round to the chunk register's FP32 (R112, R115): nearest even, saturating. -/
def toFp32Sat (v : Val) : BitVec 32 × Bool :=
  match v with
  | .nan => (BitVec.ofNat 32 (canonNan 12), false)
  | .inf s => (BitVec.ofNat 32 (maxCode 12 s), true)
  | .fin s m e =>
    let (n, k, big) := roundMag (grid 12) .rne m e
    if big then (BitVec.ofNat 32 (maxCode 12 s), true) else (BitVec.ofNat 32 (encodeMag 12 s n k), false)

def ofFp32 (c : BitVec 32) : Val := decode 12 c.toNat

/-- A zero loses its sign: an exactly zero sum of a matrix product is +0 (R54). -/
def plusZero : Val → Val
  | .fin s m e => if m = 0 then .fin false 0 0 else .fin s m e
  | v => v

/-- The step exponent q of a scaled format (R109). -/
def stepExp (fmt : Nat) : Int := (grid fmt).q

/-- The integer n = v(c) × 2^(−q) the arrays multiply (R109); 0 for a non-finite code. -/
def arrayInt (fmt c : Nat) : Int :=
  match decode fmt c with
  | .fin s m e => Val.atExp (stepExp fmt) (.fin s m e)
  | _ => 0

/-- vmax of a scaled format (R85), exactly. -/
def vmax (fmt : Nat) : Val := .fin false (grid fmt).maxN (grid fmt).kmax

/-- The smallest e with a ≤ vmax × 2^e for a > 0, compared exactly (R85). -/
def scaleExp (fmt : Nat) : Val → Int
  | .fin _ m e =>
    let g := grid fmt
    let e0 := e + (log2 m : Int) - (g.kmax + (log2 g.maxN : Int))
    -- a < 2^(e0 + 1) · 2^(floor log2 vmax): e0 or e0 + 1 is the answer
    if Val.absLt (.fin false g.maxN (g.kmax + e0)) (.fin false m e) then e0 + 1 else e0
  | _ => 0

/-- The scale code 127 + e, clamped to 0x00–0xFE (R85, R87, R88). -/
def scaleCode (e : Int) : Nat := (clampInt 0 0xFE (127 + e)).toNat

/-- Division and square root with a sticky last bit, so that rounding them once is rounding the exact result:
the quotient of two positive numbers, times 2^e. -/
def quotient (num den : Nat) (e : Int) : Nat × Int :=
  let s := log2 den + 48
  let q := num * 2 ^ s / den
  (2 * q + (if num * 2 ^ s % den = 0 then 0 else 1), e - s - 1)

/-- Floor of the square root of m · 2^(2·s), by bits from the top, with a sticky last bit. -/
def isqrtGo : Nat → Nat → Nat → Nat
  | 0, _, r => r
  | k + 1, m, r => let r' := r + 2 ^ k; if r' * r' ≤ m then isqrtGo k m r' else isqrtGo k m r

def isqrt (m : Nat) : Nat := isqrtGo (log2 m / 2 + 1) m 0

/-- √(m · 2^e) for m > 0, as a sticky dyadic. -/
def sqrtMag (m : Nat) (e : Int) : Nat × Int :=
  let (m, e) := if e % 2 = 0 then (m, e) else (2 * m, e - 1)
  let s : Nat := 48
  let n := m * 2 ^ (2 * s)
  let r := isqrt n
  (2 * r + (if r * r = n then 0 else 1), e / 2 - s - 1)

/-- Quotient of two values (IEEE 754 specials). -/
def Val.div : Val → Val → Val
  | .nan, _ => .nan
  | _, .nan => .nan
  | .inf _, .inf _ => .nan
  | .inf a, .fin b _ _ => .inf (a != b)
  | .fin a _ _, .inf b => .fin (a != b) 0 0
  | .fin a m e, .fin b n f =>
    if n = 0 then (if m = 0 then .nan else .inf (a != b))
    else if m = 0 then .fin (a != b) 0 0
    else let (q, e') := quotient m n (e - f); .fin (a != b) q e'

/-- Square root of a value (IEEE 754 specials). -/
def Val.sqrt : Val → Val
  | .fin s m e => if m = 0 then .fin s 0 0 else if s then .nan else let (r, e') := sqrtMag m e; .fin false r e'
  | .inf s => if s then .nan else .inf false
  | .nan => .nan

/-! Tile records (R61–R65). -/

/-- Bytes of the data area of a record (R62). -/
def dataBytes (fmt : Nat) : Nat := 128 * fmtBits fmt

/-- Bytes of a whole record (R62). -/
def recordBytes (fmt : Nat) : Nat := dataBytes fmt + (if scaled fmt then 64 else 0)

/-- The scale-area byte of element (i, j) under BLK (R65). -/
def scaleByte (blk i j : Nat) : Nat :=
  match blk with
  | 0 => i
  | 1 => 2 * i + j / 16
  | _ => 0

/-- Code of element k of a record (R64). -/
def codeAt (fmt : Nat) (rec : List Byte) (k : Nat) : Nat := fieldOfBytes rec (fmtBits fmt * k) (fmtBits fmt)

/-- All codes of a list of bytes, w bits each, n of them, from one number. -/
def unpack (w : Nat) : Nat → Nat → List Nat
  | 0, _ => []
  | n + 1, v => v % 2 ^ w :: unpack w n (v / 2 ^ w)

/-- The 1,024 codes of a record, in index order (R64). -/
def codes (fmt : Nat) (rec : List Byte) : List Nat :=
  let w := fmtBits fmt
  -- row by row: 32 elements are 4·w whole bytes
  (List.range 32).flatMap (fun i => unpack w 32 (leNat ((rec.drop (4 * w * i)).take (4 * w))))

/-- The scale code of element (i, j). -/
def scaleAt (fmt blk : Nat) (rec : List Byte) (i j : Nat) : Nat :=
  (rec.getD (dataBytes fmt + scaleByte blk i j) 0).toNat

/-- The 1,024 exact values of a record (R37, R49). -/
def tileVals (fmt blk : Nat) (rec : List Byte) : List Val :=
  (codes fmt rec).zipIdx.map (fun (c, k) =>
    if scaled fmt then scaleBy (scaleAt fmt blk rec (k / 32) (k % 32)) (decode fmt c) else decode fmt c)

/-- The bytes of 1,024 codes and a scale area (R64, R65): row by row. -/
def packRecord (fmt : Nat) (cs : List Nat) (scales : List Nat) : List Byte :=
  let w := fmtBits fmt
  (List.range 32).flatMap (fun i => leBytes (4 * w) (packCodes w ((cs.drop (32 * i)).take 32))) ++
  (if scaled fmt then (List.range 64).map (fun i => BitVec.ofNat 8 (scales.getD i 0)) else [])

/-- Transpose 1,024 elements. -/
def transpose {α : Type} (d : α) (xs : List α) : List α :=
  (List.range 1024).map (fun k => xs.getD (32 * (k % 32) + k / 32) d)

end Sys2Proof.Machine
end

