-- ==== Sys2Proof/Machine/Arrays.lean ====
section
/-! DEFINITION. The arithmetic of the matrix arrays (R105–R121): pairings, block sums, chunk, total, promotion
and Comet products. -/

namespace Sys2Proof.Machine

/-! Pairings (R107, R108). -/

/-- Does the table of R107 accept the pairing? -/
def pairOk (a b : Nat) : Bool :=
  if a ≥ 8 || b ≥ 8 then a ≥ 8 && b ≥ 8 && a ≤ 9 && b ≤ 9
  else !(a == 7 && b == 7) && !(a == 5 && b == 5)

/-- Operand A's format: the nearest accepted value (R148). -/
def clampFmtA (f : Nat) : Nat := min 9 f

/-- Operand B's format for an A format: the accepted value nearest in code number, the lower on a tie (R108). -/
def clampFmtB (a f : Nat) : Nat := nearest ((List.range 10).filter (pairOk a)) (min 9 f)

/-! Operands as the arrays see them. -/

/-- The 32 rows of codes of a record. -/
def codeRows (fmt : Nat) (rec : List Byte) : List (List Nat) :=
  let w := fmtBits fmt
  (List.range 32).map (fun i => unpack w 32 (leNat ((rec.drop (4 * w * i)).take (4 * w))))

/-- Rows to columns. -/
def flipRows {α : Type} (d : α) (rows : List (List α)) : List (List α) :=
  (List.range 32).map (fun j => rows.map (fun r => r.getD j d))

/-- An operand: its format, 32 rows of codes along K, and the scale code of each row's two halves. -/
structure TileOp where
  fmt    : Nat
  rows   : List (List Nat)
  scales : List (Nat × Nat)
deriving DecidableEq, Repr

/-- Read a record as an operand, transposed on load if asked (R130). A transposed scaled operand has BLK 2
(R131), whose single scale serves every row. -/
def tileOp (fmt blk : Nat) (tr : Bool) (rec : List Byte) : TileOp :=
  let rows := codeRows fmt rec
  { fmt := fmt, rows := if tr then flipRows 0 rows else rows,
    scales := (List.range 32).map (fun i =>
      if tr then (scaleAt fmt blk rec 0 0, scaleAt fmt blk rec 0 0)
      else (scaleAt fmt blk rec i 0, scaleAt fmt blk rec i 16)) }

/-- The integer of an element, none for an infinity or a NaN (R109, R116). -/
def elemInt (fmt c : Nat) : Option Int :=
  match decode fmt c with
  | .fin s m e => some (Val.atExp (stepExp fmt) (.fin s m e))
  | _ => none

/-- The exact sum of products of one block of one cell, none when a code is not finite (R110, R116). -/
def blockSum : List (Option Int) → List (Option Int) → Option Int
  | [], _ => some 0
  | _, [] => some 0
  | some a :: as, some b :: bs => (blockSum as bs).map (· + a * b)
  | _, _ => none

/-- The block's value S × 2^w for a cell (R112), or NaN (R116). -/
def blockVal (qa qb : Int) (ea eb : Nat) (sum : Option Int) : Val :=
  match sum with
  | none => .nan
  | some i =>
    if ea = 0xFF ∨ eb = 0xFF then .nan
    else .fin (i < 0) i.natAbs (qa + qb + ((ea : Int) - 127) + ((eb : Int) - 127))

/-- Half h of a row's scales. -/
def halfScale (p : Nat × Nat) (h : Nat) : Nat := if h = 0 then p.1 else p.2

/-- Block b of a scaled pairing for every cell, row-major; L = 16 gives two blocks (R111). -/
def scaledBlock (a b : TileOp) (len blkNo : Nat) : List Val :=
  let cut := fun (fmt : Nat) (r : List Nat) => ((r.drop (len * blkNo)).take len).map (elemInt fmt)
  let bs := b.rows.map (cut b.fmt)
  (a.rows.zip a.scales).flatMap (fun ra =>
    let xs := cut a.fmt ra.1
    (bs.zip b.scales).map (fun rb =>
      blockVal (stepExp a.fmt) (stepExp b.fmt) (halfScale ra.2 blkNo) (halfScale rb.2 blkNo) (blockSum xs rb.1)))

/-! Chunk and total. -/

/-- Add into the FP32 chunk with one rounding; an exactly zero sum is +0 (R54, R112, R115). -/
def chunkAdd (c : BitVec 32) (v : Val) : BitVec 32 × Bool := toFp32Sat (plusZero (Val.add (ofFp32 c) v))

/-- Add into an A40 total with one rounding (R54, R113, R115, R120). -/
def totalAdd (t : A40) (v : Val) : A40 × Bool := toA40 (plusZero (Val.add (ofA40 t) v))

/-- Element k of a list of registers that may end early. -/
def cellAt {n : Nat} (xs : List (BitVec n)) (k : Nat) : BitVec n := xs.getD k 0

/-- All 1,024 registers. -/
def allCells {n : Nat} (xs : List (BitVec n)) : List (BitVec n) := (xs ++ List.replicate (1024 - xs.length) 0).take 1024

/-- Cells that are all +0 are kept as the empty list. -/
def trimCells {n : Nat} (xs : List (BitVec n)) : List (BitVec n) := if xs.all (· == 0) then [] else xs

/-- What a block does to one cell: its chunk, whether it saturated, and whether the cell's block is NaN. -/
structure CellOut where
  chunk : BitVec 32
  sat   : Bool
  isNan : Bool
deriving DecidableEq, Repr

/-- One block of every cell into the chunks. -/
def addBlock (chunk : List (BitVec 32)) (vs : List Val) : List CellOut :=
  ((allCells chunk).zip vs).map (fun p => let r := chunkAdd p.1 p.2; ⟨r.1, r.2, p.2.isNan⟩)

/-- A BF16 or FP16 element, non-finite ones as NaN (R117). -/
def finOrNan (v : Val) : Val := if v.isFinite then v else .nan

/-- A BF16 or FP16 K-tile into one chunk: each product exactly, one rounding each, in ascending k (R117). -/
def addProducts (c : BitVec 32) (o : Bool) : List Val → List Val → BitVec 32 × Bool
  | x :: xs, y :: ys =>
    let (c, o') := chunkAdd c (Val.mul (finOrNan x) (finOrNan y))
    addProducts c (o || o') xs ys
  | _, _ => (c, o)

/-- A BF16 or FP16 K-tile into the chunks of all cells; a non-finite element makes every cell of its row NaN. -/
def addTile16 (chunk : List (BitVec 32)) (a b : TileOp) : List CellOut :=
  let line := fun (fmt : Nat) (r : List Nat) =>
    let vs := r.map (decode fmt)
    (vs, vs.any (fun v => !v.isFinite))
  let as := a.rows.map (line a.fmt)
  let bs := b.rows.map (line b.fmt)
  ((allCells chunk).zipIdx).map (fun p =>
    let x := as.getD (p.2 / 32) ([], false)
    let y := bs.getD (p.2 % 32) ([], false)
    let r := addProducts p.1 false x.1 y.1
    ⟨r.1, r.2, x.2 || y.2⟩)

def ArrayState.set (x : ArrayState) (i : Nat) : AccSet := if i = 0 then x.set0 else x.set1

def ArrayState.putSet (x : ArrayState) (i : Nat) (y : AccSet) : ArrayState :=
  if i = 0 then { x with set0 := y } else { x with set1 := y }

/-- The set ACCn names: the active one, or the shadow under SHD (R122). -/
def ArrayState.named (x : ArrayState) (shd : Bool) : Nat := if shd then 1 - x.active else x.active

/-- The cells one queued pair reaches: row `line` for an entry of A, column `line` for one of B (R119). -/
def cometCells (p : CometPair) : List (Nat × A40) :=
  p.products.zipIdx.map (fun q => (if p.sideB then 32 * q.2 + p.line else 32 * p.line + q.2, q.1))

/-- Is an A40 code ± the largest finite value? No exact product is (R120), so it says that one saturated. -/
def isMaxA40 (c : A40) : Bool := c.toNat % 2 ^ 39 == maxCode 11 false

/-- Add one queued pair to the totals (R120); the flag says that OVF is to be set, or a product is NaN. -/
def addPair (x : AccSet) (p : CometPair) : AccSet × Bool :=
  let r := (cometCells p).foldl (fun (acc : List A40 × Bool) q =>
    let (v, o) := totalAdd (cellAt acc.1 q.1) (ofA40 q.2)
    (acc.1.set q.1 v, acc.2 || o || isMaxA40 q.2)) (allCells x.totals, false)
  ({ x with totals := trimCells r.1, ovf := x.ovf || r.2 }, p.products.any (fun c => (ofA40 c).isNan))

/-- Promotion of the active set (R113, R120): each chunk into its total, chunks +0, counter 0, then the queued
products in queue order. The flag says that it set OVF or that a product made a total NaN (R115, R182). -/
def ArrayState.promote (x : ArrayState) : ArrayState × Bool :=
  let i := x.active
  let st := x.set i
  let rs := ((allCells st.totals).zip (allCells x.chunk)).map (fun p => totalAdd p.1 (ofFp32 p.2))
  let st' : AccSet := { totals := trimCells (rs.map (·.1)), ovf := st.ovf || rs.any (·.2), count := 0 }
  let r := (x.comet.filter (fun p => p.set == i)).foldl (fun (acc : AccSet × Bool) p =>
    let (y, f) := addPair acc.1 p
    (y, acc.2 || f)) (st', false)
  ({ x.putSet i r.1 with chunk := [], comet := x.comet.filter (fun p => p.set != i) },
    r.2 || (r.1.ovf && !st.ovf))

/-- Is there a partial chunk or a queued product to promote (R113, R124)? -/
def ArrayState.unpromoted (x : ArrayState) : Bool :=
  (x.set x.active).count != 0 || x.comet.any (fun p => p.set == x.active)

/-- Promote what is left before a read of the totals (R113). -/
def ArrayState.settle (x : ArrayState) : ArrayState × Bool := if x.unpromoted then x.promote else (x, false)

/-- Discard the products queued for a set (R123, R178). -/
def ArrayState.dropComet (x : ArrayState) (i : Nat) : ArrayState :=
  { x with comet := x.comet.filter (fun p => p.set != i) }

/-- INIT (R123). -/
def ArrayState.init (x : ArrayState) : ArrayState :=
  { (x.putSet x.active {}).dropComet x.active with chunk := [] }

/-- The totals of cells whose block is NaN become the canonical NaN with their chunks (R116). -/
def nanTotals (totals : List A40) (rs : List CellOut) : List A40 :=
  if rs.any (·.isNan) then
    ((allCells totals).zip rs).map (fun p => if p.2.isNan then (toA40 .nan).1 else p.1)
  else totals

/-- One block into the active set, and the promotion it may trigger (R113). -/
def ArrayState.block (x : ArrayState) (chunk : Nat) (rs : List CellOut) : ArrayState × Bool :=
  let st := x.set x.active
  let st' : AccSet := { totals := nanTotals st.totals rs, ovf := st.ovf || rs.any (·.sat), count := st.count + 1 }
  let x' := { x.putSet x.active st' with chunk := trimCells (rs.map (·.chunk)) }
  let f := rs.any (·.isNan) || (st'.ovf && !st.ovf)
  if chunk ≤ st'.count then (let (y, g) := x'.promote; (y, f || g)) else (x', f)

/-- One MMA on one array (R105–R117): the new array and whether it ends with NUMERIC_FLAG. -/
def ArrayState.mma (x : ArrayState) (a b : TileOp) (len : Nat) (init : Bool) (chunk : Nat) : ArrayState × Bool :=
  let x := if init then x.init else x
  if a.fmt ≥ 8 then x.block chunk (addTile16 x.chunk a b)
  else
    (List.range (32 / len)).foldl (fun (acc : ArrayState × Bool) i =>
      let (y, f) := acc.1.block chunk (addBlock acc.1.chunk (scaledBlock a b len i))
      (y, acc.2 || f)) (x, false)

/-- The block length the arrays see: 16 when either operand has BLK 1 (R111). -/
def blockLen (fmtA blkA fmtB blkB : Nat) : Nat :=
  if (scaled fmtA && blkA == 1) || (scaled fmtB && blkB == 1) then 16 else 32

/-- Does the array run in one scaled mode: is A's format scaled? -/
def TileOp.scaledMode (a : TileOp) : Bool := scaled a.fmt

/-! Comet products (R118–R120). -/

/-- A valid side entry: row, position along K, value (R82). -/
structure SideEntry where
  row : Nat
  pos : Nat
  val : Val
deriving DecidableEq, Repr

/-- The valid entries of a 256-byte side list, ROW and POS exchanged for a transposed operand (R82, R130). -/
def sideEntries (tr : Bool) (bs : List Byte) : List SideEntry :=
  (List.range 64).filterMap (fun i =>
    let w := leNat ((bs.drop (4 * i)).take 4)
    if w.testBit 31 then
      let r := w / 2 ^ 21 % 32
      let p := w / 2 ^ 16 % 32
      some ⟨if tr then p else r, if tr then r else p, decode 8 (w % 2 ^ 16)⟩
    else none)

/-- One Comet product in A40: NaN when either factor is not finite (R120). -/
def cometProduct (x y : Val) : A40 := (toA40 (if x.isFinite && y.isFinite then Val.mul x y else .nan)).1

/-- The pairs a COMET queues for set i: A's entries, then B's (R119, R120). `va` and `vb` are the tiles' values
in the orientation the MMA reads. An extracted element of B is its side value whatever its block's scale code (log entry 112), and of
several entries for one element the first counts (log entry 113). -/
def cometPairs (i : Nat) (va vb : List Val) (ea eb : List SideEntry) : List CometPair :=
  let bAt := fun n k => match eb.find? (fun e => e.row == n && e.pos == k) with
    | some e => e.val
    | none => vb.getD (32 * n + k) Val.zero
  ea.map (fun e => ⟨i, false, e.row, (List.range 32).map (fun n => cometProduct e.val (bAt n e.pos))⟩) ++
  eb.map (fun e => ⟨i, true, e.row, (List.range 32).map (fun m => cometProduct e.val (va.getD (32 * m + e.pos) Val.zero))⟩)

/-- Entry-accumulator pairs an array's queue holds (R181). -/
def cometMax : Nat := 6

/-- Queue pairs, promoting the named set first whenever the queue is full (R181). -/
def ArrayState.queueComet (x : ArrayState) : List CometPair → ArrayState × Bool
  | [] => (x, false)
  | p :: ps =>
    let (x, f) := if cometMax ≤ x.comet.length then x.promote else (x, false)
    let (y, g) := ArrayState.queueComet { x with comet := x.comet ++ [p] } ps
    (y, f || g)

/-- 1,024 totals from a 5,120-byte A40 record, and back (R62, R64). -/
def totalsOf (bs : List Byte) : List A40 :=
  (List.range 1024).map (fun k => BitVec.ofNat 40 (leNat ((bs.drop (5 * k)).take 5)))

def totalBytes (xs : List A40) : List Byte := (allCells xs).flatMap (fun c => leBytes 5 c.toNat)

/-- ACCLD into a set (R127, R178). -/
def ArrayState.load (x : ArrayState) (i : Nat) (ts : List A40) : ArrayState :=
  let x := x.putSet i { totals := trimCells ts, ovf := ts.any isMaxA40, count := 0 }
  if i = x.active then { x.dropComet i with chunk := [] } else x

end Sys2Proof.Machine
end

