-- ==== Sys2Proof/Machine/Gen.lean ====
section
/-! DEFINITION. The stochastic generator (R97, R98). -/

namespace Sys2Proof.Machine

/-- mix of R97: three xor-shifts and two multiplications modulo 2^64. -/
def mix (z : Word) : Word :=
  let z := z ^^^ (z >>> 32)
  let z := z * 0x0000100001001001#64
  let z := z ^^^ (z >>> 28)
  let z := z * 0x0010001000100001#64
  z ^^^ (z >>> 32)

/-- The generator output for a context seed, a step, a tensor and an index below 2^40 (R98). -/
def draw (seed : Word) (step tid index : Nat) : Word :=
  mix (mix (seed ^^^ BitVec.ofNat 64 step) ^^^ BitVec.ofNat 64 (tid * 2 ^ 40 + index))

/-- The 24 bits u a stochastic rounding compares (R95). -/
def drawU (seed : Word) (step tid index : Nat) : Nat := (draw seed step tid index).toNat >>> 40

/-- The rotation sign s_j: is it −1 (R75)? -/
def signBit (seed : Word) (step rotId j : Nat) : Bool := (draw seed step rotId (2 ^ 39 + j)).toNat.testBit 63

end Sys2Proof.Machine
end

