-- ==== Sys2Proof/Machine/Quant.lean ====
section
/-! DEFINITION. The converter's pipeline (R69–R104): rotation, outliers, scale selection, rounding, statistics. -/

namespace Sys2Proof.Machine

/-! Rotation (R73–R78). -/

/-- The Walsh–Hadamard sums in natural order of 2^k integers (R74). -/
def wht : Nat → List Int → List Int
  | 0, xs => xs
  | k + 1, xs =>
    let a := xs.take (2 ^ k)
    let b := xs.drop (2 ^ k)
    wht k (List.zipWith (· + ·) a b) ++ wht k (List.zipWith (· - ·) a b)

/-- The smallest exponent of a list of finite values. -/
def minExp : List Val → Int
  | [] => 0
  | [.fin _ _ e] => e
  | .fin _ _ e :: vs => min e (minExp vs)
  | _ :: vs => minExp vs

/-- A value from an integer at an exponent. -/
def intVal (i e : Int) : Val := .fin (i < 0) i.natAbs e

/-- h of R74 and the exponent of the inverse factor q of R78, for n = 2^k. -/
def rotShift (inverse : Bool) (k : Nat) : Int :=
  if inverse then (k : Int) - ((k + 1) / 2 : Nat) else ((k + 1) / 2 : Nat)

/-- One segment of 2^k values forward (R74) or inverse (R78), rounded to A40 (R76); a non-finite element makes
all of it NaN (R77). `signs` says which s_j are −1. -/
def rotSegment (inverse : Bool) (k : Nat) (signs : List Bool) (xs : List Val) : List Val :=
  if xs.any (fun v => !v.isFinite) then xs.map (fun _ => .nan)
  else
    let e := minExp xs
    let flip := fun (p : Int × Bool) => if p.2 then -p.1 else p.1
    let ints := xs.map (Val.atExp e)
    let out := if inverse then ((wht k ints).zip signs).map flip else wht k ((ints.zip signs).map flip)
    out.map (fun i => roundA40Val (intVal i (e - rotShift inverse k)))

/-- The signs of a segment of n (R75). -/
def rotSigns (seed : Word) (step rotId n : Nat) : List Bool := (List.range n).map (signBit seed step rotId)

/-- Cut a list into pieces of n. -/
def pieces {α : Type} : Nat → Nat → List α → List (List α)
  | 0, _, _ => []
  | k + 1, n, xs => xs.take n :: pieces k n (xs.drop n)

/-- Row r of a strip of tiles side by side. -/
def stripRow (src : List (List Val)) (r : Nat) : List Val := src.flatMap (fun t => (t.drop (32 * r)).take 32)

/-- Rows of a strip back to W tiles of 1,024. -/
def unstrip (w : Nat) (rows : List (List Val)) : List (List Val) :=
  (List.range w).map (fun t => rows.flatMap (fun row => (row.drop (32 * t)).take 32))

/-- Rotate every segment of every row of a strip of W tiles, n = 2^k (R73, R187). -/
def rotStrip (inverse : Bool) (k : Nat) (signs : List Bool) (src : List (List Val)) : List (List Val) :=
  let w := src.length
  unstrip w ((List.range 32).map (fun r =>
    (pieces (32 * w / 2 ^ k) (2 ^ k) (stripRow src r)).flatMap (rotSegment inverse k signs)))

/-! Blocks (R65) and padding (R67, R169). -/

/-- Blocks of a tile in ascending order of scale byte. -/
def blockCount (blk : Nat) : Nat := match blk with | 0 => 32 | 1 => 64 | _ => 1

def blockSize (blk : Nat) : Nat := match blk with | 0 => 32 | 1 => 16 | _ => 1024

/-- Element k of tile t of the strip is padding (R169). -/
def isPad (p : ConvPlan) (t k : Nat) : Bool :=
  p.vr ≤ k / 32 || p.cols ≤ p.base % p.cols + 32 * t + k % 32

/-- The tensor index of element k of tile t (R169). -/
def elemIndex (p : ConvPlan) (t k : Nat) : Nat := p.base + k / 32 * p.cols + 32 * t + k % 32

/-- An element on its way: its index in the tile, its value, whether it is padding. -/
structure Elem where
  k   : Nat
  v   : Val
  pad : Bool
deriving DecidableEq, Repr

/-! Outlier detection (R79–R81). -/

/-- Put an element into a list ranked by magnitude, behind its equals, five kept. -/
def rankIn (e : Elem) : List Elem → List Elem
  | [] => [e]
  | r :: rs => if Val.absLt r.v e.v then e :: r :: rs else r :: rankIn e rs

/-- The five largest finite magnitudes of a block, largest first, ties by ascending position (R79). -/
def ranked (es : List Elem) : List Elem :=
  es.foldl (fun acc e => if e.pad || !e.v.isFinite then acc else (rankIn e acc).take 5) []

/-- The outlier count m: the largest j in 1–4 with a[j + 1] > 0 and a[j] > 2^t × a[j + 1] (R80). -/
def outliers (thr : Option Nat) (a : List Elem) : Nat :=
  match thr with
  | none => 0
  | some t =>
    (List.range 4).foldl (fun m i =>
      match a[i]?, a[i + 1]? with
      | some x, some y => if !y.v.isZero && Val.absLt (Val.scale t y.v) x.v then i + 1 else m
      | _, _ => m) 0

/-- The threshold exponent in force (R80). -/
def threshold (p : ConvPlan) : Option Nat :=
  if p.cometK > 0 then some p.cometT else if p.clip > 0 then some p.clip else none

/-- Rounded to nearest even in BF16: the code, unless it would be an infinity (R81, R82). -/
def sideCode (v : Val) : Option Nat :=
  let (c, big) := encode 8 .rne v
  if big then none else some c

/-- The extractable ones of the m outliers in rank order, as many as there is room for, with BF16 codes
(R81). -/
def extractable (room : Nat) : List Elem → List (Elem × Nat)
  | [] => []
  | e :: es =>
    if room = 0 then []
    else match sideCode e.v with
      | some c => (e, c) :: extractable (room - 1) es
      | none => extractable room es

/-! Statistics (R100–R102). -/

/-- The largest value of a count's field (R101). -/
def count32 : Nat := 2 ^ 32 - 1
def count16 : Nat := 2 ^ 16 - 1
def count64 : Nat := 2 ^ 64 - 1

/-- Counts add and saturate, which sets COUNT_SAT (R102); AMAX takes the maximum; ERRSQ adds in A40. -/
def StatAcc.add (a b : StatAcc) : StatAcc :=
  let big := a.countSat || b.countSat ||
    count64 < a.elements + b.elements || count64 < a.zeros + b.zeros ||
    count32 < a.saturated + b.saturated || count32 < a.nonfinite + b.nonfinite ||
    count32 < a.underflow + b.underflow || count16 < a.satblk + b.satblk ||
    count16 < a.cometOvf + b.cometOvf || count32 < a.extracted + b.extracted
  { elements := min count64 (a.elements + b.elements)
    zeros := min count64 (a.zeros + b.zeros)
    saturated := min count32 (a.saturated + b.saturated)
    nonfinite := min count32 (a.nonfinite + b.nonfinite)
    underflow := min count32 (a.underflow + b.underflow)
    satblk := min count16 (a.satblk + b.satblk)
    cometOvf := min count16 (a.cometOvf + b.cometOvf)
    extracted := min count32 (a.extracted + b.extracted)
    countSat := big
    amax := if Val.absLt (ofA40 a.amax) (ofA40 b.amax) then b.amax else a.amax
    errsq := (toA40 (Val.add (ofA40 a.errsq) (ofA40 b.errsq))).1
    tid := b.tid, fmt := b.fmt, blk := b.blk, mode := b.mode, round := b.round, rotate := b.rotate }

/-- What one block gives: codes in index order, its scale byte, side entries, squares of errors, counts, and the
block maximum a[m + 1]. -/
structure BlockOut where
  codes   : List Nat
  scale   : Nat
  entries : List Nat
  squares : List Val
  stat    : StatAcc
  amax    : Val
deriving DecidableEq, Repr

/-- The rounding mode of an element (R92, R95, R98). -/
def roundOf (p : ConvPlan) (t k : Nat) : Round :=
  match p.round with
  | 0 => .rne
  | 1 => .sr (drawU p.seed p.step p.tid (elemIndex p t k))
  | 2 => .rtz
  | _ => .sat

/-- One element rounded: code, whether it saturated, whether it was not finite, and what its error is measured
against (R91, R96, R102). `clipped`: under MAXNOW a clipped outlier is written as the format's largest magnitude (R83); under a scale
that does not come from the block it saturates as every element does (R55). -/
def roundElem (p : ConvPlan) (t : Nat) (e : Elem) (scale : Nat) (clipped : Bool) : Nat × Bool × Bool × Val :=
  let x := if scaled p.fmt then Val.scale (127 - (scale : Int)) e.v else e.v
  if !e.v.isFinite then
    -- R96: infinities follow the mode, NaNs are canonical
    ((encode p.fmt (roundOf p t e.k) x).1, false, true, .nan)
  else
    let (c, big) := encode p.fmt (roundOf p t e.k) x
    let sat := if scaled p.fmt then Val.absLt (vmax p.fmt) (Val.abs x) else big
    let c := if clipped && sat && p.code.isNone then maxCode p.fmt e.v.isNeg else c
    let q := match decode p.fmt c with
      | .fin s m f => Val.fin s m f
      | _ => Val.fin e.v.isNeg (grid p.fmt).maxN (grid p.fmt).kmax
    (c, sat, false, if scaled p.fmt then Val.scale ((scale : Int) - 127) q else q)

/-- (x − q)². -/
def errSquare (x q : Val) : Val := let d := Val.add x (Val.neg q); Val.mul d d

/-- The scale code of a block from its maximum a[m + 1] (R85–R88, R315). -/
def blockScale (p : ConvPlan) (boost : Nat) (top : Val) : Nat :=
  match p.code with
  | some c => (clampInt 0 0xFE (c + boost)).toNat
  | none => if top.isZero then 0 else scaleCode (scaleExp p.fmt top)

/-- What one element adds: (zero, saturated, nonfinite) and its code. -/
structure ElemOut where
  code   : Nat
  zero   : Bool
  sat    : Bool
  nonfin : Bool
  square : Option Val
  pad    : Bool
  taken  : Bool
  clip   : Bool
deriving DecidableEq, Repr

def countIf {α : Type} (f : α → Bool) (xs : List α) : Nat := (xs.filter f).length

/-- Stages 2–4 for one block of tile t (R79–R91); `room` entries are left in the tile's budget. -/
def convertBlock (p : ConvPlan) (t boost room : Nat) (es : List Elem) : BlockOut :=
  if es.all (·.pad) then
    { codes := es.map (fun _ => 0), scale := 0, entries := [], squares := [], stat := {}, amax := Val.zero }
  else
    let a := ranked es
    let m := outliers (threshold p) a
    let out := a.take m
    let taken := extractable (min p.cometK room) out
    let top := match a[m]? with | some e => Val.abs e.v | none => Val.zero
    let scale := blockScale p boost top
    let rs : List ElemOut := es.map (fun e =>
      if e.pad then ⟨0, false, false, false, none, true, false, false⟩
      else match taken.find? (fun q => q.1.k == e.k) with
        | some q => ⟨0, false, false, false, some (errSquare e.v (decode 8 q.2)), false, true, false⟩
        | none =>
          let clip := out.any (fun o => o.k == e.k)
          let (c, sat, nf, q) := roundElem p t e scale clip
          ⟨c, (decode p.fmt c).isZero, sat, nf, if nf then none else some (errSquare e.v q), false, false, clip⟩)
    let stay := rs.filter (fun r => !r.pad && !r.taken)
    let finite := stay.filter (fun r => !r.nonfin)
    let under := taken.isEmpty && stay.all (·.zero)
    let clipSat := p.cometK > 0 && stay.any (fun r => r.clip && r.sat)
    let allSat := !finite.isEmpty && finite.all (·.sat)
    { codes := rs.map (·.code)
      scale := if under && !p.gradW then 0 else scale
      entries := taken.map (fun q => 2 ^ 31 + q.1.k / 32 * 2 ^ 21 + q.1.k % 32 * 2 ^ 16 + q.2)
      squares := rs.filterMap (·.square)
      stat := {
        elements := countIf (fun r => !r.pad) rs
        zeros := countIf (·.zero) stay
        saturated := countIf (·.sat) stay
        nonfinite := countIf (·.nonfin) stay
        underflow := if under then 1 else 0
        satblk := if allSat || clipSat then 1 else 0
        cometOvf := if p.cometK > 0 then countIf (·.clip) stay else 0
        extracted := taken.length }
      amax := top }

/-- Entries a tile's side list holds (R81, R82). -/
def sideMax : Nat := 64

/-- The blocks of a tile one after the other, with the budget that is left. -/
def convertBlocks (p : ConvPlan) (t : Nat) : Nat → Nat → Nat → List Elem → List BlockOut
  | 0, _, _, _ => []
  | n + 1, b, room, es =>
    let size := blockSize p.blk
    let o := convertBlock p t (p.boosts.getD (32 * t + b) 0) room (es.take size)
    o :: convertBlocks p t n (b + 1) (room - o.entries.length) (es.drop size)

/-- What one tile gives: its record, its side list, its squares, its counts. -/
structure TileOut where
  record  : List Byte
  side    : List Byte
  squares : List Val
  stat    : StatAcc
deriving DecidableEq, Repr

/-- The tile of a destination without a block scale (R91, R102). -/
def convertPlain (p : ConvPlan) (t : Nat) (es : List Elem) : TileOut :=
  let rs := es.map (fun e => if e.pad then (0, false, false, none) else
    let (c, sat, nf, q) := roundElem p t e 127 false
    (c, sat, nf, if nf then none else some (errSquare e.v q)))
  let live := (es.zip rs).filter (fun r => !r.1.pad)
  let top := live.foldl (fun m r => if r.1.v.isFinite && Val.absLt m r.1.v then Val.abs r.1.v else m) Val.zero
  { record := packRecord p.fmt (rs.map (·.1)) []
    side := []
    squares := rs.filterMap (·.2.2.2)
    stat := {
      elements := live.length
      zeros := countIf (fun r => (decode p.fmt r.2.1).isZero) live
      saturated := countIf (fun r => r.2.2.1) live
      nonfinite := countIf (fun r => r.2.2.2.1) live
      amax := (toA40 top).1 } }

/-- Stages 2–5 for one tile. -/
def convertTile (p : ConvPlan) (t : Nat) (vs : List Val) : TileOut :=
  let es := vs.zipIdx.map (fun q => ({ k := q.2, v := q.1, pad := isPad p t q.2 } : Elem))
  if !scaled p.fmt then convertPlain p t es
  else
    let bs := convertBlocks p t (blockCount p.blk) 0 sideMax es
    let top := bs.foldl (fun m b => if Val.absLt m b.amax then b.amax else m) Val.zero

    let entries := bs.flatMap (·.entries)
    { record := packRecord p.fmt (bs.flatMap (·.codes)) (bs.map (·.scale))
      side := (entries ++ List.replicate (sideMax - entries.length) 0).flatMap (leBytes 4)
      squares := bs.flatMap (·.squares)
      stat := { bs.foldl (fun (a : StatAcc) (b : BlockOut) => a.add b.stat) {} with amax := (toA40 top).1 } }

/-- A conversion's own sum of squared errors: from +0, each square rounded, each sum rounded (R102). -/
def errSum (sq : List Val) : A40 :=
  sq.foldl (fun acc v => (toA40 (Val.add (ofA40 acc) (ofA40 (toA40 v).1))).1) 0

/-- The whole strip (R70): tiles and what the conversion adds to its statistics accumulator. -/
def convertStrip (p : ConvPlan) (src : List (List Val)) : List TileOut × StatAcc :=
  let src := if p.rotate = 0 then src
    else rotStrip false (p.rotate + 4) (rotSigns p.seed p.step p.rotId (2 ^ (p.rotate + 4))) src
  let ts := src.zipIdx.map (fun q => convertTile p q.2 q.1)
  let sum : StatAcc := ts.foldl (fun (a : StatAcc) (o : TileOut) => a.add o.stat) {}
  (ts, { sum with errsq := errSum (ts.flatMap (·.squares)), tid := p.tid, fmt := p.fmt, blk := p.blk,
                  mode := p.mode, round := p.round, rotate := p.rotate })

end Sys2Proof.Machine
end

