-- ==== Sys2Proof/Machine/Recipe.lean ====
section
/-! DEFINITION. Recipe entries as they execute (R279–R281), the tensor and layer tables (R288–R292), the ladder
(R290, R291) and the plan of a conversion (R71, R87–R89, R315). -/

namespace Sys2Proof.Machine

/-- A recipe entry with its clamps applied (R279–R281). -/
structure Recipe where
  kind   : Nat
  fmt    : Nat
  blk    : Nat
  mode   : Nat
  hist   : Nat
  margin : Int
  round  : Nat
  rotate : Nat
  cometK : Nat
  cometT : Nat
  clip   : Nat
  rung   : Nat
deriving DecidableEq, Repr

/-- FMT values a kind accepts (R281). -/
def kindFmts (kind : Nat) : List Nat :=
  if kind = 0 then [0, 1, 2, 3, 4, 5, 6, 7, 8, 9]
  else if kind ≤ 2 then [0, 1, 2, 3, 4, 5, 6, 8, 9]
  else if kind = 3 then [4, 5, 6]
  else [8, 9]

/-- The entry of two register words (R279–R281). -/
def recipeOf (a b : Reg) : Recipe :=
  let kind := bits a 31 29
  let wide := 4 ≤ kind
  { kind := kind
    fmt := nearest (kindFmts kind) (bits a 28 25)
    blk := if kind = 0 then min 2 (bits a 24 23) else if kind ≤ 2 then min 1 (bits a 24 23) else 0
    mode := if kind = 3 then clampTo 1 2 (bits a 22 21) else if wide then 0 else min 2 (bits a 22 21)
    hist := clampTo 1 16 (bits a 20 16)
    margin := clampInt (-127) 127 (signed 8 (bits a 15 8))
    round := bits a 7 6
    rotate := if 3 ≤ kind then 0 else min 4 (bits a 5 3)
    cometK := if 3 ≤ kind then 0 else min 2 (bits b 31 30)
    cometT := clampTo 1 8 (bits b 29 26)
    clip := if wide then 0 else min 8 (bits b 25 22)
    rung := bits b 14 13 }

/-- Entry n of a step's recipe working set. -/
def HeldStep.recipe (h : HeldStep) (n : Nat) : Recipe :=
  let p := h.recipes.getD n (BitVec.ofNat 32 (rcpDefaultA n), BitVec.ofNat 32 (rcpDefaultB n))
  recipeOf p.1 p.2

/-- A tensor-table entry (R289): RECIPE, LADDER, LAYER; 0 without tables and for a TID of 65,536 or above. -/
def State.tensor (s : State) (x : Ctx) (tid : Nat) : Nat × Bool × Nat :=
  if x.tablesBase = 0 ∨ 65536 ≤ tid then (0, false, 0)
  else
    let v := leNat (Memory.readBytes s.mem (x.tablesBase + 4 * tid) 4)
    (v / 2 ^ 10 % 16, v.testBit 9, v % 512)

/-- Word r of a layer's record: the address of its code variant (R292). -/
def State.variant (s : State) (x : Ctx) (layer r : Nat) : Nat :=
  leNat (Memory.readBytes s.mem (x.tablesBase + 0x40000 + 32 * layer + 8 * r) 8) % 2 ^ 48

/-- Address of slot L of dispatch page q (R288, R293). -/
def dispatchSlot (x : Ctx) (q layer : Nat) : Nat := x.tablesBase + 0x48000 + 0x2000 * q + 8 * layer

/-- The branch offset of a JMP from a slot to a variant, when the rung is reachable (R143, R292). A variant address that is no multiple of
8 counts with its low bits dropped (log entry 107). -/
def State.reach (s : State) (x : Ctx) (q layer r : Nat) : Option Int :=
  if x.tablesBase = 0 then none
  else
    let v := s.variant x layer r
    let d : Int := ((v : Int) - dispatchSlot x q layer) / 8
    if v = 0 ∨ d < -(2 ^ 23) ∨ 2 ^ 23 ≤ d then none else some d

/-- The format a rung gives (R290): the entry's when that is wider. -/
def ladderFmt (kind fmt r : Nat) : Nat :=
  let target := if kind ≤ 2 then
      (match r with
       | 0 => fmt
       | 1 => if kind = 0 then fmt else 2
       | 2 => 4
       | _ => 8)
    else fmt
  if fmtBits target < fmtBits fmt then fmt else target

/-- A layer's rung in a rung state. -/
def rungOf (rungs : Table Nat) (layer : Nat) : Nat := Table.get 0 rungs layer

/-- SCALE_MODE in effect, and the code it gives every block, if it is not taken from the block (R86–R88,
R301, R315). -/
def State.scalePlan (s : State) (x : Ctx) (h : HeldStep) (rc : Recipe) (tid fmt : Nat) : Nat × Option Int :=
  let tr := h.recipe (s.tensor x tid).1
  let win : Option A40 := if tid < 65536 ∧ Table.has h.snapshot tid then some (Table.get 0 h.snapshot tid) else none
  let code := fun a : A40 =>
    if (ofA40 a).isZero then (0 : Int) else clampInt 0 0xFE (127 + scaleExp fmt (ofA40 a) + tr.margin)
  if rc.kind = 3 then
    if rc.mode = 1 then (1, some (127 + tr.margin))
    else match win with
      | some a => if x.tidBase ≤ tid ∧ tid < x.tidBase + 4096 then (2, some (code a)) else (2, some (127 + x.xboot))
      | none => (2, some (127 + x.xboot))
  else if h.stage ≠ .fresh ∧ h.flagged.contains tid then (0, none)
  else match rc.mode with
    | 0 => (0, none)
    | 1 => (1, some (127 + rc.margin))
    | _ => match win with
      | some a => (2, some (code a))
      | none => (0, none)

/-- BOOST of every block of a strip of W tiles from the committed exchange map (R315–R317). -/
def State.boosts (s : State) (x : Ctx) (tid base cols w : Nat) : List Nat :=
  if x.mapBase = 0 ∨ 65536 ≤ tid then []
  else
    let arr := leNat (Memory.readBytes s.mem (x.mapBase + 8 * tid) 8) % 2 ^ 48
    if arr = 0 then []
    else
      let rec0 := base / cols / 32 * ((cols + 31) / 32) + base % cols / 32
      (Memory.readBytes s.mem (arr + 32 * rec0) (32 * w)).map (fun b => b.toNat % 4)

/-- The locator pair Sm, Sm+1 (R167, R168). -/
structure Locator where
  tid    : Nat
  base   : Nat
  rotId  : Nat
  recipe : Nat
  stag   : Nat
  vr     : Nat
  noside : Bool
  sta    : Nat
  cols   : Nat
deriving DecidableEq, Repr

/-- An odd locator number clamps to the even one below (R167). -/
def locReg (b : Nat) : Nat := b % 32 / 2 * 2

def locator (y : Stream) (m : Nat) : Locator :=
  let a := y.sreg m
  let b := y.sreg (m + 1)
  { tid := bits a 63 40, base := bits a 38 0, rotId := bits b 63 40, recipe := bits b 39 36,
    stag := bits b 35 30, vr := clampTo 1 32 (bits b 29 24), noside := bit b 23, sta := bits b 22 20,
    cols := max 1 (bits b 19 0) }

/-- Tiles of the strip: W = 2^w, at least n / 32 under rotation (R169, R170). -/
def stripTiles (rc : Recipe) (w : Nat) : Nat := if rc.rotate = 0 then 2 ^ w else max (2 ^ w) (2 ^ (rc.rotate - 1))

/-- Is the rotation's segment length a divisor of C and of the first column (R73, R170)? -/
def rotFits (rc : Recipe) (loc : Locator) : Bool :=
  rc.rotate == 0 || (loc.cols % 2 ^ (rc.rotate + 4) == 0 && loc.base % loc.cols % 2 ^ (rc.rotate + 4) == 0)

/-- The recipe entry a locator names, after the ladder: the format of its rung, and rotation only where that is a scaled format
(R290, R291). -/
def State.convRecipe (s : State) (l : Nat) (t : Strm) (loc : Locator) : Recipe :=
  let h := s.entry l t
  let rc := h.recipe loc.recipe
  let tn := s.tensor (s.ctx s.resident) loc.tid
  let fmt := ladderFmt rc.kind rc.fmt (if tn.2.1 then max rc.rung (rungOf h.attRungs tn.2.2) else rc.rung)
  { rc with fmt := fmt, rotate := if scaled fmt then rc.rotate else 0 }

/-- The plan of a conversion of the stream's step (R71, R554). To BF16 and FP16, which use neither (R290), it names the entry's BLK and the
mode `scalePlan` gives all the same, and so does the record (R101; log entry 120). -/
def State.convPlan (s : State) (l : Nat) (t : Strm) (loc : Locator) (w dst : Nat) (flag : Bool) : ConvPlan :=
  let x := s.ctx s.resident
  let h := s.entry l t
  let rc := s.convRecipe l t loc
  let fmt := rc.fmt
  let sc := s.scalePlan x h rc loc.tid fmt
  let n := stripTiles rc w
  { fmt := fmt, blk := rc.blk, mode := sc.1, code := sc.2, gradW := rc.kind == 3
    boosts := if rc.kind = 3 then s.boosts x loc.tid loc.base loc.cols n else []
    round := rc.round, rotate := rc.rotate, cometK := rc.cometK, cometT := rc.cometT, clip := rc.clip
    tid := loc.tid, base := loc.base, cols := loc.cols, vr := loc.vr, rotId := loc.rotId
    seed := x.seed, step := (s.strm l t).step, dst := dst, tiles := n, sideAddr := none, sta := loc.sta
    flag := flag }

/-- Does the conversion rotate (R73)? -/
def ConvPlan.rotates (p : ConvPlan) : Bool := p.rotate != 0

/-- Does the conversion write side lists (R176, R183)? -/
def ConvPlan.hasSide (p : ConvPlan) : Bool := scaled p.fmt && p.cometK > 0

end Sys2Proof.Machine
end

