-- ==== Sys2Proof/Machine/Convert.lean ====
section
/-! DEFINITION. The convert class (R183–R190) and the finish of conversions, rotations and statistics. -/

namespace Sys2Proof.Machine

/-! Tile registers: byte b of Tt at 2,048 t + b. -/

def tileBytes : Nat := 2048

def Croft.tile (x : Croft) (t : Nat) : List Byte := Memory.readBytes x.tiles (tileBytes * t) tileBytes

/-- Write the low bytes of a tile register; the operand buffer drops its copy of the record (R174). -/
def Croft.putTile (x : Croft) (t : Nat) (bs : List Byte) : Croft :=
  { x with tiles := Memory.writeBytes x.tiles (tileBytes * t) (bs.take tileBytes), operands := x.operands.filter (· != t) }

/-- Write consecutive tile registers. -/
def Croft.putTiles (x : Croft) (t : Nat) : List (List Byte) → Croft
  | [] => x
  | bs :: rest => Croft.putTiles (x.putTile t bs) (t + 1) rest

def Croft.array (x : Croft) (n : Nat) : ArrayState := Table.get {} x.arrays n

def Croft.putArray (x : Croft) (n : Nat) (a : ArrayState) : Croft := { x with arrays := Table.put x.arrays n a }

def Croft.stat (x : Croft) (n : Nat) : StatAcc := Table.get {} x.stats n

def Croft.putStat (x : Croft) (n : Nat) (a : StatAcc) : Croft := { x with stats := Table.put x.stats n a }

/-- Is an MMA of any stream still landing in a set (R173)? -/
def State.setBusy (s : State) (l a i : Nat) : Bool :=
  s.flights.any (fun f => f.ctx == s.resident && f.croft == l && f.writes.contains (.set a i) &&
    (match f.op with | .mma .. => true | _ => false))

/-- The tiles' resources n from the first. -/
def tileRes (first n : Nat) : List Res := (List.range n).map (fun i => .tile (first + i))

/-- The 1,024 values of a tile register in a format. -/
def Croft.tileValues (x : Croft) (fmt blk n : Nat) : List Val := tileVals fmt blk (x.tile n)

/-- The 1,024 values of a set's totals. -/
def AccSet.values (x : AccSet) : List Val := (allCells x.totals).map ofA40

/-- Does a set hold a NaN, or has it OVF set (R125, R183)? -/
def AccSet.flagged (x : AccSet) : Bool := x.ovf || x.values.any Val.isNan

/-- W = 2^w of CVT, CVTT in [49:48]. -/
def cvtW (w : Word) : Nat := bits w 49 48

/-- The side-list address of CVT and CVTT: Pn + sext(IMM24) × 64. -/
def cvtSide (y : Stream) (w : Word) : Nat := ptrPlus (y.preg (fSrc2 w)) (fImmS w) 64

/-- Is every side list of a strip aligned, in HBM or this croft's own store (R183)? -/
def sideOk (l a n : Nat) : Bool := a % 64 == 0 && inHbmOrOwn l a (256 * n)

/-- What a conversion finds when it is offered: what it needs, its plan and source values, whether it has to wait for a set,
and the checks of R170, R183 and R185. -/
structure ConvJob where
  need      : Need
  plan      : ConvPlan
  vals      : List (List Val)
  wait      : Bool
  operandOk : Bool
  addressOk : Bool
deriving DecidableEq, Repr

/-- Send a strip into the converter. -/
def State.issueConv (s : State) (l : Nat) (t : Strm) (bytes : Nat) (j : ConvJob) (sem add : Nat) : State :=
  s.issue l t bytes j.need (.convert j.plan j.vals) sem add none false

/-- A short-form conversion whose step's entry is open and that is ready acts or faults. -/
def runConv (c : Nat) (t : Strm) (j : ConvJob) (s : State) : State :=
  if !s.entryOpen c t || !s.ready c t 8 j.need || j.wait then s
  else if !j.operandOk then s.faultAt c t stOperand
  else if !j.addressOk then s.faultAt c t stAddress
  else s.issueConv c t 8 j 0 0

/-- What a conversion needs of registers: the locator pair, the pointer, its tiles and its accumulator. -/
def convNeed (m pn dst n sta : Nat) (reads : List Res) (side : Option Nat) : Need :=
  { reads := sRes m ++ sRes (m + 1) ++ pRes pn ++ reads
    writes := tileRes dst n ++ [.stat sta] ++ (match side with | some a => [memRes a (256 * n)] | none => [])
    units := [.converter] }

/-- What CVT finds (R183, R184). -/
def cvtJob (c : Nat) (t : Strm) (w : Word) (s : State) : ConvJob :=
  let y := s.strm c t
  let x := s.croft c
  let m := locReg (bits w 55 51)
  let loc := locator y m
  let rc := s.convRecipe c t loc
  let n := stripTiles rc (cvtW w)
  let acc := bit w 50
  let src := if acc then firstOf 64 n (accNo (fSrc1 w)) else firstOf 128 n (tileNo (fSrc1 w))
  let dst := firstOf 128 n (tileNo (fDst w))
  let ids := (List.range n).map (src + ·)
  let named := fun a => (x.array a).named (accShd (fSrc1 w))
  let sets := ids.map (fun a => (x.array a).set (named a))
  let fmt := if tagFmt loc.stag ≤ 8 then 8 else 9
  let vals := if acc then sets.map AccSet.values else ids.map (x.tileValues fmt 0)
  let flag := vals.any (fun v => v.any Val.isNan) || (acc && sets.any (·.ovf))
  let p := s.convPlan c t loc (cvtW w) dst flag
  let side := cvtSide y w
  let p := if p.hasSide then { p with sideAddr := some side } else p
  { need := convNeed m (fSrc2 w) dst n loc.sta
      (if acc then ids.map (fun a => .set a (named a)) else tileRes src n) p.sideAddr
    plan := p
    vals := vals
    wait := acc && ids.any (fun a => s.setBusy c a (named a))
    operandOk := rotFits rc loc && !(acc && ids.any (fun a => ((x.array a).set (named a)).count != 0 ||
      (x.array a).comet.any (fun q => q.set == named a)))
    addressOk := !p.hasSide || sideOk c side n }

/-- CVT (R183, R184). -/
def execCvt (c : CroftId) (t : Strm) (w : Word) (s : State) : Answer := .next (runConv c t (cvtJob c t w s) s)

/-- A widened value beyond A40 enters as an infinity of its sign (R186). -/
def widenVal (v : Val) : Val :=
  match v with
  | .fin s m e => if Val.absLt (ofA40 (BitVec.ofNat 40 (maxCode 11 false))) (.fin false m e) then .inf s else .fin s m e
  | v => v

/-- CVTT's source tile: widened, side entries put back, transposed (R185). -/
def cvttSource (fmt blk : Nat) (rec : List Byte) (side : Option (List Byte)) : List Val :=
  let vs := (tileVals fmt blk rec).map widenVal
  let vs := match side with
    | some bs => (sideEntries false bs).foldl (fun vs e => vs.set (32 * e.row + e.pos) e.val) vs
    | none => vs
  transpose Val.zero vs

/-- Does a record have a block whose scale code is 0xFF (R49, R186)? -/
def badScale (fmt blk : Nat) (rec : List Byte) : Bool :=
  scaled fmt && (List.range 1024).any (fun k => scaleAt fmt blk rec (k / 32) (k % 32) == 0xFF)

/-- What CVTT finds (R185, R186). -/
def cvttJob (c : Nat) (t : Strm) (w : Word) (s : State) : ConvJob :=
  let y := s.strm c t
  let x := s.croft c
  let m := locReg (bits w 55 51)
  let loc := locator y m
  let rc := s.convRecipe c t loc
  let n := stripTiles rc (cvtW w)
  let src := firstOf 128 n (tileNo (fSrc1 w))
  let dst := firstOf 128 n (tileNo (fDst w))
  let side := cvtSide y w
  let lists := !loc.noside
  let vals := (List.range n).map (fun i => cvttSource (min 7 (tagFmt loc.stag)) (tagBlk loc.stag) (x.tile (src + i))
    (if lists then some (Memory.readBytes s.mem (side + 256 * i) 256) else none))
  let bad := (List.range n).any (fun i => badScale (min 7 (tagFmt loc.stag)) (tagBlk loc.stag) (x.tile (src + i)))
  let p := s.convPlan c t loc (cvtW w) dst (bad || vals.any (fun v => v.any Val.isNan))
  let out := side + 256 * n
  let p := if p.hasSide then { p with sideAddr := some out } else p
  { need := convNeed m (fSrc2 w) dst n loc.sta
      (tileRes src n ++ (if lists then [memRes side (256 * n)] else [])) p.sideAddr
    plan := p
    vals := vals
    wait := false
    operandOk := rotFits rc loc
    addressOk := (!lists || sideOk c side n) && (!p.hasSide || sideOk c out n) }

/-- CVTT (R185, R186). -/
def execCvtt (c : CroftId) (t : Strm) (w : Word) (s : State) : Answer := .next (runConv c t (cvttJob c t w s) s)

/-- Write side lists one after the other. -/
def putSides (m : Memory) (a : Nat) : List TileOut → Memory
  | [] => m
  | o :: os => putSides (Memory.writeBytes m a o.side) (a + 256) os

/-- Is it a conversion, or a ROT? -/
def FlightOp.isConv : FlightOp → Bool
  | .convert .. => true
  | _ => false

/-- Does it pass the rotation unit: a ROT, or a conversion with a rotation stage (R188)? -/
def FlightOp.usesRotation : FlightOp → Bool
  | .rotate .. => true
  | .convert p _ => p.rotates
  | _ => false

/-- Is it a CVT or CVTT? The conversion of a DRAIN writes the sets it drains (R124). -/
def Flight.isCvt (f : Flight) : Bool :=
  f.op.isConv && !f.writes.any (fun r => match r with | .set .. => true | _ => false)

/-- Is an earlier instruction of the croft of the given kind still executing? Flights stand in the order of their issue. -/
def State.behind (s : State) (f : Flight) (kind : FlightOp → Bool) : Bool :=
  (s.flights.takeWhile (fun g => g.id != f.id)).any (fun g => g.ctx == f.ctx && g.croft == f.croft && kind g.op)

/-- CONVERSION_COMPLETE: the tile records and side lists are written as one unit, the counts are added, and the
instruction completes (R72, R100, R124, R183). The converter, and the rotation unit for its rotation stage, serve in the order of
issue (R126, R188). -/
def execConversionComplete (id : Nat) (s : State) : Answer :=
  .next (match s.flight? id with
    | some f =>
      match f.op with
      | .convert p src =>
        if s.behind f FlightOp.isConv ∨ (p.rotates ∧ s.behind f FlightOp.usesRotation) then s else
        let r := convertStrip p src
        let x := s.croftOf f.ctx f.croft
        let x := x.putTiles p.dst (r.1.map (·.record))
        let s := s.setCroftOf f.ctx f.croft (x.putStat p.sta ((x.stat p.sta).add r.2))
        let s := match p.sideAddr with
          | some a => { s with mem := putSides s.mem a r.1 }
          | none => s
        s.complete f (if p.flag then stNumeric else stOk)
      | _ => s
    | none => s)

/-- Codes of BF16 or FP16 values, rounded to nearest even (R187, R191). -/
def tile16 (fmt : Nat) (vs : List Val) : List Byte := packRecord fmt (vs.map (fun v => (encode fmt .rne v).1)) []

/-- ROT (R187, R188). -/
def execRot (c : CroftId) (t : Strm) (w : Word) (s : State) : Answer :=
  let size := clampTo 1 4 (bits w 54 52)
  let n := 2 ^ (size - 1)
  let src := firstOf 128 n (tileNo (fSrc1 w))
  let dst := firstOf 128 n (tileNo (fDst w))
  let need : Need := { reads := sRes (fSrc2 w) ++ tileRes src n, writes := tileRes dst n, units := [.rotation] }
  shortForm c t need (fun s =>
    if !s.entryOpen c t then s
    else
      let y := s.strm c t
      let signs := rotSigns (s.ctx s.resident).seed y.step (bits (y.sreg (fSrc2 w)) 23 0) (2 ^ (size + 4))
      s.issue c t 8 need (.rotate (bit w 55) (size + 4) (if bit w 51 then 9 else 8) src dst signs) 0 0 none false) s

/-- The tiles a rotation of 2^k elements a segment gives (R187). -/
def Croft.rotated (x : Croft) (inverse : Bool) (k fmt src : Nat) (signs : List Bool) : List (List Val) :=
  rotStrip inverse k signs ((List.range (2 ^ (k - 5))).map (fun i => x.tileValues fmt 0 (src + i)))

/-- ROTATION_COMPLETE: the tiles are read, rotated and written as one effect, in the order in which the rotation unit serves
them (R151, R187, R188). -/
def execRotationComplete (id : Nat) (s : State) : Answer :=
  .next (match s.flight? id with
    | some f =>
      match f.op with
      | .rotate inverse k fmt src dst signs =>
        if s.behind f FlightOp.usesRotation then s
        else
          let x := s.croftOf f.ctx f.croft
          let out := x.rotated inverse k fmt src signs
          (s.setCroftOf f.ctx f.croft (x.putTiles dst (out.map (tile16 fmt)))).complete f
            (if out.any (fun v => v.any Val.isNan) then stNumeric else stOk)
      | _ => s
    | none => s)

/-- STAT: its step and attempt are fixed at issue; it waits for the CVTs and CVTTs before it in its stream, and for a DRAIN only where the
two name one accumulator (R100, R150, R189). -/
def execStat (c : CroftId) (t : Strm) (w : Word) (s : State) : Answer :=
  let sta := bits w 50 48
  let need : Need := { reads := [.stat sta], writes := [.stat sta], units := [.statPath] }
  shortForm c t need (fun s =>
    if !s.entryOpen c t ∨ (s.ownFlights c t).any Flight.isCvt then s
    else s.issue c t 8 need (.stat sta (bits w 15 0) (s.strm c t).step (s.entry c t).attempt) 0 0 none false) s

/-- Where the window of R404 shows the statistics ring of a context and die. -/
def statRing (c d : Nat) : Nat := windowBase + 0x11000000 + (2 * c + d) * 0x800000

/-- Records a statistics ring of a die holds (R401). -/
def ringMax : Nat := 131072

/-- The record of an accumulator (R101, R189). -/
def statRecord (a : StatAcc) (step croft seq attempt : Nat) : StatRec :=
  { step := step, tid := a.tid, fmt := a.fmt, blk := a.blk, mode := a.mode, croft := croft, seq := seq,
    elements := a.elements, zeros := a.zeros, saturated := a.saturated, nonfinite := a.nonfinite,
    underflow := a.underflow, satblk := a.satblk, cometOvf := a.cometOvf, extracted := a.extracted,
    round := a.round, rotate := a.rotate, countSat := a.countSat, attempt := attempt,
    amax := a.amax, errsq := a.errsq }

/-- The first free slot of a statistics ring from `k` on. -/
def freeSlotFrom : Nat → Table StatRec → Nat → Nat
  | 0, _, k => k
  | n + 1, t, k => if Table.has t k then freeSlotFrom n t ((k + 1) % ringMax) else k

/-- A ring with a record more: in the first free slot after the newest record's (log entry 14). -/
def ringPut (t : Table StatRec) (r : StatRec) : Table StatRec :=
  t ++ [(freeSlotFrom (t.length + 1) t (match t.getLast? with | some e => (e.1 + 1) % ringMax | none => 0), r)]

/-- STAT_RING_WRITE: the partial record goes into the ring of the croft's die, unless the ring has no free
slot, FP5 takes it for its step, the accumulator is cleared, and STAT completes (R100, R189). -/
def execStatRingWrite (id : Nat) (s : State) : Answer :=
  .next (match s.flight? id with
    | some f =>
      match f.op with
      | .stat sta seq step attempt =>
        let x := s.croftOf f.ctx f.croft
        let c := s.ctx f.ctx
        let ring := if f.croft < 144 then c.rings.1 else c.rings.2
        if ringMax ≤ ring.length then s
        else
          let r := statRecord (x.stat sta) step f.croft seq attempt
          let c := { c with rings := if f.croft < 144 then (ringPut c.rings.1 r, c.rings.2) else (c.rings.1, ringPut c.rings.2 r) }
          let c := c.modStep step (fun h => if h.attempt % 4 = attempt then { h with records := h.records ++ [r] } else h)
          let s := (s.setCtx f.ctx c).setCroftOf f.ctx f.croft (x.putStat sta {})
          let slot := match (if f.croft < 144 then c.rings.1 else c.rings.2).getLast? with | some e => e.1 | none => 0
          (s.unpoke (statRing f.ctx (f.croft / 144) + 64 * slot) 64).complete f stOk
      | _ => s
    | none => s)

end Sys2Proof.Machine
end

