-- ==== Sys2Proof/Machine/Matrix.lean ====
section
/-! DEFINITION. The matrix class (R171–R182) and the finish of its instructions. -/

namespace Sys2Proof.Machine

/-- A long-form instruction that is ready acts; one that is not leaves everything as it is (log entry 1). -/
def longForm (l : Nat) (t : Strm) (n : Need) (act : State → State) (s : State) : Answer :=
  .next (if s.ready l t 16 n then act s else s)

/-- The arrays an MMA names and the B register of each (R166, R171). -/
def mmaTargets (w : BitVec 128) : List (Nat × Nat) :=
  if gFlag w 41 then
    let g := accNo (gDst w) / 8 * 8
    let b := firstOf 128 8 (tileNo (gSrcB w))
    (List.range 8).map (fun u => (g + u, b + u))
  else [(accNo (gDst w), tileNo (gSrcB w))]

/-- The address of a long-form memory operand: Pn + sext(IMM32) × 64 (R142). -/
def longAddr (y : Stream) (w : BitVec 128) : Nat := ptrPlus (y.preg (gSrcC w)) (gImmS w) 64

/-- Scaled formats under BLK 0 or 1 cannot be transposed on load (R131). -/
def badTranspose (tr : Bool) (fmt blk : Nat) : Bool := tr && scaled fmt && blk != 2

/-- What an MMA reads, writes and occupies: its tiles and the active sets of its arrays. -/
def mmaNeed (x : Croft) (w : BitVec 128) : Need :=
  let ts := mmaTargets w
  let sets := ts.map (fun p => Res.set p.1 (x.array p.1).active)
  { reads := [.tile (tileNo (gSrcA w))] ++ ts.map (fun p => .tile p.2) ++ sets
    writes := sets, units := ts.map (fun p => .array p.1) }

/-- The tiles an MMA names: B of each array, then A. -/
def mmaTiles (w : BitVec 128) : List Nat := (mmaTargets w).map (·.2) ++ [tileNo (gSrcA w)]

/-- Tile records the operand buffer keeps (R174). -/
def operandMax : Nat := 32

/-- The operand buffer after an MMA has named these tiles: a record it holds is served from it, another is loaded (R174). -/
def Croft.loadOperands (x : Croft) (ts : List Nat) : Croft :=
  { x with operands := ts.foldl (fun b t => if b.contains t then b else (t :: b).take operandMax) x.operands }

/-- What an MMA has read when it issues (R174): A, and for each array its active set and its B. -/
def mmaOp (tr : Bool) (x : Croft) (w : BitVec 128) : FlightOp :=
  let fa := clampFmtA (tagFmt (gTagA w))
  .mma (x.tile (tileNo (gSrcA w))) fa (tagBlk (gTagA w)) (tr && gFlag w 42)
    ((mmaTargets w).map (fun p => (p.1, (x.array p.1).active, x.tile p.2)))
    (clampFmtB fa (tagFmt (gTagB w))) (tagBlk (gTagB w)) (tr && gFlag w 43)
    (gFlag w 40) (clampTo 1 64 (gCtl w % 128))

/-- Does MMAT mark a scaled operand that cannot be transposed (R131, R175)? -/
def mmaBad (tr : Bool) (w : BitVec 128) : Bool :=
  let fa := clampFmtA (tagFmt (gTagA w))
  badTranspose (tr && gFlag w 42) fa (tagBlk (gTagA w)) ||
    badTranspose (tr && gFlag w 43) (clampFmtB fa (tagFmt (gTagB w))) (tagBlk (gTagB w))

/-- MMA and MMAT (R171–R175): operands are read when the instruction issues, and the sums land later. -/
def issueMma (tr : Bool) (c : Nat) (t : Strm) (w : BitVec 128) (s : State) : State :=
  let need := mmaNeed (s.croft c) w
  if !s.ready c t 16 need then s
  else if accShd (gDst w) || mmaBad tr w then s.faultAt c t stOperand
  else (s.setCroft c ((s.croft c).loadOperands (mmaTiles w))).issue c t 16 need (mmaOp tr (s.croft c) w)
    (gDoneSem w) (gDoneAdd w) none false

/-- MMA (R171–R174). -/
def execMma (c : CroftId) (t : Strm) (w : BitVec 128) (s : State) : Answer := .next (issueMma false c t w s)

/-- MMAT (R175). -/
def execMmat (c : CroftId) (t : Strm) (w : BitVec 128) (s : State) : Answer := .next (issueMma true c t w s)

/-- MMA_BLOCK_LANDING: the block sums, promotions and Comet additions of an MMA land, and it completes with its
signal (R112–R117, R173). -/
def execMmaBlockLanding (id : Nat) (s : State) : Answer :=
  .next (match s.flight? id with
    | some f =>
      match f.op with
      | .mma a fa ba ta targets fb bb tb init chunk =>
        let opA := tileOp fa ba ta a
        let r := targets.foldl (fun (acc : Croft × Bool) p =>
          let (y, g) := (acc.1.array p.1).mma opA (tileOp fb bb tb p.2.2) (blockLen fa ba fb bb) init chunk
          (acc.1.putArray p.1 y, acc.2 || g)) (s.croftOf f.ctx f.croft, false)
        (s.setCroftOf f.ctx f.croft r.1).complete f (if r.2 then stNumeric else stOk)
      | _ => s
    | none => s)

/-- Multiply a total by 2^SHIFT, rounded and saturating in A40 (R125). -/
def shiftTotal (sh : Int) (c : A40) : Val := ofA40 (toA40 (Val.scale sh (ofA40 c))).1

/-- Is an earlier DRAIN still reading a set of the array (R124, R177)? Of the conversions, a DRAIN's alone writes sets. -/
def State.draining (s : State) (l a : Nat) : Bool :=
  s.flights.any (fun f => f.ctx == s.resident && f.croft == l &&
    (match f.op with | .convert .. => f.writes.contains (.set a 0) || f.writes.contains (.set a 1) | _ => false))

/-- The arrays a DRAIN names, lowest first (R166, R176). -/
def drainIds (c : Nat) (t : Strm) (w : BitVec 128) (s : State) : List Nat :=
  let n := stripTiles (s.convRecipe c t (locator (s.strm c t) (locReg (gSrcB w)))) (gCtl w / 32 % 4)
  (List.range n).map (firstOf 64 n (accNo (gSrcA w)) + ·)

/-- The drained sets: each array's active set with its partial chunk and queued products promoted (R113, R124). -/
def drainSets (c : Nat) (t : Strm) (w : BitVec 128) (s : State) : List AccSet :=
  (drainIds c t w s).map (fun a => let y := (((s.croft c).array a).settle).1; y.set y.active)

/-- What a DRAIN finds at issue (R125, R176). -/
def drainJob (c : Nat) (t : Strm) (w : BitVec 128) (s : State) : ConvJob :=
  let y := s.strm c t
  let x := s.croft c
  let m := locReg (gSrcB w)
  let loc := locator y m
  let rc := s.convRecipe c t loc
  let ids := drainIds c t w s
  let n := ids.length
  let dst := firstOf 128 n (tileNo (gDst w))
  let drained := drainSets c t w s
  let p := s.convPlan c t loc (gCtl w / 32 % 4) dst (drained.any AccSet.flagged)
  let side := longAddr y w
  let p := if p.hasSide then { p with sideAddr := some side } else p
  let sets := ids.map (fun a => Res.set a (x.array a).active)
  let need := convNeed m (gSrcC w) dst n loc.sta sets p.sideAddr
  { need := { need with writes := sets ++ need.writes }
    plan := p
    vals := drained.map (fun d => (allCells d.totals).map (shiftTotal (signed 5 (gCtl w % 32))))
    wait := ids.any (fun a => s.draining c a || s.setBusy c a (x.array a).active)
    operandOk := rotFits rc loc
    addressOk := !p.hasSide || sideOk c side n }

/-- The roles of the drained arrays swap; what was promoted stays promoted (R124, R125). -/
def Croft.swapRoles (x : Croft) : List Nat → Croft
  | [] => x
  | a :: as => Croft.swapRoles (x.putArray a { ((x.array a).settle).1 with active := 1 - (x.array a).active }) as

/-- DRAIN (R124–R126, R176, R177): promotes, swaps the roles and reads the totals at issue. -/
def execDrain (c : CroftId) (t : Strm) (w : BitVec 128) (s : State) : Answer :=
  .next (let j := drainJob c t w s
    if !s.entryOpen c t || !s.ready c t 16 j.need || j.wait then s
    else if !j.operandOk then s.faultAt c t stOperand
    else if !j.addressOk then s.faultAt c t stAddress
    else (s.setCroft c ((s.croft c).swapRoles (drainIds c t w s))).issueConv c t 16 j (gDoneSem w) (gDoneAdd w))

/-- Bytes of an A40 record (R62). -/
def accBytes : Nat := 5120

/-- ACCLD (R127, R178, R179). -/
def execAccld (c : CroftId) (t : Strm) (w : BitVec 128) (s : State) : Answer :=
  let n := accNo (gDst w)
  let a := longAddr (s.strm c t) w
  let i := ((s.croft c).array n).named (accShd (gDst w))
  let need : Need := { reads := pRes (gSrcC w) ++ [memRes a accBytes], writes := [.set n i], units := [.accPort n, .dataMove] }
  longForm c t need (fun s =>
    if s.setBusy c n i then s
    else if a % 64 ≠ 0 ∨ !inHbmOrOwn c a accBytes then s.faultAt c t stAddress
    else s.issue c t 16 need (.accLoad n i a) (gDoneSem w) (gDoneAdd w) none false) s

/-- ACCST (R113, R127, R178, R179). It promotes an active set's partial chunk and writes the totals as one effect, when it
completes (R128; State.moveResult). -/
def execAccst (c : CroftId) (t : Strm) (w : BitVec 128) (s : State) : Answer :=
  let n := accNo (gSrcA w)
  let a := longAddr (s.strm c t) w
  let i := ((s.croft c).array n).named (accShd (gSrcA w))
  let need : Need := { reads := pRes (gSrcC w) ++ [.set n i], writes := [.set n i, memRes a accBytes],
                       units := [.accPort n, .dataMove] }
  longForm c t need (fun s =>
    if s.setBusy c n i then s
    else if a % 64 ≠ 0 ∨ !inHbmOrOwn c a accBytes then s.faultAt c t stAddress
    else s.issue c t 16 need (.accStore n i a) (gDoneSem w) (gDoneAdd w) none false) s

/-- Offsets of the side lists of a COMET, in 64-byte units (R180). -/
def cometAddrA (y : Stream) (w : BitVec 128) : Nat := ptrPlus (y.preg (gSrcC w)) (signed 16 (bits w 79 64)) 64
def cometAddrB (y : Stream) (w : BitVec 128) : Nat := ptrPlus (y.preg (gSrcC w)) (signed 16 (bits w 95 80)) 64

/-- COMET (R118–R120, R180–R182): tiles and side lists are read at issue, pairs are queued when it completes. It does not test BLK of
its operands (log entry 28). -/
def execComet (c : CroftId) (t : Strm) (w : BitVec 128) (s : State) : Answer :=
  let y := s.strm c t
  let x := s.croft c
  let n := accNo (gDst w)
  let i := (x.array n).active
  let la := cometAddrA y w
  let lb := cometAddrB y w
  let sa := gFlag w 40
  let sb := gFlag w 41
  let need : Need :=
    { reads := pRes (gSrcC w) ++ [.tile (tileNo (gSrcA w)), .tile (tileNo (gSrcB w)), .set n i] ++
        (if sa then [memRes la 256] else []) ++ (if sb then [memRes lb 256] else [])
      writes := [.set n i], units := [.cometUnit] }
  longForm c t need (fun s =>
    if s.setBusy c n i then s
    else if accShd (gDst w) then s.faultAt c t stOperand
    else if (sa ∧ !sideOk c la 1) ∨ (sb ∧ !sideOk c lb 1) then s.faultAt c t stAddress
    else
      let fa := clampFmtA (tagFmt (gTagA w))
      let fb := clampFmtB fa (tagFmt (gTagB w))
      let turn := fun (tr : Bool) (vs : List Val) => if tr then transpose Val.zero vs else vs
      let va := turn (gFlag w 42) (x.tileValues fa (tagBlk (gTagA w)) (tileNo (gSrcA w)))
      let vb := turn (gFlag w 43) (x.tileValues fb (tagBlk (gTagB w)) (tileNo (gSrcB w)))
      let ea := if sa then sideEntries (gFlag w 42) (Memory.readBytes s.mem la 256) else []
      let eb := if sb then sideEntries (gFlag w 43) (Memory.readBytes s.mem lb 256) else []
      s.issue c t 16 need (.comet n i (cometPairs i va vb ea eb)) (gDoneSem w) (gDoneAdd w) none false) s

/-- Is it a COMET of an array? -/
def FlightOp.isCometOf (n : Nat) : FlightOp → Bool
  | .comet m _ _ => m == n
  | _ => false

/-- COMET_COMPLETE: the products are queued, with the promotions a full queue asks for (R181, R182). COMETs of one array queue
theirs in the order in which they issued (R120). -/
def execCometComplete (id : Nat) (s : State) : Answer :=
  .next (match s.flight? id with
    | some f =>
      match f.op with
      | .comet n _ pairs =>
        if s.behind f (FlightOp.isCometOf n) then s else
        let x := s.croftOf f.ctx f.croft
        let r := (x.array n).queueComet pairs
        (s.setCroftOf f.ctx f.croft (x.putArray n r.1)).complete f (if r.2 then stNumeric else stOk)
      | _ => s
    | none => s)

end Sys2Proof.Machine
end

