-- ==== Sys2Proof/Machine/Numerics.lean ====
section
/-! DEFINITION. FP5: merged records (R103, R244), the tests and outcomes of CHECK (R295–R301), what is formed
when an entry opens (R89, R287, R291, R293) and what a commit records (R304–R306, R329). -/

namespace Sys2Proof.Machine

/-! Merged records. -/

/-- The order of R103: ascending CROFT, then ascending SEQ. -/
def StatRec.before (a b : StatRec) : Bool := a.croft < b.croft || (a.croft == b.croft && a.seq ≤ b.seq)

def insertRec (r : StatRec) : List StatRec → List StatRec
  | [] => [r]
  | x :: xs => if x.before r then x :: insertRec r xs else r :: x :: xs

/-- The sum of two partial records of one tensor (R102, R103). -/
def StatRec.add (a b : StatRec) : StatRec :=
  let s32 := fun x y : Nat => min count32 (x + y)
  let s16 := fun x y : Nat => min count16 (x + y)
  let big := fun (cap x y : Nat) => decide (cap < x + y)
  { a with
    elements := min count64 (a.elements + b.elements), zeros := min count64 (a.zeros + b.zeros)
    saturated := s32 a.saturated b.saturated, nonfinite := s32 a.nonfinite b.nonfinite
    underflow := s32 a.underflow b.underflow, satblk := s16 a.satblk b.satblk
    cometOvf := s16 a.cometOvf b.cometOvf, extracted := s32 a.extracted b.extracted
    countSat := a.countSat || b.countSat || big count64 a.elements b.elements || big count64 a.zeros b.zeros ||
      big count32 a.saturated b.saturated || big count32 a.nonfinite b.nonfinite ||
      big count32 a.underflow b.underflow || big count16 a.satblk b.satblk ||
      big count16 a.cometOvf b.cometOvf || big count32 a.extracted b.extracted
    amax := if Val.absLt (ofA40 a.amax) (ofA40 b.amax) then b.amax else a.amax
    errsq := (toA40 (Val.add (ofA40 a.errsq) (ofA40 b.errsq))).1 }

/-- The tensors that some record names, each once. -/
def recTids : List StatRec → List Nat
  | [] => []
  | r :: rs => let ts := recTids rs; if ts.contains r.tid then ts else r.tid :: ts

/-- Merge the partial records of one tensor; the first record gives the format fields, and SEQ is 0 (log entry 53). -/
def mergeRecs (rs : List StatRec) : StatRec :=
  match rs.foldr insertRec [] with
  | [] => {}
  | r :: rs => { rs.foldl StatRec.add r with croft := 0xFFFF, seq := 0 }

/-- The merged records of the step's attempt; recompute records (SEQ bit 15) are left out (R244). -/
def HeldStep.mergedRecs (h : HeldStep) : List StatRec :=
  let rs := h.records.filter (fun r => r.seq < 32768)
  (recTids rs).map (fun t => mergeRecs (rs.filter (fun r => r.tid == t)))

/-! The tests of R295. -/

/-- E = ELEMENTS − NONFINITE. -/
def StatRec.finite (r : StatRec) : Nat := r.elements - r.nonfinite

/-- Can e be formed: E > 0 and AMAX > 0? -/
def StatRec.hasErr (r : StatRec) : Bool := 0 < r.finite && !(ofA40 r.amax).isZero

def natVal (n : Nat) : Val := .fin false n 0

/-- 16 × e(a) > ratio × e(b), by cross-multiplication. -/
def errAbove (ratio : Nat) (a b : StatRec) : Bool :=
  let sq := fun r : StatRec => Val.mul (ofA40 r.amax) (ofA40 r.amax)
  let lhs := Val.mul (natVal (16 * b.finite)) (Val.mul (ofA40 a.errsq) (sq b))
  let rhs := Val.mul (natVal (ratio * a.finite)) (Val.mul (ofA40 b.errsq) (sq a))
  Val.lt rhs lhs

/-- Which tests a merged record crosses, in the bit order of NUM_THR1[7:3]. -/
def crossBits (thr0 thr1 : Reg) (hist : List StatRec) (r : StatRec) : Nat :=
  let ppm := min 1000000 (bits thr0 31 12)
  let ratio := max 16 (bits thr1 31 24)
  let refs := hist.filter StatRec.hasErr
  let test := fun (en : Nat) (hit : Bool) => if bit thr1 en && hit then 2 ^ (en - 3) else 0
  test 3 (decide (ppm * r.finite < r.saturated * 1000000) || r.countSat) +
    test 4 (decide (bits thr0 11 0 < r.cometOvf)) +
    test 5 (r.hasErr && !refs.isEmpty && refs.all (errAbove ratio r)) +
    test 6 (decide (0 < r.nonfinite)) +
    test 7 (decide (0 < r.satblk))

/-- KIND of the entry that a tensor's table entry names. -/
def State.tensorKind (s : State) (x : Ctx) (h : HeldStep) (tid : Nat) : Nat := (h.recipe (s.tensor x tid).1).kind

/-- The records of the last 16 committed steps (R305), `last` the newest of them. -/
def recentRecs (last : Nat) (rs : List StatRec) : List StatRec := rs.filter (fun r => last < r.step + 16)

/-- The records of an attempt that cross, with their test bits. -/
def State.crossings (s : State) (x : Ctx) (h : HeldStep) : List (StatRec × Nat) :=
  ((h.mergedRecs.filter (fun r => s.tensorKind x h r.tid ≤ 2)).map
    (fun r => (r, crossBits h.thr0 h.thr1 (if r.tid < 65536 then recentRecs x.lastCmt (Table.get [] x.history r.tid) else []) r))).filter
      (fun (p : StatRec × Nat) => p.snd != 0)

/-- The layer a crossing record asks to climb, if it can (R300). -/
def State.climbLayer (s : State) (x : Ctx) (h : HeldStep) (r : StatRec) : Option Nat :=
  let t := s.tensor x r.tid
  let rung := rungOf h.attRungs t.2.2
  if bit h.thr1 2 && t.2.1 && rung < 3 && (s.reach x (h.desc.step % 4) t.2.2 (rung + 1)).isSome then some t.2.2 else none

/-- Insert into a rising list, each number once. -/
def insertNat (n : Nat) : List Nat → List Nat
  | [] => [n]
  | m :: ms => if n < m then n :: m :: ms else if n = m then m :: ms else m :: insertNat n ms

def sortNat (ns : List Nat) : List Nat := ns.foldr insertNat []

/-- FP5's evaluation of an attempt (R295–R301): its outcome, the flagged tensors, the layers to climb, and what
the NUM_EVENT will say. A FRESH attempt flags anew: what an earlier one of the step flagged counts no more. The crossings of every
attempt of the step enter what NUM_EVENT says, those of a CLIMBED attempt and of one aborted later too (R304; log entry 119). -/
def State.evaluate (s : State) (x : Ctx) (h : HeldStep) : HeldStep :=
  let cs := s.crossings x h
  let tids := sortNat (cs.map (fun p => p.1.tid))
  let layers := cs.map (fun p => s.climbLayer x h p.1)
  let stageBit := match h.stage with | .fresh => 1 | .rescaled => 2 | .climbed => 4
  let h := { h with
    evaluated := true
    stages := h.stages ||| stageBit
    tests := cs.foldl (fun (b : Nat) (p : StatRec × Nat) => b ||| p.2) h.tests
    firstTid := match tids with
      | [] => h.firstTid
      | t :: _ => some (match h.firstTid with | some u => min t u | none => t) }
  let climb := { h with outcome := 2, climb := sortNat (layers.filterMap id),
                        top := h.top || layers.any Option.isNone }
  match h.stage with
  | .fresh =>
    if cs.isEmpty then { h with outcome := 0, flagged := [] }
    else if bit h.thr1 1 then { h with outcome := 1, flagged := tids }
    else { climb with flagged := [] }
  | .rescaled => if cs.isEmpty then { h with outcome := 0 } else climb
  | .climbed => { h with outcome := 0 }

/-! Opening an entry. -/

/-- The 16 recipe entries of a register copy. -/
def Ctx.stagedRecipes (x : Ctx) : List (Reg × Reg) :=
  (List.range 16).map (fun n => (x.regEff (0x100 + 8 * n), x.regEff (0x104 + 8 * n)))

/-- The staged layer rungs: register k holds layers 16k to 16k + 15 (R291). -/
def Ctx.stagedRungs (x : Ctx) : Table Nat :=
  ((List.range 512).map (fun l => (l, bits (x.regEff (0x180 + 4 * (l / 16))) (2 * (l % 16) + 1) (2 * (l % 16))))).filter
    (fun e => e.2 != 0)

/-- FP5 decides a request of NUM_APPLY at the Bell at which the write takes effect (R287). -/
def Ctx.decideApply (x : Ctx) : Ctx :=
  let a := (x.regEff 0x07C).toNat + 2 ^ 32 * (x.regEff 0x080).toNat
  if x.applyAsk = 0 then x
  else if (match x.newest with | some n => decide (a ≤ n) | none => false) then { x with applyAsk := 0, applyResult := 2 }
  else { x with
    applyAsk := 0, applyResult := 1
    pendingSet := some
      { step := a
        rcp := if x.applyAsk % 2 = 1 then some x.stagedRecipes else none
        thr := if x.applyAsk / 2 % 2 = 1 then some (x.regEff 0x070, x.regEff 0x074) else none
        rung := if x.applyAsk / 4 % 2 = 1 then some x.stagedRungs else none } }

/-- The pending set becomes the working set of its step (R287). -/
def Ctx.takePending (x : Ctx) (step : Nat) : Ctx :=
  match x.pendingSet with
  | some p =>
    if p.step = step then
      { x with
        pendingSet := none, applyResult := 3
        working := p.rcp.getD x.working
        wthr0 := (p.thr.getD (x.wthr0, x.wthr1)).1
        wthr1 := (p.thr.getD (x.wthr0, x.wthr1)).2
        rungs := p.rung.getD x.rungs }
    else x
  | none => x

/-- Raise a rung state to the rungs another step climbed to (R291). -/
def raiseRungs (rungs climbed : Table Nat) : Table Nat :=
  climbed.foldl (fun t e => Table.put t e.1 (max (rungOf t e.1) e.2)) rungs

/-- The recipe working set as 16 register pairs. -/
def Ctx.workingSet (x : Ctx) : List (Reg × Reg) :=
  if x.working.isEmpty then
    (List.range 16).map (fun n => (BitVec.ofNat 32 (rcpDefaultA n), BitVec.ofNat 32 (rcpDefaultB n)))
  else x.working

/-- The scale snapshot of step n (R89): every TID whose window holds a record. -/
def State.snapshotOf (s : State) (x : Ctx) (h : HeldStep) : Table A40 :=
  let hi : Int := h.desc.step - x.depth
  x.history.filterMap (fun e =>
    let hist := (h.recipe (s.tensor x e.1).1).hist
    let rs := e.2.filter (fun r => (r.step : Int) ≤ hi && hi - hist < r.step)
    match rs with
    | [] => none
    | r :: rs => some (e.1, rs.foldl (fun m q => if Val.absLt (ofA40 m) (ofA40 q.amax) then q.amax else m) r.amax))

/-- The words of a dispatch page: a JMP to the layer's variant, or HALT (R293). -/
def State.pageWord (s : State) (x : Ctx) (rungs : Table Nat) (q layer : Nat) : Nat :=
  match s.reach x q layer (rungOf rungs layer) with
  | some d => 0x01 * 2 ^ 56 + (BitVec.ofInt 24 d).toNat
  | none => 0x0C * 2 ^ 56

/-- FP5 writes dispatch page step mod 4 with the rungs of the attempt (R288, R293). -/
def State.writePage (s : State) (c : Nat) (h : HeldStep) : State :=
  let x := s.ctx c
  if x.tablesBase = 0 then s
  else
    let q := h.desc.step % 4
    let page := (List.range 512).flatMap (fun l => leBytes 8 (s.pageWord x h.attRungs q l))
    { s with mem := Memory.writeBytes s.mem (dispatchSlot x q 0) page }

/-- FP5's part of opening the entry of a step (R89, R287, R291, R293, R367). -/
def State.openNumerics (s : State) (c step : Nat) : State :=
  let x := (s.ctx c).takePending step
  let climbed := x.climbs.filter (fun e => e.1 + x.depth = step)
  let rungs := climbed.foldl (fun t e => raiseRungs t e.2) x.rungs
  let x := { x with rungs := rungs, newest := some step,
                    climbs := x.climbs.filter (fun e => step < e.1 + 8) }
  let x := x.modStep step (fun h =>
    let h := { h with recipes := x.workingSet, thr0 := x.wthr0, thr1 := x.wthr1, rungs := rungs, attRungs := rungs,
                      stage := .fresh }
    { h with snapshot := s.snapshotOf x h })
  let s := s.setCtx c x
  match x.step? step with
  | some h => s.writePage c h
  | none => s

/-! Commit. -/

/-- Steps whose records are kept: the last 16 committed ones (R305), and with them what the window of R89 reaches of a step that opens
while up to three later ones have committed (log entry 54). -/
def historyLen : Nat := 20

/-- Twice a magnitude, saturating (R51, R306). -/
def doubleA40 (a : A40) : A40 := (toA40 (Val.scale 1 (ofA40 a))).1

/-- The largest AMAX of some records. -/
def maxAmax : List StatRec → A40
  | [] => 0
  | r :: rs => let m := maxAmax rs; if Val.absLt (ofA40 r.amax) (ofA40 m) then m else r.amax

/-- The records of the committed step with the group maxima of R329. -/
def State.commitRecs (s : State) (x : Ctx) (h : HeldStep) (xmax : Table A40) : List StatRec :=
  let win := fun t : Nat => x.tidBase ≤ t && t < x.tidBase + 4096
  let grad := fun t : Nat => Table.has xmax (t - x.tidBase) || s.tensorKind x h t == 3
  let recs := (h.mergedRecs.filter (fun r => r.tid < 65536)).map (fun r =>
    if win r.tid && grad r.tid then { r with amax := Table.get 0 xmax (r.tid - x.tidBase) } else r)
  let held := recs.map (·.tid)
  let more := sortNat ((xmax.map (fun e => e.1 + x.tidBase)) ++
    (x.history.map (·.1)).filter (fun t => win t && s.tensorKind x h t == 3))
  recs ++ (more.filter (fun t => t < 65536 && !held.contains t)).map (fun t =>
    { step := h.desc.step, tid := t, croft := 0xFFFF, attempt := h.attempt,
      amax := Table.get 0 xmax (t - x.tidBase) })

/-- The records of the committed attempt enter the history (R305, R306, R329). -/
def State.enterHistory (s : State) (c : Nat) (h : HeldStep) (xmax : Table A40) (skipped : Bool) : State :=
  let x := s.ctx c
  let step := h.desc.step
  let hist := (s.commitRecs x h xmax).foldl (fun (t : Table (List StatRec)) r =>
    let old := Table.get [] t r.tid
    let prev := recentRecs x.lastCmt old
    let r := if skipped && 0 < r.nonfinite && !prev.isEmpty then { r with amax := doubleA40 (maxAmax prev) } else r
    Table.put t r.tid (r :: old)) x.history
  let hist := (hist.map (fun e => (e.1, e.2.filter (fun r => step < r.step + historyLen)))).filter
    (fun e => !e.2.isEmpty)
  s.setCtx c { x with history := hist }

/-- The layers a PASS commit climbed, with their new rungs (R291, R302, R308). -/
def HeldStep.climbed (h : HeldStep) (skipped : Bool) : Table Nat :=
  if h.stage = .climbed ∧ !skipped then h.climb.map (fun l => (l, rungOf h.attRungs l)) else []

/-- NUM_EVENT of a commit (R304). FIRST_TID is 0 when no TID crossed here, and FIRST_LAYER and NEW_RUNG are 0 when no layer climbed (log
entry 119). -/
def State.numEvent (s : State) (c : Nat) (h : HeldStep) (skipped : Bool) : State :=
  let ls := h.climbed skipped
  let type := if skipped then 4 else if h.top then 3 else if !ls.isEmpty then 2 else if h.rescaled then 1 else 0
  if type = 0 then s
  else
    let first := match ls with | e :: _ => e | [] => (0, 0)
    s.event c 0x0003 [(h.desc.step, 64), (type, 4), (h.stages, 3), (h.tests, 5), (h.firstTid.getD 0, 24),
      (ls.length, 10), (first.1, 9), (first.2, 2)]

/-- FP5's part of a commit. -/
def State.commitNumerics (s : State) (c : Nat) (h : HeldStep) (xmax : Table A40) (skipped : Bool) : State :=
  let s := s.enterHistory c h xmax skipped
  let s := s.modCtx c (fun x => { x with
    climbs := (let e := h.climbed skipped; if e.isEmpty then x.climbs else x.climbs ++ [(h.desc.step, e)])
    skips := if skipped then min (2 ^ 32 - 1) (x.skips + 1) else x.skips })
  s.numEvent c h skipped

end Sys2Proof.Machine
end

