-- ==== Sys2Proof/Machine/Wire.lean ====
section
/-! DEFINITION. What stands on the wire: the Agbel headers and payloads (R439–R445), frames' priorities (R424), and how a subport
sends (R423–R427). -/

namespace Sys2Proof.Machine

/-! The Agbel headers, little-endian (R5, R439). -/

/-- The 24-byte REDUCE_WRITE header of a packet of `nrec` records (R442). -/
def reduceBytes (h : ReduceHdr) (nrec : Nat) : List Byte :=
  leBytes 8 h.step ++ leBytes 1 (h.att % 4 + h.fmt % 16 * 4 + (if h.last then 64 else 0)) ++ leBytes 1 nrec ++
    leBytes 2 (h.pos % 8192) ++ leBytes 4 0 ++ leBytes 8 h.side.toNat

/-- A REDUCE_WRITE header as the owner reads it, with NREC. -/
def readReduce (bs : List Byte) : ReduceHdr × Nat :=
  let ctl := leNat ((bs.drop 8).take 1)
  ({ step := leNat (bs.take 8), att := ctl % 4, fmt := ctl / 4 % 16, last := ctl.testBit 6,
     pos := leNat ((bs.drop 10).take 2) % 8192, side := BitVec.ofNat 64 (leNat ((bs.drop 16).take 8)) },
    leNat ((bs.drop 9).take 1))

/-- The 16-byte SIG header (R443). -/
def sigBytes (h : SigHdr) : List Byte :=
  leBytes 3 h.addr ++ leBytes 1 0 ++ leBytes 4 h.amount.toNat ++ leBytes 3 h.watermark ++ leBytes 5 0

def readSig (bs : List Byte) : SigHdr :=
  ⟨leNat (bs.take 3), BitVec.ofNat 32 (leNat ((bs.drop 4).take 4)), leNat ((bs.drop 8).take 3)⟩

/-- The 16-byte VOTE header (R444). -/
def voteBytes (h : VoteHdr) : List Byte :=
  leBytes 1 h.kind ++ leBytes 1 0 ++ leBytes 2 h.gtag ++ leBytes 4 h.len ++ leBytes 8 h.bell

def readVote (bs : List Byte) : VoteHdr :=
  ⟨leNat (bs.take 1), leNat ((bs.drop 2).take 2), leNat ((bs.drop 4).take 4), leNat ((bs.drop 8).take 8)⟩

/-! The payloads of R445. -/

/-- KIND of a message (R445). -/
def Msg.kind : Msg → Nat
  | .ballot _ => 0
  | .decision _ => 1
  | .heartbeat .. => 2
  | .report .. => 3
  | .notice .. => 4
  | .probe _ => 5
  | .probeReply _ => 6
  | .state _ => 7
  | .resume .. => 8
  | .takeover .. => 9
  | .groupLoss .. => 10

/-- A CLIMB set as the 512 bits of LAYERS (R370). -/
def layerMask (ls : List Nat) : Nat := ls.foldl (fun m l => m ||| 2 ^ (l % 512)) 0

/-- The XMAX entries that a message carries (R370). -/
def xmaxBytes (x : Table A40) : List Byte :=
  (x.take 4096).flatMap (fun e => leBytes 8 (e.1 % 4096 + e.2.toNat * 4096))

/-- A ballot's payload (R370). -/
def ballotBytes (b : Ballot) : List Byte :=
  leBytes 8 b.step ++ leBytes 2 b.gtag ++ leBytes 1 (b.att % 4) ++ leBytes 1 b.outcome ++ leBytes 2 b.skipWhy ++
    leBytes 2 (b.xmax.take 4096).length ++ leBytes 4 b.merged ++ leBytes 12 0 ++ leBytes 64 (layerMask b.layers) ++ xmaxBytes b.xmax

/-- A decision's payload (R372). MERGED, of which a decision says nothing, is 0 (log entry 109). -/
def decisionBytes (d : Decision) : List Byte :=
  leBytes 8 d.step ++ leBytes 2 d.gtag ++ leBytes 1 (d.att % 4) ++ leBytes 1 d.outcome ++ leBytes 2 d.skipWhy ++
    leBytes 2 (d.xmax.take 4096).length ++ leBytes 4 0 ++ leBytes 8 d.flipBell ++ leBytes 4 0 ++ leBytes 64 (layerMask d.layers) ++
    xmaxBytes d.xmax

/-- An address of TAKEOVER. -/
def addrBytes (a : PortAddr) : List Byte := leBytes 1 a.port ++ leBytes 1 a.sub ++ leBytes 2 0 ++ leBytes 16 a.addr.toNat

/-- The payload of a message (R445); a STATE of a module that holds no decision is all 0 (log entry 109). -/
def Msg.bytes : Msg → List Byte
  | .ballot b => ballotBytes b
  | .decision d => decisionBytes d
  | .heartbeat dev r q => leBytes 2 dev ++ leBytes 2 (if r then 1 else 0) ++ leBytes 2 q.toNat ++ leBytes 2 0
  | .report g r x b why => leBytes 2 g ++ leBytes 2 r ++ leBytes 2 x ++ leBytes 1 (why % 16) ++ leBytes 1 0 ++ leBytes 8 b
  | .notice x k => leBytes 2 x ++ leBytes 1 (k % 4) ++ leBytes 5 0
  | .probe x => leBytes 2 x ++ leBytes 6 0
  | .probeReply d => leBytes 2 d ++ leBytes 6 0
  | .state (some d) => decisionBytes d
  | .state none => leBytes 96 0
  | .resume b m => leBytes 8 b ++ leBytes 2 m.toNat ++ leBytes 6 0
  | .takeover d t as => leBytes 2 d ++ leBytes 2 t ++ leBytes 1 as.length ++ leBytes 3 0 ++ as.flatMap addrBytes
  | .groupLoss d m => leBytes 2 d ++ leBytes 2 m.toNat ++ leBytes 4 0

/-- LEN of a message. -/
def Msg.length (m : Msg) : Nat := m.bytes.length

/-- Packets of a VOTE message: the header and the payload, cut at the path MTU (R444). -/
def voteCount (mtu len : Nat) : Nat := max 1 ((16 + len + mtu - 1) / mtu)

/-- BTH opcode of packet `i` of a VOTE message (R439, R444). -/
def voteOpcode (count i : Nat) : Nat := if count = 1 then 0xC5 else if i = 0 then 0xC2 else if i + 1 = count then 0xC4 else 0xC3

/-! Frames. -/

/-- The priority of a received frame: its tag's PCP, or DSCP bits [5:3] (R424). -/
def Frame.priority (fr : Frame) : Nat :=
  match fr.tag with
  | some t => t.1
  | none => fr.dscp / 8 % 8

/-- Longest frame the module accepts (R423). -/
def frameMax : Nat := 9216

/-- Is a BTH opcode one of Agbel's reserved ones (R439)? -/
def Frame.reserved (fr : Frame) : Bool := 0xC6 ≤ fr.opcode

/-- Is it an Agbel packet (R439)? -/
def Frame.agbel (fr : Frame) : Bool := 0xC0 ≤ fr.opcode

/-- A frame that a port lets through (R423): not longer than 9,216 bytes, with no IP fragment, option or extension header. -/
def State.admitFrame (s : State) (fr : Frame) (k : State → State) : State :=
  if frameMax < fr.len then { s with net := { s.net with dropLong := s.net.dropLong + 1 } }
  else if !fr.plain then s
  else k s

/-- BTH opcodes of a row's packets (R430, R439): those of Agbel, and for the operations of RoCE v2 the numbers that IBTA gives an RC queue
pair (PRESUMED, log entry 128). -/
def takesOpcode : Instr → Nat → Bool
  | .sendInbound .., o => o ≤ 5
  | .rdmaWriteInbound .., o => [0x06, 0x07, 0x08, 0x0A].contains o
  | .writeWithImmediate .., o => [0x06, 0x07, 0x09, 0x0B].contains o
  | .rdmaReadInbound .., o => o == 0x0C
  | .compareAndSwap .., o => o == 0x13
  | .fetchAndAdd .., o => o == 0x14
  | .reduceWrite .., o => o == 0xC0
  | .sig .., o => o == 0xC1
  | _, o => [0xC2, 0xC3, 0xC4, 0xC5].contains o

/-- The frame of a command that is a packet of a queue pair. -/
def frameOf : Instr → Option Frame
  | .reduceWrite _ _ fr _ _ | .sig _ _ fr _ _ | .rdmaWriteInbound _ _ fr _ _ _ | .rdmaReadInbound _ _ fr _ _ _
  | .fetchAndAdd _ _ fr _ _ _ | .compareAndSwap _ _ fr _ _ _ _ | .writeWithImmediate _ _ fr _ _ _ _ | .sendInbound _ _ fr _ => some fr
  | .heartbeat (.packet _ _ fr _) _ _ _ | .report (.packet _ _ fr _) _ _ _ _ _ | .notice (.packet _ _ fr _) _ _
  | .probe (.packet _ _ fr _) _ _ | .probeReply (.packet _ _ fr _) _ | .ballot (.packet _ _ fr _) _ _ | .decision (.packet _ _ fr _) _
  | .state (.packet _ _ fr _) _ _ | .resume (.packet _ _ fr _) _ _ _ | .takeover (.packet _ _ fr _) _ _ _
  | .groupLoss (.packet _ _ fr _) _ _ => some fr
  | _ => none

/-! Sending (R423–R427). -/

/-- Frames of what a queue pair sends: a message is cut at the path MTU. -/
def Qp.frames (q : Qp) : Output → Nat
  | .rdmaWrite _ _ _ _ len _ => q.packets len
  | .rdmaWriteData _ _ _ data => q.packets data.length
  | .readResponse _ _ data => q.packets data.length
  | .hostWrite _ _ _ _ data => q.packets data.length
  | .vote _ _ _ h _ => voteCount q.mtu h.len
  | _ => 1

/-- BTH opcode of frame `i`, for Agbel packets and CNPs (R427, R439). -/
def Output.opcode (o : Output) (count i : Nat) : Option Nat :=
  match o with
  | .reduceWrite .. => some 0xC0
  | .sig .. => some 0xC1
  | .vote .. => some (voteOpcode count i)
  | .cnp _ => some 0x81
  | _ => none

/-- The Agbel header that follows the BTH of frame `i` (R439). -/
def Output.agbelHdr (o : Output) (i : Nat) : List Byte :=
  match o with
  | .reduceWrite _ _ h _ n => reduceBytes h n
  | .sig _ _ h => sigBytes h
  | .vote _ _ _ h _ => if i = 0 then voteBytes h else []
  | _ => []

/-- PCP and DSCP of what a queue pair sends; a CNP has its own (R424, R427). -/
def Qp.pcpOf (q : Qp) : Output → Nat
  | .cnp _ => 6
  | _ => q.pcp

def Qp.dscpOf (q : Qp) : Output → Nat
  | .cnp _ => 48
  | _ => q.dscp

/-- An IPv4 address in the form ::ffff:a.b.c.d. -/
def mapped4 (a : BitVec 32) : BitVec 128 := BitVec.ofNat 128 (0xFFFF * 2 ^ 32 + a.toNat)

def isMapped4 (a : BitVec 128) : Bool := bits a 127 32 == 0xFFFF

/-- The headers of frame `i` of something a queue pair sends (R423, R424, R427, R434). -/
def State.frameHdr (s : State) (n : Nat) (o : Output) (i : Nat) : FrameHdr :=
  let q := s.qp n
  let pcp := q.pcpOf o
  { port := q.port, sub := q.sub, tag := if q.untag then none else some (pcp, q.vid), dscp := q.dscpOf o
    ect := s.portEcn q.port pcp, df := isMapped4 q.dip, sport := if q.sport = 0 then Config.sportHash n else q.sport
    dport := 4791, part := i, opcode := o.opcode (q.frames o) i, hdr := o.agbelHdr i }

/-- Packets of queue pairs that are gone, or that start anew, are not sent any more. -/
def State.dropEgress (s : State) (p : Nat → Bool) : State :=
  { s with net := { s.net with egress := s.net.egress.map (fun (e : Nat × List Egress) => (e.1, e.2.filter (fun d => !p d.qpn))) } }

def State.sub (s : State) (port sub : Nat) : Subport := Table.get {} s.net.subs (4 * port + sub)

/-- The PCP that a queued packet leaves with: its queue pair's at that moment, so that packets of one queue pair keep their order (R425). -/
def State.pcpOf (s : State) (e : Egress) : Nat := (s.qp e.qpn).pcpOf e.out

/-- May a queued packet leave its subport now: its priority is not paused (R426), and a fenced module sends on session queue pairs
alone (R381)? -/
def State.maySend (s : State) (k : Nat) (e : Egress) : Bool :=
  !(Table.get {} s.net.subs k).paused.contains (s.pcpOf e) && ((s.qp e.qpn).session || !s.group.fenced)

/-- The queue pair whose turn it is on a subport and PCP, after the one served last (R425). -/
def nextTurn (last : Nat) (ns : List Nat) : Option Nat :=
  match ns.filter (fun n => last < n) with
  | [] => ns.foldl (fun (b : Option Nat) n => match b with | some m => some (min m n) | none => some n) none
  | later => later.foldl (fun (b : Option Nat) n => match b with | some m => some (min m n) | none => some n) none

/-- The packet that a subport sends next: of the highest PCP that has one, the first of the queue pair whose turn it is (R425). -/
def State.nextPacket (s : State) (k : Nat) : Option Egress :=
  let es := (Table.get [] s.net.egress k).filter (s.maySend k)
  let top := es.foldl (fun m e => max m (s.pcpOf e)) 0
  let es := es.filter (fun e => s.pcpOf e == top)
  match nextTurn (Table.get 0 s.net.turn (8 * k + top)) (es.map (·.qpn)) with
  | some n => es.find? (fun e => e.qpn == n)
  | none => none

/-- The queue after a frame of one entry has gone: the entry stays for its next frame, or goes with its last. -/
def afterFrame (e : Egress) (last : Bool) : List Egress → List Egress
  | [] => []
  | d :: ds => if d = e then (if last then ds else { d with sent := d.sent + 1 } :: ds) else d :: afterFrame e last ds

/-- A subport with link sends one frame. -/
def State.sendFrame (s : State) (k : Nat) : State :=
  if !(Table.get {} s.net.subs k).up then s
  else match s.nextPacket k with
    | none => s
    | some e =>
      let last := (s.qp e.qpn).frames e.out ≤ e.sent + 1
      { s with
        out := .frame (s.frameHdr e.qpn e.out e.sent) e.out :: s.out
        net := { s.net with
          egress := Table.put s.net.egress k (afterFrame e last (Table.get [] s.net.egress k))
          turn := Table.put s.net.turn (8 * k + s.pcpOf e) e.qpn } }

/-- What the ports do when no command waits: every subport sends one frame (R425; log entry 3). -/
def State.portTick (s : State) : State := (List.range 32).foldl State.sendFrame s

end Sys2Proof.Machine
end

