-- ==== Sys2Proof/Machine/Hub.lean ====
section
/-! DEFINITION. The hub's work requests: sending on a queue pair (R222, R229, R434–R438), the gather walk
(R331, R343, R559), what a failed queue pair does (R224), and stopping and starting the streams of a context
(R157, R385). -/

namespace Sys2Proof.Machine

/-! Sending. -/

/-- The PSNs of a queue pair start anew: no data has been sent (R229). -/
def Qp.startPsn (q : Qp) (sq rq : Nat) : Qp :=
  { q with sqPsn := sq, rqPsn := rq, lastData := psnAdd sq (2 ^ 24 - 1) }

/-- The watermark of an NSIG (R229): the PSN of the last data packet, or the one before the first PSN. -/
def Qp.watermark (q : Qp) : Nat := q.lastData

/-- Is it a request of whose acknowledgment nobody hears (a later one on the queue pair covers it)? -/
def Owner.unheard : Owner → Bool
  | .control => true
  | .numerics .. => true
  | _ => false

/-- The queue without the requests of an owner, and without the unheard ones before its last: acknowledgments are
cumulative. -/
def dropAcked (o : Owner) : List WorkReq → List WorkReq
  | [] => []
  | w :: ws =>
    if w.owner = o ∨ (w.owner.unheard ∧ ws.any (fun v => v.owner == o)) then dropAcked o ws
    else w :: dropAcked o ws

def Qp.ack (q : Qp) (o : Owner) : Qp :=
  if q.work.any (fun w => w.owner == o) then { q with work := dropAcked o q.work, tries := 0, rnrTries := 0, macKnown := true } else q

/-- A work request has been answered: it leaves its queue pair, and the retry count starts again. -/
def State.acked (s : State) (o : Owner) : State := { s with qps := s.qps.map (fun e => (e.1, e.2.ack o)) }

/-- Nobody waits for a work request any more (R414); its packets still need their acknowledgment. -/
def State.abandon (s : State) (o : Owner) : State :=
  { s with qps := s.qps.map (fun e =>
      (e.1, { e.2 with work := e.2.work.map (fun w => if w.owner == o then { w with owner := .control } else w) })) }

/-- Is a request of an instruction on its way? -/
def State.outstanding (s : State) (id : Nat) : Bool :=
  s.qps.any (fun e => e.2.work.any (fun w => w.owner == .flight id))

/-- A packet marked CE is answered with a CNP, at most once in 50 µs: the first one always, a later one by a free value (R427; log
entry 10). -/
def State.congested (s : State) (n : Nat) : State :=
  if !(s.qp n).cnpSent then (s.modQp n (fun q => { q with cnpSent := true })).enqueue n (.cnp n)
  else
    let r := s.draw64
    if bit r.1 0 then r.2.enqueue n (.cnp n) else r.2

/-- A packet arrives on a queue pair, marked CE or not (R427). -/
def State.marked (s : State) (n : Nat) (ce : Bool) : State := if ce then s.congested n else s

/-- An acknowledgment or a response of a work request arrives, and its packet was marked CE or not (R427). -/
def State.heard (s : State) (o : Owner) (ce : Bool) : State :=
  if ce then
    (match s.qps.find? (fun e => e.2.work.any (fun w => w.owner == o)) with
    | some e => s.congested e.1
    | none => s)
  else s

/-- Can the queue pair send for a context (R221): bound to it and ready to send? -/
def Qp.sends (q : Qp) (c : Nat) : Bool := q.used && q.ctx == c && q.state == 3

/-- The status with which a queue pair in error ends its instructions (R224). -/
def Qp.errStatus (q : Qp) : Nat := if q.lost then stPeerLost else stNetTimeout

/-- RDMA_EXCEPTION to the context of the queue pair (R224, R467). -/
def State.rdmaException (s : State) (qpn syndrome psn : Nat) : State :=
  s.event (s.qp qpn).ctx 0x0006 [(qpn, 20), (syndrome, 8), (psn, 24)]

/-! Undefined contents. -/

/-- Contents the spec calls undefined: free bytes (R200, R201, R227; log entry 10). -/
def State.spoil (s : State) (a len : Nat) : State :=
  let r := s.drawBytes len
  { r.2 with mem := Memory.writeBytes r.2.mem a r.1 }

def State.spoilTile (s : State) (c l tile len : Nat) : State :=
  let r := s.drawBytes len
  r.2.setCroftOf c l ((r.2.croftOf c l).putTile tile r.1)

def Place.isFar : Place → Bool
  | .far .. => true
  | .dev _ => false

/-- The local destination of a network or far-memory access that failed. -/
def State.spoilDest (s : State) (f : Flight) : State :=
  match f.op with
  | .copy (.far ..) (.dev d) blocks => s.spoil d (64 * blocks)
  | .loadTile (.far ..) tile len => s.spoilTile f.ctx f.croft tile len
  | .gather moves size =>
    if moves.any (fun m => m.1.isFar) then moves.foldl (fun s m => s.spoil m.2 size) s else s
  | .prefetch (.far ..) d blocks _ => s.spoil d (64 * blocks)
  | .get _ a len _ => s.spoil a len
  | _ => s

/-- The attempt of a step cannot pass CHECK any more (R156). -/
def State.loseStep (s : State) (c step : Nat) : State := s.modCtx c (fun x => x.modStep step (fun h => { h with netLost := true }))

/-- A network or far-memory instruction completes with NET_TIMEOUT or PEER_LOST, and its step's attempt cannot pass CHECK (R156, R200). -/
def State.failFlight (s : State) (f : Flight) (code : Nat) : State :=
  ((s.spoilDest f).complete f code).loseStep f.ctx (s.strmOf f.ctx f.croft f.strm).step

/-! Freeing steps (R331, R369). -/

/-- The states of LED_STATUS (R368). -/
def StepState.code : StepState → Nat
  | .prepared => 1
  | .running => 2
  | .checked => 3
  | .cast => 4
  | .aborted => 5
  | .committed => 6
  | .skipped => 7

/-- Records the Ledger record ring of a context keeps (R401; log entry 14). -/
def recordMax : Nat := 16384

/-- Where the window of R404 shows the Ledger record ring of a context. -/
def ledgerRing (c : Nat) : Nat := windowBase + 0x10000000 + c * 0x100000

/-- Free a step's Ledger entry: its attempt record stays in the ring, and its statistics-ring slots are free. -/
def Ctx.freeStep (x : Ctx) (step : Nat) : Ctx :=
  match x.step? step with
  | some h =>
    if h.settled then
      { x with
        steps := x.steps.filter (fun g => g.desc.step != step)
        records := ({ step := step, attempt := h.attempt, stage := h.stage, outcome := if h.state = .skipped then 1 else 0,
                      skipWhy := h.skipWhy, fallbacks := h.fallbacks, progVer := h.desc.progVer } :: x.records).take recordMax
        rings := (x.rings.1.filter (fun e => e.2.step != step), x.rings.2.filter (fun e => e.2.step != step)) }
    else x
  | none => x

/-! Stopping the streams. -/

/-- A stream stops: a WAIT or BELLW it waits in completes with the status, and a HALTED one stays HALTED. -/
def Stream.stop (y : Stream) (code : Nat) : Stream :=
  match y.run with
  | .waiting => { y.note y.pc code with run := .idle, waiting := .none, stallBells := 0, stallSent := false }
  | .running => { y with run := .idle }
  | _ => y

/-- An instruction in flight is ended by an abort or a release: it completes with the status and writes nothing
more (R157). The blocks of a PREFETCH, which has completed, stop. -/
def State.kill (s : State) (code : Nat) (f : Flight) : State :=
  let s := s.dropFlight f.id
  if f.posted then s
  else s.setStrmOf f.ctx f.croft f.strm ((s.strmOf f.ctx f.croft f.strm).note f.pc code)

/-- Every instruction of a context ends and every stream stops (R157). -/
def State.stopStreams (s : State) (c code : Nat) : State :=
  let s := (s.flights.filter (fun f => f.ctx == c)).foldl (fun s f => s.kill code f) s
  let s :=
    if c = s.resident then
      (s.croftIds c).foldl (fun s l => allStrms.foldl (fun s t => s.withdraw l t) s) s
    else s
  s.mapCrofts c (fun x => x.mapStrms (fun y => y.stop code))

/-- Park a context whose detached session has no opened step left (R468, R469). -/
def State.parkDetached (s : State) (c : Nat) : State :=
  let x := s.ctx c
  if x.ses.state = .detached ∧ !x.parked ∧ !x.steps.any (·.opened) then
    (s.stopStreams c stAborted).modCtx c (fun x => { x with parked := true })
  else s

/-- REASON bits of a suspicion report (R377). -/
def whyHeartbeat : Nat := 1
def whyRetry : Nat := 2
def whySelfFailed : Nat := 4
def whySelfRemap : Nat := 8

/-- Ask for a report at action 6 of the next Bell; one report a suspect (R377). -/
def State.askReport (s : State) (dev why : Nat) : State :=
  let g := s.group
  let old := Table.get 0 g.toReport dev
  { s with group := { g with toReport := Table.put g.toReport dev (old ||| why) } }

/-- The device at the far end of a queue pair, by the address it sends to (log entry 16). -/
def State.peerOf (s : State) (n : Nat) : Nat :=
  match s.group.addrs.find? (fun e => e.2.addr == (s.qp n).dip) with
  | some e => e.1
  | none => 0xFFFF

/-- Is the far end of a queue pair the module itself (R312)? -/
def State.selfQp (s : State) (n : Nat) : Bool :=
  let q := s.qp n
  q.dip != 0 && (q.dip == q.sip || s.peerOf n == s.devid)

/-! The gather walk. -/

/-- An entry of the gather list (R559). -/
structure GatherEntry where
  src0 : Nat
  src1 : Nat
  offs : Nat
  blocks : Nat
  qpn  : Nat
  sigv : Bool
  sem  : Nat
deriving DecidableEq, Repr

def State.gatherEntry (s : State) (x : Ctx) (i : Nat) : GatherEntry :=
  let w := fun k : Nat => leNat (Memory.readBytes s.mem (x.gatherBase + 32 * i + 8 * k) 8)
  { src0 := w 0 % 2 ^ 48, src1 := w 1 % 2 ^ 48, offs := w 2 % 2 ^ 40 * 64, blocks := max 1 (w 2 / 2 ^ 40),
    qpn := w 3 % 2 ^ 20, sigv := (w 3).testBit 20, sem := w 3 / 2 ^ 21 % 2 ^ 24 }

/-- The source of an entry: by MILL_GEN.MAP in a MAP0 area of the committed step, else by MILL_GEN.STATE (R343). -/
def Ctx.gatherSrc (x : Ctx) (g : GatherEntry) : Nat :=
  let inMap := x.gathersMap.any (fun m => m.1 ≤ g.src0 && g.src0 < m.1 + m.2)
  if (if inMap then x.genMap else x.genState) = 0 then g.src0 else g.src1

/-- Entries of one walk outstanding (R331). -/
def walkMax : Nat := 64

/-- Start entry i of a walk with its WRITE (R331, R559): a refused one sends RDMA_EXCEPTION and counts as completed. The spec names
no syndrome and PSN for that event, so they are free values. -/
def State.startEntry (s : State) (c i : Nat) : State × Bool :=
  let x := s.ctx c
  let g := s.gatherEntry x i
  let q := s.qp g.qpn
  if !q.sends c || q.rwinLen < g.offs + 64 * g.blocks then
    let r := s.draw64
    (r.2.event c 0x0006 [(g.qpn, 20), (bits r.1 7 0, 8), (bits r.1 31 8, 24)], false)
  else
    (s.post g.qpn (.gather c i) (q.packets (64 * g.blocks)) true
      (fun p => .rdmaWrite g.qpn p (q.rwinBase + g.offs) (x.gatherSrc g) (64 * g.blocks) none), true)

/-- The first walk of a context, changed. -/
def Ctx.modWalk (x : Ctx) (f : Walk → Walk) : Ctx :=
  match x.walks with
  | [] => x
  | w :: ws => { x with walks := f w :: ws }

/-- Start entries while there is room; a walk whose entries have all completed frees its step (R331). -/
def walkGo : Nat → State → Nat → State
  | 0, s, _ => s
  | n + 1, s, c =>
    let x := s.ctx c
    match x.walks with
    | [] => s
    | w :: ws =>
      if w.next < x.gatherN then
        if w.running.length < walkMax then
          let r := s.startEntry c w.next
          let run := if r.2 then w.running ++ [w.next] else w.running
          walkGo n (r.1.modCtx c (fun x => x.modWalk (fun w => { w with next := w.next + 1, running := run }))) c
        else s
      else if w.running.isEmpty then
        walkGo n (((s.setCtx c { x.freeStep w.step with walks := ws }).unpoke (ledgerRing c) 0x100000).parkDetached c) c
      else s

def State.walk (s : State) (c : Nat) : State :=
  walkGo (((s.ctx c).gatherN + 1) * (s.ctx c).walks.length + 1) s c

/-- FP3 begins a walk for a step (R331, R385). -/
def State.startWalk (s : State) (c step : Nat) : State :=
  (s.modCtx c (fun x => { x with walks := x.walks ++ [⟨step, 0, []⟩] })).walk c

/-- A started entry has completed, or failed (R331, R559). -/
def State.entryDone (s : State) (c i : Nat) : State :=
  let s := (s.acked (.gather c i)).acked (.gatherSig c i)
  let s := s.modCtx c (fun x => x.modWalk (fun w => { w with running := w.running.filter (· != i) }))
  s.walk c

/-- Is the WRITE of an entry not acknowledged yet? -/
def State.writing (s : State) (c i : Nat) : Bool := s.qps.any (fun e => e.2.work.any (fun w => w.owner == .gather c i))

/-- May a queue pair carry Agbel packets out (R440): an RC queue pair with AGBEL set, on a PEER or FABRIC subport? -/
def State.agbelSends (s : State) (n : Nat) : Bool :=
  let q := s.qp n
  q.agbel && !q.ud && s.portRole q.port q.sub != 0

/-- The WRITE of an entry is acknowledged: its SIG goes out, with the watermark of R229, or the entry has completed (R331, R559). -/
def State.entryWritten (s : State) (c i : Nat) : State :=
  let s := s.acked (.gather c i)
  let g := s.gatherEntry (s.ctx c) i
  let m := (s.qp g.qpn).watermark
  if g.sigv ∧ (s.qp g.qpn).sends c ∧ s.agbelSends g.qpn then
    s.post g.qpn (.gatherSig c i) 1 false (fun p => .sig g.qpn p ⟨g.sem, 1, m⟩)
  else s.entryDone c i

/-! A queue pair that fails (R224). -/

/-- What was sent of R389's order 6 has to be sent again. -/
def Ctx.copyLost (x : Ctx) : Ctx := if x.copies = .sent then { x with copies := .due } else x

/-- A work request of a failed queue pair ends (R224, R559, R561). -/
def State.failWork (s : State) (code : Nat) (w : WorkReq) : State :=
  match w.owner with
  | .flight id => match s.flight? id with
    | some f => s.failFlight f code
    | none => s
  | .gather c i => s.entryDone c i
  | .gatherSig c i => s.entryDone c i
  | .mirror c _ => (s.modCtx c (fun x => { x with unsent := true })).askReport (s.peerOf (s.ctx c).twinQpn) whyRetry
  | .ledger c _ => (s.modCtx c Ctx.copyLost).askReport (s.peerOf (s.ctx c).twinQpn) whyRetry
  | .copy c _ => s.modCtx c Ctx.copyLost
  | .numerics c _ => s.modCtx c (fun x => { x.copyLost with numDue := true })
  | .control => s

/-- A queue pair enters ERROR: its outstanding work, but for the `k` oldest requests, ends with the status, in the order of issue.
A session's queue pair in ERROR detaches the session (R468). -/
def State.failFrom (s : State) (n : Nat) (lost : Bool) (k : Nat) : State :=
  let q := s.qp n
  if q.state = 4 then s
  else
    let s := s.setQp n { q with state := 4, lost := lost, work := q.work.take k, held := [], rnrWait := false }
    let s := (q.work.drop k).foldl (fun s w => s.failWork (if lost then stPeerLost else stNetTimeout) w) s
    if q.session ∧ (s.ctx q.ctx).ses.modQpn = n ∧ (s.ctx q.ctx).ses.state = .opened then
      (s.modCtx q.ctx (fun x => { x with ses := { x.ses with state := .detached, age := 0 } })).parkDetached q.ctx
    else s

/-- All of its outstanding work ends. -/
def State.failQp (s : State) (n : Nat) (lost : Bool) : State := s.failFrom n lost 0

/-- Requests that a queue pair in ERROR still had outstanding end too (R224). -/
def State.failRest (s : State) (n : Nat) (lost : Bool) : State :=
  let q := s.qp n
  q.work.foldl (fun s w => s.failWork (if lost then stPeerLost else stNetTimeout) w) (s.setQp n { q with lost := q.lost || lost, work := [] })

/-- How many requests stand before the one that a PSN belongs to. -/
def Qp.before (q : Qp) (psn : Nat) : Option Nat := q.work.findIdx? (fun w => psnSub psn w.psn < w.count)

/-- Retries are exhausted: ERROR, and a report of the peer of a training or system queue pair (R224, R377, R436). -/
def State.exhaust (s : State) (n : Nat) : State :=
  let q := s.qp n
  let s := s.failQp n false
  if q.session then s else s.askReport (s.peerOf n) whyRetry

/-! Queue pairs of the system context (R371, R445). -/

/-- The MAC address of a subport. -/
def State.macOf (s : State) (port sub : Nat) : BitVec 48 := s.net.mac.getD Config.baseMac + BitVec.ofNat 48 (4 * port + sub)

/-- The IPv6 link-local address of a MAC address, by modified EUI-64. -/
def linkLocal (m : BitVec 48) : BitVec 128 :=
  BitVec.ofNat 128 (0xFE80 * 2 ^ 112 + (bits m 47 24 ^^^ 0x020000) * 2 ^ 40 + 0xFFFE * 2 ^ 24 + bits m 23 0)

/-- Subports that can have link: those of the ports with EN 1 (R416, R417, R429). -/
def State.enabledSubs (s : State) : List (Nat × Nat) :=
  (List.range 8).flatMap (fun p => if s.portEn p then (List.range (s.subports p)).map (fun k => (p, k)) else [])

/-- The lowest QPN that no queue pair has; 0–2 are not given out (R431). -/
def State.freeQpn (s : State) : Option Nat :=
  match ((List.range (s.qps.length + 1)).map (· + 3)).find? (fun n => !(s.qp n).used) with
  | some n => if n < 2 ^ 20 then some n else none
  | none => none

/-- The source address of a session queue pair: the receiving subport's, in the family of the host's address. -/
def State.sourceAddr (s : State) (port sub : Nat) (dip : BitVec 128) : BitVec 128 :=
  let p := s.sub port sub
  if isMapped4 dip then mapped4 p.ipv4 else if p.ipv6 ≠ 0 then p.ipv6 else linkLocal (s.macOf port sub)

/-- FP2 resolves the MAC address of a queue pair (R435); while FP2 restarts that waits (R451). -/
def State.resolve (s : State) (n : Nat) : State :=
  if s.up 2 then (s.modQp n (fun q => { q with macKnown := false, macDue := false })).send (.resolveMac n)
  else s.modQp n (fun q => { q with macKnown := false, macDue := true })

/-- The rate a queue pair starts at: its subport's (R416, R427), in Mb/s × 2^16. -/
def State.subportRate (s : State) (port : Nat) : Nat := 400000 / s.subports port * 65536

/-- A queue pair in ERROR works again, with new PSNs; what it still had outstanding has ended (R224). The spec gives no PSNs, so they
are free values. -/
def State.reestablish (s : State) (n : Nat) : State :=
  let r := (s.failRest n false).draw64
  let q := r.2.qp n
  (r.2.dropEgress (· == n)).setQp n
    { q.startPsn (bits r.1 23 0) (bits r.1 47 24) with state := 3, lost := false, tries := 0, rnrTries := 0, rnrWait := false, atomics := [] }

/-- The system-context queue pair to a module that carries VOTE messages (R371, R440, R445): one that Agbel packets may leave by, in RTS, or
in ERROR and to be recovered. -/
def State.voteQpOf (s : State) (dst : Nat) : Option Nat :=
  (s.qps.find? (fun e => e.2.used && s.agbelSends e.1 && (e.2.state == 3 || e.2.state == 4) && !e.2.session && e.2.ctx == 0 &&
    s.peerOf e.1 == dst)).map (·.1)

/-- The first enabled PEER or FABRIC subport (log entry 109). -/
def State.meshSub (s : State) : Option (Nat × Nat) := s.enabledSubs.find? (fun e => s.portRole e.1 e.2 != 0)

/-- FP2 sets a queue pair to a module up (R371, R428, R445). How the two ends agree on its numbers is not in the spec: free values (log
entry 109). -/
def State.newVoteQp (s : State) (dst : Nat) : Option Nat × State :=
  match s.group.addrs.find? (fun e => e.1 == dst), s.meshSub, s.freeQpn with
  | some a, some k, some n =>
    let r := s.draw64
    let t := r.2.draw64
    let q : Qp := { used := true, state := 3, agbel := true, port := k.1, sub := k.2, pcp := 5, dscp := 40, dqpn := bits t.1 23 0,
                    sip := s.sourceAddr k.1 k.2 a.2.addr, dip := a.2.addr, rate := s.subportRate k.1, target := s.subportRate k.1 }
    (some n, ((t.2.setQp n (q.startPsn (bits r.1 23 0) (bits r.1 47 24))).cacheIn n).resolve n)
  | _, _, _ => (none, s)

/-- The queue pair for a VOTE message: kept, recovered from ERROR, or new; the last two wait while FP2 restarts (R451). -/
def State.keepVoteQp (s : State) (dst : Nat) : Option Nat × State :=
  match s.voteQpOf dst with
  | some n =>
    if (s.qp n).state ≠ 4 then (some n, s)
    else if s.up 2 then (some n, s.reestablish n) else (none, s)
  | none => if s.up 2 then s.newVoteQp dst else (none, s)

/-- Send a group-control message to a module, unless fenced (R381, R444, R445). No row brings the acknowledgment of a VOTE, so only the
last one sent counts as outstanding (log entry 109). -/
def State.sendMsg (s : State) (gtag dst : Nat) (m : Msg) : State :=
  if s.group.fenced then s
  else
    let r := s.keepVoteQp dst
    match r.1 with
    | none => r.2
    | some n =>
      let h : VoteHdr := ⟨m.kind, gtag, m.length, s.bellNow⟩
      let s := r.2.modQp n (fun q => { q with work := q.work.filter (fun w => w.owner != .control) })
      s.post n .control (voteCount (s.qp n).mtu h.len) false (fun p => .vote n p dst h m)

/-- The tag of the group that the module's training contexts belong to. -/
def State.groupTag (s : State) : Nat := match s.contexts.find? (· != 0) with | some c => (s.ctx c).gtag | none => 0

/-! Starting the streams (R385 step 4, R554). -/

/-- A stream starts at a step's entry address with its registers at 0. -/
def Stream.start (y : Stream) (pc : Ptr) (step : Nat) : Stream :=
  { y with pc := pc, s := [], p := [], run := .running, step := step, waiting := .none, windows := [],
           stallBells := 0, stallSent := false, haltedIn := [] }

/-- At a restart a HALTED stream stays HALTED, but for one that halted during an attempt with an uncorrectable error, one of
`ues` (R385, R411); that one is no longer HALTED in its status word either (R158). -/
def Stream.restart (y : Stream) (ues : List (Nat × Nat)) (pc : Ptr) (step : Nat) : Stream :=
  if y.run = .halted ∧ !y.haltedIn.any ues.contains then { y with windows := [] }
  else { y with status := y.status &&& ~~~0x80 }.start pc step

/-- The crofts of a context after a change of all 288, those already listed and those not. -/
def State.allCrofts (s : State) (c : Nat) (f : Croft → Croft) : State :=
  if c = s.resident then { s with crofts := (List.range 288).map (fun l => (l, f (s.croft l))) }
  else
    let other := s.saved.filter (fun e => e.1 / 288 != c)
    { s with saved := other ++ (List.range 288).map (fun l => (c * 288 + l, { s.area c l with croft := f (s.area c l).croft })) }

/-- The oldest held step that has not committed (R385). -/
def Ctx.oldest (x : Ctx) : Option HeldStep := x.uncommitted.head?

/-- Start every stream of a context at the oldest uncommitted step; with none, nothing starts. -/
def State.startStreams (s : State) (c : Nat) (f : Stream → Ptr → Nat → Stream) : State :=
  match (s.ctx c).oldest with
  | none => s
  | some h => s.allCrofts c (fun x =>
      { x with f := f x.f h.desc.pcF h.desc.step, b := f x.b h.desc.pcB h.desc.step, u := f x.u h.desc.pcU h.desc.step })

/-- Every context semaphore of a context goes to 0 through a restore, and its SIGs are accepted again (R385
step 3). -/
def State.resetSemaphores (s : State) (c : Nat) : State := s.zeroSemaphores c

/-- R385 steps 3 to 5: semaphores to 0, streams started, and the gather list of the last committed step walked
again. -/
def State.restartContext (s : State) (c : Nat) (f : Stream → Ptr → Nat → Stream) : State :=
  let s := (s.resetSemaphores c).startStreams c f
  let x := s.ctx c
  if x.cmtSeen then s.startWalk c x.lastCmt else s

/-! Quiet (R384). -/

/-- Queue pairs bound to a context. -/
def State.qpsOf (s : State) (c : Nat) : List Qp := (s.qps.map (·.2)).filter (fun q => q.used && q.ctx == c)

def Owner.isInstr : Owner → Bool
  | .flight _ => true
  | _ => false

/-- Is a flight a network instruction or a far access (R384, R415)? -/
def Flight.network (f : Flight) : Bool :=
  f.far.isSome || (match f.op with | .put _ => true | .get .. => true | .redw .. => true | .nsig _ => true | _ => false)

/-- Is the module quiet for a context? -/
def State.quiet (s : State) (c : Nat) : Bool :=
  s.flights.all (fun f => !(f.ctx == c && f.network)) &&
  (s.qpsOf c).all (fun q => q.work.all (fun w => !w.owner.isInstr) && q.holds.isEmpty) &&
  (s.ctx c).walks.isEmpty

end Sys2Proof.Machine
end

