-- ==== Sys2Proof/Machine/Move.lean ====
section
/-! DEFINITION. The data-move class (R197–R204), far-memory windows (R413–R415), and the finish of data moves. -/

namespace Sys2Proof.Machine

/-! Operand addresses. -/

/-- Where an address of a context's far-memory window leads; none when R414 gives an ADDRESS_FAULT. -/
def State.farPlaceOf (s : State) (c a len : Nat) : Option Place :=
  let x := s.ctx c
  let n := (a - farBase) / farStride
  let o := (a - farBase) % farStride
  let q := s.qp (x.fwinQpn n)
  if a < farBase ∨ !x.fwinEn n ∨ x.fwinLen n < o + len ∨ !q.used ∨ q.ctx ≠ c ∨ q.rwinLen < o + len then none
  else some (.far (x.fwinQpn n) (q.rwinBase + o) n)

def State.farPlace (s : State) (a len : Nat) : Option Place := s.farPlaceOf s.resident a len

/-- A source of LD, LDT, GATHER and PREFETCH (R197); none is an ADDRESS_FAULT. -/
def State.loadSource (s : State) (l a len : Nat) : Option Place :=
  if a % 64 ≠ 0 then none
  else if inHbm a len || inStoreOf l a len || inSomeStore a len then some (.dev a)
  else s.farPlace a len

/-- A destination of ST and STT (R197). -/
def State.storeDest (s : State) (l a len : Nat) : Option Place :=
  if a % 64 ≠ 0 then none
  else if inHbmOrOwn l a len then some (.dev a)
  else s.farPlace a len

/-- A destination of LD, GATHER and PREFETCH: the own store. -/
def loadDest (l a len : Nat) : Bool := a % 64 == 0 && inStoreOf l a len

/-- The source of ST: HBM or the own store (R197, R201). -/
def storeSource (l a len : Nat) : Bool := a % 64 == 0 && inHbmOrOwn l a len

/-- Pn + sext(IMM24) × 64 (R142, R198). -/
def moveAddr (y : Stream) (b : Nat) (w : Word) : Nat := ptrPlus (y.preg b) (fImmS w) 64

def Place.qpn? : Place → Option Nat
  | .far q _ _ => some q
  | .dev _ => none

/-- Do two ranges share a byte? -/
def overlap (a b len : Nat) : Bool := a < b + len && b < a + len

/-! Issue. -/

/-- The queue pair of a far access in flight: its request is sent, or, in error, the instruction ends at once with the
status of R224 (R414). -/
def State.farSend (s : State) (n id len : Nat) (out : Nat → Output) : State :=
  let q := s.qp n
  if q.state = 4 then
    match s.flight? id with
    | some f => s.failFlight f q.errStatus
    | none => s
  else if q.state = 3 then s.post n (.flight id) (q.packets len) true out
  else s

/-- Issue a move whose one far place is `p`, if it is far. -/
def State.issueMove (s : State) (l : Nat) (t : Strm) (n : Need) (op : FlightOp) (p : Place) (len : Nat) (posted : Bool)
    (out : Nat → Output) : State :=
  let id := s.nextId
  let s := s.issue l t 8 n op 0 0 p.qpn? posted
  match p.qpn? with
  | some q => s.farSend q id len out
  | none => s

/-- The length of LD, ST and PREFETCH in 64-byte blocks (R201). -/
def moveBlocks (y : Stream) (w : Word) : Nat := clampTo 1 49152 (bits (y.sreg (fSrc2 w)) 15 0)

/-- The far end's packet for a read or a write. -/
def farRead (p : Place) (len : Nat) (psn : Nat) : Output :=
  match p with
  | .far q r _ => .rdmaRead q psn r len
  | .dev _ => .rdmaRead 0 psn 0 len

def farWrite (p : Place) (src len : Nat) (psn : Nat) : Output :=
  match p with
  | .far q r _ => .rdmaWrite q psn r src len none
  | .dev _ => .rdmaWrite 0 psn 0 src len none

def farWriteData (p : Place) (data : List Byte) (psn : Nat) : Output :=
  match p with
  | .far q r _ => .rdmaWriteData q psn r data
  | .dev _ => .rdmaWriteData 0 psn 0 data

/-- What LD and PREFETCH hold in flight: a PREFETCH has completed, and only its blocks are still accesses (R202). -/
def loadHeld (pre : Bool) (n : Need) (src len : Nat) : Need := if pre then { n with reads := [memRes src len] } else n

/-- LD and PREFETCH (R201, R202). -/
def loadBlocks (pre : Bool) (c : Nat) (t : Strm) (w : Word) (s : State) : Answer :=
  let y := s.strm c t
  let blocks := moveBlocks y w
  let len := 64 * blocks
  let a := moveAddr y (fSrc1 w) w
  let d := moveAddr y (fDst w) w
  let n : Need := { reads := sRes (fSrc2 w) ++ pRes (fSrc1 w) ++ pRes (fDst w) ++ [memRes a len]
                    writes := [memRes d len], units := [.dataMove] }
  shortForm c t n (fun s =>
    match s.loadSource c a len, loadDest c d len with
    | some p, true =>
      s.issueMove c t (loadHeld pre n a len) (if pre then .prefetch p d blocks 0 else .copy p (.dev d) blocks) p len pre (farRead p len)
    | _, _ => s.faultAt c t stAddress) s

/-- LD (R201). -/
def execLd (c : CroftId) (t : Strm) (w : Word) (s : State) : Answer := loadBlocks false c t w s

/-- PREFETCH: completes at issue, and its blocks move afterwards (R202). -/
def execPrefetch (c : CroftId) (t : Strm) (w : Word) (s : State) : Answer := loadBlocks true c t w s

/-- ST (R201). -/
def execSt (c : CroftId) (t : Strm) (w : Word) (s : State) : Answer :=
  let y := s.strm c t
  let blocks := moveBlocks y w
  let len := 64 * blocks
  let a := moveAddr y (fSrc1 w) w
  let d := moveAddr y (fDst w) w
  let n : Need := { reads := sRes (fSrc2 w) ++ pRes (fSrc1 w) ++ pRes (fDst w) ++ [memRes a len]
                    writes := [memRes d len], units := [.dataMove] }
  shortForm c t n (fun s =>
    match s.storeDest c d len, storeSource c a len with
    | some p, true => s.issueMove c t n (.copy (.dev a) p blocks) p len false (farWrite p a len)
    | _, _ => s.faultAt c t stAddress) s

/-- The record size of LDT and STT, FMT 0–9 (R62, R203), and of GATHER, whose FMT takes the same range (log entry 114). -/
def moveRecord (w : Word) : Nat := recordBytes (min 9 (tagFmt (fTag w)))

/-- LDT (R203). -/
def execLdt (c : CroftId) (t : Strm) (w : Word) (s : State) : Answer :=
  let len := moveRecord w
  let a := moveAddr (s.strm c t) (fSrc1 w) w
  let n : Need := { reads := pRes (fSrc1 w) ++ [memRes a len], writes := [.tile (tileNo (fDst w))], units := [.dataMove] }
  shortForm c t n (fun s =>
    match s.loadSource c a len with
    | some p => s.issueMove c t n (.loadTile p (tileNo (fDst w)) len) p len false (farRead p len)
    | none => s.faultAt c t stAddress) s

/-- STT (R203). -/
def execStt (c : CroftId) (t : Strm) (w : Word) (s : State) : Answer :=
  let len := moveRecord w
  let d := moveAddr (s.strm c t) (fDst w) w
  let n : Need := { reads := pRes (fDst w) ++ [.tile (tileNo (fSrc1 w))], writes := [memRes d len], units := [.dataMove] }
  shortForm c t n (fun s =>
    match s.storeDest c d len with
    | some p =>
      s.issueMove c t n (.storeTile (tileNo (fSrc1 w)) len p) p len false
        (farWriteData p (((s.croft c).tile (tileNo (fSrc1 w))).take len))
    | none => s.faultAt c t stAddress) s

/-- N of an index list (R204): its word 0. -/
def gatherCount (m : Memory) (a : Nat) : Nat := clampTo 1 4096 (leNat (Memory.readBytes m a 4))

/-- Where the records of an index list lie (R204): table + idx × s, which does not wrap at 2^48 (log entry 116), and destination + q × s. -/
def gatherMoves (m : Memory) (list table dst size : Nat) : List (Nat × Nat) :=
  (List.range (gatherCount m list)).map (fun q =>
    (table + leNat (Memory.readBytes m (list + 4 + 4 * q) 4) * size, dst + q * size))

/-- Every source of a GATHER, or none when one of them is not accepted. -/
def State.gatherSources (s : State) (l size : Nat) : List (Nat × Nat) → Option (List (Place × Nat))
  | [] => some []
  | (a, d) :: ms =>
    match s.loadSource l a size, State.gatherSources s l size ms with
    | some p, some ps => some ((p, d) :: ps)
    | _, _ => none

/-- The reads of the far records of a GATHER. -/
def State.gatherSend (s : State) (id size : Nat) (ms : List (Place × Nat)) : State :=
  ms.foldl (fun s m =>
    match m.1.qpn? with
    | some q => s.farSend q id size (farRead m.1 size)
    | none => s) s

/-- GATHER (R204): reads the list and checks every address before anything is written. The table base must be a multiple of 64; it need not
lie in an accepted range itself when every record does (DESIGN CHOICE, log entry 132). -/
def execGather (c : CroftId) (t : Strm) (w : Word) (s : State) : Answer :=
  let y := s.strm c t
  let size := moveRecord w
  let list := moveAddr y (fSrc2 w) w
  let table := moveAddr y (fSrc1 w) w
  let d := moveAddr y (fDst w) w
  let count := gatherCount s.mem list
  let ms := gatherMoves s.mem list table d size
  let n : Need :=
    { reads := pRes (fSrc1 w) ++ pRes (fSrc2 w) ++ pRes (fDst w) ++ [memRes list (4 + 4 * count)] ++
        ms.map (fun m => memRes m.1 size)
      writes := [memRes d (count * size)], units := [.dataMove] }
  shortForm c t n (fun s =>
    if list % 64 ≠ 0 ∨ !inHbmOrOwn c list (4 + 4 * count) ∨ table % 64 ≠ 0 ∨ !loadDest c d (count * size) then
      s.faultAt c t stAddress
    else match s.gatherSources c size ms with
      | some ps =>
        let id := s.nextId
        (s.issue c t 8 n (.gather ps size) 0 0 (ps.findSome? (fun p => p.1.qpn?)) false).gatherSend id size ps
      | none => s.faultAt c t stAddress) s

/-! Completion. -/

/-- Copy blocks between device addresses; where the ranges overlap the result is undefined (R201). -/
def State.copyBlocks (s : State) (a d len : Nat) : State :=
  if overlap a d len then s.spoil d len else { s with mem := Memory.copy s.mem d s.mem a len }

/-- Write the records of a GATHER in order, the far ones from the data received (R204); a later record sees what earlier ones wrote (log
entry 115). -/
def gatherWrite (size : Nat) : Memory → List (Place × Nat) → List Byte → Memory
  | m, [], _ => m
  | m, (.dev a, d) :: ms, data => gatherWrite size (Memory.writeBytes m d (Memory.readBytes m a size)) ms data
  | m, (.far .., d) :: ms, data => gatherWrite size (Memory.writeBytes m d (data.take size)) ms (data.drop size)

/-- Bytes a far access in flight waits for. -/
def FlightOp.farBytes : FlightOp → Nat
  | .copy (.far ..) _ blocks => 64 * blocks
  | .loadTile (.far ..) _ len => len
  | .gather ms size => size * (ms.filter (fun m => m.1.isFar)).length
  | _ => 0

/-- What a data move writes when its last block is written; none for an instruction of another class. -/
def State.moveResult (s : State) (f : Flight) (data : List Byte) : Option (State × Nat) :=
  let x := s.croftOf f.ctx f.croft
  match f.op with
  | .copy (.dev a) (.dev d) blocks => some (s.copyBlocks a d (64 * blocks), stOk)
  | .copy (.far ..) (.dev d) _ => some ({ s with mem := Memory.writeBytes s.mem d data }, stOk)
  | .copy _ (.far ..) _ => some (s, stOk)
  | .loadTile (.dev a) tile len =>
    some (s.setCroftOf f.ctx f.croft (x.putTile tile (Memory.readBytes s.mem a len)), stOk)
  | .loadTile (.far ..) tile _ => some (s.setCroftOf f.ctx f.croft (x.putTile tile data), stOk)
  | .storeTile tile len (.dev d) => some ({ s with mem := Memory.writeBytes s.mem d ((x.tile tile).take len) }, stOk)
  | .storeTile _ _ (.far ..) => some (s, stOk)
  | .gather ms size => some ({ s with mem := gatherWrite size s.mem ms data }, stOk)
  | .accLoad n i a =>
    let y := (x.array n).load i (totalsOf (Memory.readBytes s.mem a accBytes))
    some (s.setCroftOf f.ctx f.croft (x.putArray n y), stOk)
  | .accStore n i a =>
    let r := if i = (x.array n).active then (x.array n).settle else (x.array n, false)
    some ({ s.setCroftOf f.ctx f.croft (x.putArray n r.1) with mem := Memory.writeBytes s.mem a (totalBytes (r.1.set i).totals) },
      if r.2 || (r.1.set i).ovf then stNumeric else stOk)
  | _ => none

/-- DATA_MOVE_COMPLETE: the last block is written and the instruction completes (R199, R201). The peer's data and
acknowledgments count only for a request that was sent. -/
def execDataMoveComplete (id : Nat) (farData : Landed) (s : State) : Answer :=
  let s := s.heard (.flight id) farData.ce
  .next (match s.flight? id with
    | some f =>
      if farData.data.length ≠ f.op.farBytes ∨ (f.far.isSome ∧ !s.outstanding id) then s
      else match s.moveResult f farData.data with
        | some r => (r.1.acked (.flight id)).complete f r.2
        | none => s
    | none => s.acked (.flight id))

/-- Behind its first `done` blocks: what is left of the accesses of a PREFETCH (R202). -/
def Res.behind (done : Nat) : Res → Res
  | .mem b n => .mem (b + done) (n - done)
  | r => r

/-- A PREFETCH in flight with `done` blocks moved: a later instruction waits only for the blocks still to come (R202, R238). -/
def Flight.prefetched (f : Flight) (p : Place) (d blocks done : Nat) : Flight :=
  { f with op := .prefetch p d blocks done, reads := f.reads.map (Res.behind 1), writes := f.writes.map (Res.behind 1) }

/-- One more block of a PREFETCH has moved; after the last it is done. -/
def State.prefetchStep (s : State) (f : Flight) (p : Place) (d blocks done : Nat) : State :=
  if done + 1 < blocks then
    { s with flights := s.flights.map (fun g => if g.id == f.id then g.prefetched p d blocks (done + 1) else g) }
  else (s.dropFlight f.id).acked (.flight f.id)

/-- PREFETCH_BLOCK_LANDING: the next block of a PREFETCH is written into the store (R199, R202). -/
def execPrefetchBlockLanding (id : Nat) (farData : Landed) (s : State) : Answer :=
  let s := s.heard (.flight id) farData.ce
  .next (match s.flight? id with
    | some f =>
      match f.op with
      | .prefetch (.dev a) d blocks done =>
        let s :=
          if overlap a d (64 * blocks) then s.spoil (d + 64 * done) 64
          else { s with mem := Memory.copy s.mem (d + 64 * done) s.mem (a + 64 * done) 64 }
        s.prefetchStep f (.dev a) d blocks done
      | .prefetch (.far q r n) d blocks done =>
        if farData.data.length = 64 ∧ s.outstanding id then
          { s with mem := Memory.writeBytes s.mem (d + 64 * done) farData.data }.prefetchStep f (.far q r n) d blocks done
        else s
      | _ => s
    | none => s)

/-- FAR_MEMORY_TIMEOUT: a far access not completed within its window's TMO completes with NET_TIMEOUT, and the fault monitor
holds the event: it reports the far end (R156, R200, R377, R414). -/
def execFarMemoryTimeout (id : Nat) (s : State) : Answer :=
  .next (match s.flight? id with
    | some f =>
      match f.far with
      | some n => ((s.failFlight f stNetTimeout).abandon (.flight id)).askReport (s.peerOf n) whyRetry
      | none => s
    | none => s.abandon (.flight id))

end Sys2Proof.Machine
end

