-- ==== Sys2Proof/Machine/Net.lean ====
section
/-! DEFINITION. The network class (R221–R232) and the finish of its instructions. -/

namespace Sys2Proof.Machine

/-- The local address of PUT, GET and REDW: 64-byte aligned, in HBM or in the own store (R221). -/
def netLocal (l a len : Nat) : Bool := a % 64 == 0 && inHbmOrOwn l a len

/-- The length of PUT and GET in bytes (R226). -/
def netLen (y : Stream) (w : BitVec 128) : Nat := 64 * max 1 (bits (y.sreg (gSrcB w)) 23 0)

/-- The remote offset of PUT and GET: S[SRCC][47:0] in 64-byte units (R221). -/
def netOffset (y : Stream) (w : BitVec 128) : Nat := 64 * bits (y.sreg (gSrcC w)) 47 0

/-- PUT (R221, R226). -/
def execPut (c : CroftId) (t : Strm) (w : BitVec 128) (s : State) : Answer :=
  let y := s.strm c t
  let q := s.qp (gQpn w)
  let a := (y.preg (gSrcA w)).toNat
  let len := netLen y w
  let immd := gFlag w 40
  let n : Need :=
    { reads := pRes (gSrcA w) ++ sRes (gSrcB w) ++ sRes (gSrcC w) ++ (if immd then sRes (gDst w) else []) ++ [memRes a len]
      units := [.rdma] }
  longForm c t n (fun s =>
    if !q.sends s.resident then s.faultAt c t stOperand
    else if !netLocal c a len ∨ q.rwinLen < netOffset y w + len then s.faultAt c t stAddress
    else
      let id := s.nextId
      let imm := if immd then some ((y.sreg (gDst w)).setWidth 32) else none
      (s.issue c t 16 n (.put (gQpn w)) (gDoneSem w) (gDoneAdd w) none false).post (gQpn w) (.flight id) (q.packets len) true
        (fun p => .rdmaWrite (gQpn w) p (q.rwinBase + netOffset y w) a len imm)) s

/-- GET (R221, R227). -/
def execGet (c : CroftId) (t : Strm) (w : BitVec 128) (s : State) : Answer :=
  let y := s.strm c t
  let q := s.qp (gQpn w)
  let a := (y.preg (gSrcA w)).toNat
  let len := netLen y w
  let n : Need := { reads := pRes (gSrcA w) ++ sRes (gSrcB w) ++ sRes (gSrcC w), writes := [memRes a len], units := [.rdma] }
  longForm c t n (fun s =>
    if !q.sends s.resident then s.faultAt c t stOperand
    else if !netLocal c a len ∨ q.rwinLen < netOffset y w + len then s.faultAt c t stAddress
    else
      let id := s.nextId
      (s.issue c t 16 n (.get (gQpn w) a len 0) (gDoneSem w) (gDoneAdd w) none false).post (gQpn w) (.flight id)
        (q.packets len) true (fun p => .rdmaRead (gQpn w) p (q.rwinBase + netOffset y w) len)) s

/-! REDW. -/

/-- Bytes of an exchange tile record, and records a packet carries (R314). -/
def xRecord : Nat := 1088
def Qp.redwRecords (q : Qp) : Nat := min 3 ((q.mtu - 24) / xRecord)

/-- The packets of a REDW (R314, R442): `per` records each, LAST only in the final one. -/
def redwPackets (per width qpn : Nat) (h : ReduceHdr) : Nat → Nat → Nat → Nat → List Output
  | 0, _, _, _ => []
  | fuel + 1, psn, src, left =>
    if left = 0 then []
    else
      let k := min per left
      let h' := { h with last := h.last && left ≤ per }
      .reduceWrite qpn psn h' src k ::
        redwPackets per width qpn { h with pos := (h.pos + width * k) % 8192 } fuel (psnAdd psn 1) (src + xRecord * k) (left - k)

/-- Can a queue pair send REDUCE_WRITE (R440)? To the module itself no port is used (R312). -/
def State.redwSends (s : State) (n : Nat) : Bool :=
  s.agbelSends n || ((s.qp n).agbel && !(s.qp n).ud && s.selfQp n)

/-- The packets that the hub carries internally, with the records they take from memory (R312). -/
def innerPackets (m : Memory) (outs : List Output) : List (Nat × ReduceHdr × List (List Byte)) :=
  outs.filterMap (fun o => match o with
    | .reduceWrite _ p h src k => some (p, h, (List.range k).map (fun i => Memory.readBytes m (src + xRecord * i) xRecord))
    | _ => none)

/-- Number of tile records of a REDW (R228). -/
def redwCount (y : Stream) (w : BitVec 128) : Nat := clampTo 1 16384 (bits (y.sreg (gSrcB w)) 14 0)

/-- REDW (R228, R312, R314, R440): its step and attempt are the stream's (R554). One to the module itself leaves no port. -/
def execRedw (c : CroftId) (t : Strm) (w : BitVec 128) (s : State) : Answer :=
  let y := s.strm c t
  let q := s.qp (gQpn w)
  let a := (y.preg (gSrcA w)).toNat
  let count := redwCount y w
  let fmt := clampTo 4 6 (tagFmt (gTagA w))
  let n : Need :=
    { reads := pRes (gSrcA w) ++ sRes (gSrcB w) ++ sRes (gSrcC w) ++ sRes (gDst w) ++ [memRes a (xRecord * count)]
      units := [.rdma] }
  longForm c t n (fun s =>
    if !s.entryOpen c t then s
    else if !q.sends s.resident || !s.redwSends (gQpn w) || q.redwRecords == 0 then s.faultAt c t stOperand
    else if !netLocal c a (xRecord * count) then s.faultAt c t stAddress
    else
      let id := s.nextId
      let h : ReduceHdr :=
        { step := y.step, att := (s.entry c t).attempt, fmt := fmt, last := gFlag w 40,
          pos := bits (y.sreg (gSrcC w)) 12 0, side := y.sreg (gDst w) }
      let per := q.redwRecords
      let outs := fun p => redwPackets per (if fmt = 5 then 2 else 1) (gQpn w) h count p a count
      let own := s.selfQp (gQpn w)
      (s.issue c t 16 n (.redw (gQpn w) (if own then innerPackets s.mem (outs q.sqPsn) else [])) (gDoneSem w) (gDoneAdd w) none
        false).postAll (gQpn w) (.flight id) ((count + per - 1) / per) true (fun p => if own then [] else outs p)) s

/-- The amount of NSIG (R229). -/
def nsigAmount (y : Stream) (w : BitVec 128) : BitVec 32 :=
  if gFlag w 40 then (y.sreg (gSrcB w)).setWidth 32 else BitVec.ofNat 32 (max 1 (gCtl w))

/-- NSIG (R229, R440): stamped with the queue pair's data watermark at issue. -/
def execNsig (c : CroftId) (t : Strm) (w : BitVec 128) (s : State) : Answer :=
  let y := s.strm c t
  let q := s.qp (gQpn w)
  let n : Need := { reads := sRes (gSrcA w) ++ (if gFlag w 40 then sRes (gSrcB w) else []), units := [.rdma] }
  longForm c t n (fun s =>
    if !q.sends s.resident || !s.agbelSends (gQpn w) then s.faultAt c t stOperand
    else
      let id := s.nextId
      let h : SigHdr := ⟨bits (y.sreg (gSrcA w)) 23 0, nsigAmount y w, q.watermark⟩
      (s.issue c t 16 n (.nsig (gQpn w)) (gDoneSem w) (gDoneAdd w) none false).post (gQpn w) (.flight id) 1 false
        (fun p => .sig (gQpn w) p h)) s

/-! Acknowledgments. -/

/-- A network instruction of the given kind is acknowledged and completes. -/
def State.netAck (s : State) (id : Nat) (kind : FlightOp → Bool) : State :=
  match s.flight? id with
  | some f => if kind f.op then (s.acked (.flight id)).complete f stOk else s
  | none => s.acked (.flight id)

/-- PUT_ACK (R226). -/
def execPutAck (id : Marked) (s : State) : Answer :=
  .next ((s.heard (.flight id.val) id.ce).netAck id.val (fun o => match o with | .put _ => true | _ => false))

/-- NSIG_ACK (R229). -/
def execNsigAck (id : Marked) (s : State) : Answer :=
  .next ((s.heard (.flight id.val) id.ce).netAck id.val (fun o => match o with | .nsig _ => true | _ => false))

/-- Data of a GET that has arrived is written, in ascending order; after the last byte it completes (R227). -/
def State.getData (s : State) (id : Nat) (data : List Byte) : State :=
  match s.flight? id with
  | some f =>
    match f.op with
    | .get n a len done =>
      if len < done + data.length then s
      else
        let s := { s with mem := Memory.writeBytes s.mem (a + done) data }
        if done + data.length = len then (s.acked (.flight id)).complete f stOk
        else
          let op := FlightOp.get n a len (done + data.length)
          { s with flights := s.flights.map (fun g => if g.id == id then { g with op := op } else g) }
    | _ => s
  | none => s.acked (.flight id)

/-- GET_RESPONSE (R227, R427). -/
def execGetResponse (id : Nat) (data : Landed) (s : State) : Answer := .next ((s.heard (.flight id) data.ce).getData id data.data)

/-! VOTE. -/

/-- How a step that VOTE or an update instruction names stands (R232): not acceptable, not open yet, or open. -/
inductive StepNamed where
  | bad | waits | held (h : HeldStep)
deriving DecidableEq, Repr

def Ctx.named (x : Ctx) (step : Nat) : StepNamed :=
  match x.step? step with
  | none => .bad
  | some h => if h.settled then .bad else if h.opened then .held h else .waits

/-- Ballots and UPCMTs that a step expects (R367). -/
def HeldStep.ballotsWanted (h : HeldStep) : Nat := max 1 h.desc.ballots

/-- An instruction in flight completes with a fault: its stream halts and the host is told (R155). -/
def State.faultFlight (s : State) (f : Flight) (code : Nat) : State :=
  let s := s.dropFlight f.id
  let s := if f.ctx = s.resident then s.withdraw f.croft f.strm else s
  let y := s.strmOf f.ctx f.croft f.strm
  let s := s.setStrmOf f.ctx f.croft f.strm (y.halt f.pc code (s.ctx f.ctx).liveAttempts)
  s.event f.ctx 0x0001 [(f.croft, 16), (f.strm.num, 8), (f.pc.toNat, 48), (code, 8)]

/-- VOTE (R231, R232): it moves the stream step on when it names it (R554). -/
def execVote (c : CroftId) (t : Strm) (w : BitVec 128) (s : State) : Answer :=
  let y := s.strm c t
  let step := (y.sreg (gSrcA w)).toNat
  let n : Need := { reads := sRes (gSrcA w), units := [.fp3] }
  longForm c t n (fun s =>
    if !s.allDone c t then s
    else match (s.ctx s.resident).named step with
      | .bad => s.faultAt c t stOperand
      | .waits => s
      | .held h =>
        if h.ballotsWanted ≤ h.ballots then s.faultAt c t stOperand
        else
          let s := s.issue c t 16 n (.vote step) (gDoneSem w) (gDoneAdd w) none false
          if step = y.step then s.modStrm c t (fun y => { y with step := y.step + 1 }) else s) s

/-- VOTE_RECORDED: FP3 records a ballot; one beyond those expected is discarded with OPERAND_FAULT (R231, R232). -/
def execVoteRecorded (id : Nat) (s : State) : Answer :=
  .next (match s.flight? id with
    | some f =>
      match f.op with
      | .vote step =>
        (match (s.ctx f.ctx).named step with
        | .held h =>
          if h.ballotsWanted ≤ h.ballots then s.faultFlight f stOperand
          else (s.modCtx f.ctx (fun x => x.modStep step (fun h => { h with ballots := h.ballots + 1 }))).complete f stOk
        | _ => s.faultFlight f stOperand)
      | _ => s
    | none => s)

/-! UPSKIP and UPCMT. -/

/-- An update instruction: outside stream U it is an OPERAND_FAULT (R146); its step must be held, not committed, and
open (R232). `last`: it is not ready until every earlier instruction of its stream has completed (R236). -/
def updateForm (last : Bool) (l : Nat) (t : Strm) (w : BitVec 128) (n : Need) (act : Nat → HeldStep → State → State)
    (s : State) : Answer :=
  let step := ((s.strm l t).sreg (gSrcA w)).toNat
  longForm l t (if t = .U then n else {}) (fun s =>
    if last && !s.allDone l t then s
    else if t ≠ .U then s.faultAt l t stOperand
    else match (s.ctx s.resident).named step with
      | .bad => s.faultAt l t stOperand
      | .waits => s
      | .held h => act step h s) s

/-- UPSKIP (R235). -/
def execUpskip (c : CroftId) (t : Strm) (w : BitVec 128) (s : State) : Answer :=
  let n : Need := { reads := sRes (gSrcA w), units := [.fp3] }
  updateForm false c t w n (fun step _ s =>
    s.issue c t 16 n (.upskip step (gImm w % 65536)) (gDoneSem w) (gDoneAdd w) none false) s

/-- Set SKIP on the module's ballot of a step; the first reason stays (R235, R370). -/
def HeldStep.setSkip (h : HeldStep) (why : Nat) : HeldStep :=
  if h.skip then h else { h with skip := true, skipWhy := why }

/-- UPSKIP_RECORDED (R235). -/
def execUpskipRecorded (id : Nat) (s : State) : Answer :=
  .next (match s.flight? id with
    | some f =>
      match f.op with
      | .upskip step why => (s.modCtx f.ctx (fun x => x.modStep step (fun h => h.setSkip why))).complete f stOk
      | _ => s
    | none => s)

/-- UPCMT (R236): ready once every earlier instruction of the stream has completed. -/
def execUpcmt (c : CroftId) (t : Strm) (w : BitVec 128) (s : State) : Answer :=
  let n : Need := { reads := sRes (gSrcA w), units := [.fp3] }
  updateForm true c t w n (fun step h s =>
    if h.desc.upcmts ≤ h.upcmts then s.faultAt c t stOperand
    else s.issue c t 16 n (.upcmt step) (gDoneSem w) (gDoneAdd w) none false) s

/-- UPCMT_RECORDED (R236): one beyond those expected is an OPERAND_FAULT and is not counted. -/
def execUpcmtRecorded (id : Nat) (s : State) : Answer :=
  .next (match s.flight? id with
    | some f =>
      match f.op with
      | .upcmt step =>
        (match (s.ctx f.ctx).named step with
        | .held h =>
          if h.desc.upcmts ≤ h.upcmts then s.faultFlight f stOperand
          else (s.modCtx f.ctx (fun x => x.modStep step (fun h => { h with upcmts := h.upcmts + 1 }))).complete f stOk
        | _ => s.faultFlight f stOperand)
      | _ => s
    | none => s)

end Sys2Proof.Machine
end

