-- ==== Sys2Proof/Machine/Exchange.lean ====
section
/-! DEFINITION. The gradient exchange at the owner: how a REDUCE_WRITE packet is decided and added (R318–R328,
R555), and what a completed position delivers (R324, R335). -/

namespace Sys2Proof.Machine

/-- How the receiver answers a packet. -/
inductive Reply where
  | ack
  | rnr
  | nak (syndrome : Nat)
deriving DecidableEq, Repr

/-- AETH syndromes of the NAKs the spec names (R430–R433, R440): sequence error, invalid request, remote access
error, remote operational error. -/
def nakSequence : Nat := 0x60
def nakInvalid : Nat := 0x61
def nakAccess : Nat := 0x62
def nakOperation : Nat := 0x63

/-! Slots. -/

def State.slot (s : State) (p : Nat) : Slot := Table.get {} s.slots p

def State.setSlot (s : State) (p : Nat) (x : Slot) : State := { s with slots := Table.put s.slots p x }

/-- Every position of a context returns to FREE (R318). Positions that an abort frees add nothing to FSEM (R336; DESIGN CHOICE, log entry
133). -/
def State.freeSlots (s : State) (c : Nat) : State :=
  { s with slots := s.slots.filter (fun e => e.2.state == .free || e.2.ctx != c) }

/-- Positions a tile occupies: two for E5M2 (R313). -/
def slotWidth (fmt : Nat) : Nat := if fmt = 5 then 2 else 1

/-- NMAX, the largest output integer (R319). -/
def slotMax (fmt : Nat) : Nat := if fmt = 4 then 229376 else if fmt = 6 then 127 else 3758096384

/-! The comparison of R555. -/

inductive Age where
  | older | current | newer
deriving DecidableEq, Repr

/-- A packet's step and attempt against the steps the context holds (R555). -/
def Ctx.age (x : Ctx) (step att : Nat) : Age :=
  match x.step? step with
  | some h =>
    if h.settled then .older
    else if !h.opened then .newer
    else match (att + 4 - h.attempt % 4) % 4 with
      | 0 => .current
      | 1 => .newer
      | _ => .older
  | none =>
    if x.steps.any (fun h => step < h.desc.step) then .older
    else if x.steps.isEmpty && x.cmtSeen && step ≤ x.lastCmt then .older
    else .newer

/-! Adding a record. -/

/-- Bits of NET_XERR (R333). -/
def xMismatch : Nat := 31
def xExtra : Nat := 30
def xLimit : Nat := 29
def xRange : Nat := 28

def Ctx.setXerr (x : Ctx) (b : Nat) : Ctx := { x with xerr := x.xerr ||| 2 ^ b }

/-- EXTRA and LIMIT make the module's ballot carry SKIP with EXCH_ERROR, whatever reason it carried before (R325). -/
def Ctx.exchError (x : Ctx) (step b : Nat) : Ctx :=
  (x.setXerr b).modStep step (fun h => { h.setSkip 0xFFF1 with skipWhy := 0xFFF1, exchError := true })

def rowCodes (rec : List Byte) (b : Nat) : List Nat := ((rec.drop (32 * b)).take 32).map BitVec.toNat

/-- One row of a record (R319): its scale and finiteness, and whether the scale differs from the block's. -/
def addRow (fmt : Nat) (rec : List Byte) (acc : Slot × Bool) (b : Nat) : Slot × Bool :=
  let (x, mis) := acc
  let e := (rec.getD (1024 + b) 0).toNat
  if e = 0xFF || (rowCodes rec b).any (fun c => (elemInt fmt c).isNone) then ({ x with nonfin := insertNat b x.nonfin }, mis)
  else if !Table.has x.scales b then ({ x with scales := Table.put x.scales b e }, mis)
  else if Table.get 0 x.scales b ≠ e then ({ x with nonfin := insertNat b x.nonfin }, true)
  else (x, mis)

/-- Sums with the integers of a record added; a code that is not finite adds nothing. -/
def addSums (fmt : Nat) (sums : List Int) (rec : List Byte) : List Int :=
  let ns := (rec.take 1024).map (fun c => (elemInt fmt c.toNat).getD 0)
  if sums.isEmpty then ns else List.zipWith (· + ·) sums ns

/-- A record at a position that is bound and not complete: the slot, and whether its scales mismatch. `flag` makes
every row NONFIN (R319, R322). -/
def Slot.addRecord (x : Slot) (fmt : Nat) (flag : Bool) (rec : List Byte) : Slot × Bool :=
  let r := if flag then ({ x with nonfin := List.range 32 }, false) else (List.range 32).foldl (addRow fmt rec) (x, false)
  ({ r.1 with sums := addSums fmt r.1.sums rec, count := r.1.count + 1 }, r.2)

/-- Put a tile's slot, and the same binding and state in the second position of an E5M2 tile (R313, R318). -/
def State.putTileSlot (s : State) (p : Nat) (x : Slot) : State :=
  let s := s.setSlot p x
  if x.fmt = 5 then
    s.setSlot (p + 1) { state := x.state, ctx := x.ctx, step := x.step, att := x.att, tid := x.tid, fmt := x.fmt, second := true }
  else s

/-- One record of a CURRENT packet (phase 2 of R319). -/
def State.addAt (s : State) (c : Nat) (h : ReduceHdr) (p : Nat) (rec : List Byte) : State :=
  let tid := bits h.side 63 40
  let x := s.slot p
  if x.state = .complete then s.modCtx c (fun y => y.exchError h.step xExtra)
  else
    let s := if x.state = .free then s.putTileSlot p { state := .opened, ctx := c, step := h.step, att := h.att, tid := tid, fmt := h.fmt } else s
    let x := s.slot p
    let limit := h.fmt == 4 && 9362 < (s.ctx c).xcontrib
    let r := x.addRecord h.fmt (limit || x.fmt != h.fmt) rec
    let s := if limit then s.modCtx c (fun y => y.exchError h.step xLimit) else s
    let s := if r.2 then s.modCtx c (fun y => y.setXerr xMismatch) else s
    if r.1.count = (s.ctx c).xcontrib then
      { s with nextId := s.nextId + 1 }.putTileSlot p { r.1 with state := .complete, stamp := s.nextId }
    else s.putTileSlot p r.1

/-- Is a position bound to something else than the packet, or TAKEN (R319)? The second position of a tile is bound to that tile (log
entry 108). -/
def Slot.refuses (x : Slot) (c : Nat) (h : ReduceHdr) : Bool :=
  match x.state with
  | .free => false
  | .taken => true
  | _ => x.second || !(x.ctx == c && x.step == h.step && x.att == h.att && x.tid == bits h.side 63 40)

/-- Does position p refuse a record of the packet: by its own binding, or, where an E5M2 tile would be bound, by the second
position's (R313, R319; log entry 108)? -/
def State.refusesAt (s : State) (c : Nat) (h : ReduceHdr) (p : Nat) : Bool :=
  (s.slot p).refuses c h || (h.fmt == 5 && (s.slot p).state == .free && (s.slot (p + 1)).state != .free)

/-- A packet's side field enters the XMAX table of its step, and its LAST is counted (R319, R327). -/
def Ctx.noteSide (x : Ctx) (h : ReduceHdr) : Ctx :=
  let tid := bits h.side 63 40
  let amax : A40 := BitVec.ofNat 40 (bits h.side 39 0)
  let x := if h.last then x.modStep h.step (fun g => { g with lasts := g.lasts + 1 }) else x
  if x.tidBase ≤ tid && tid < x.tidBase + 4096 && !(ofA40 amax).isNan then
    x.modStep h.step (fun g =>
      let old := Table.get (0 : A40) g.xmax (tid - x.tidBase)
      if Val.lt (ofA40 old) (ofA40 amax) then { g with xmax := Table.put g.xmax (tid - x.tidBase) amax } else g)
  else x

/-- The positions of a packet's records (R442). -/
def positionsOf (h : ReduceHdr) (n : Nat) : List Nat := (List.range n).map (fun i => h.pos + slotWidth h.fmt * i)

/-- The owner's treatment of a REDUCE_WRITE packet (R319–R321). -/
def State.reducePacket (s : State) (c : Nat) (h : ReduceHdr) (recs : List (List Byte)) : State × Reply :=
  let x := s.ctx c
  let ps : List Nat := positionsOf h recs.length
  if ps.any (fun p => p < x.slotFirst || x.slotFirst + x.slotCount < p + slotWidth h.fmt) then
    let s := s.modCtx c (fun y => y.setXerr xRange)
    ({ s with group := { s.group with abortPending := insertNat x.gtag s.group.abortPending } }, .nak nakAccess)
  else match x.age h.step h.att with
    | .older => (s, .ack)
    | .newer => (s, .rnr)
    | .current =>
      if ps.any (s.refusesAt c h) then (s, .rnr)
      else
        let s := (List.zip ps recs).foldl (fun (s : State) (e : Nat × List Byte) => s.addAt c h e.1 e.2) s
        (s.modCtx c (fun y => y.noteSide h), .ack)

/-! Completion (R324, R335). -/

/-- A reduced block as the front delivers it: its elements, SAT, NONFIN and the next map byte. -/
structure BlockOut32 where
  elems  : List A40
  sat    : Bool
  nonfin : Bool
  next   : Nat
deriving DecidableEq, Repr

/-- The block in row b of a position, with the block's BOOST in the committed map (R324). -/
def Slot.block (x : Slot) (b boost : Nat) : BlockOut32 :=
  let nan40 := (toA40 .nan).1
  if x.nonfin.contains b then ⟨List.replicate 32 nan40, false, true, min (boost + 1) 3 + 8⟩
  else
    let ns := (List.range 32).map (fun k => x.sums.getD (32 * b + k) 0)
    let top := slotMax x.fmt
    let sat := ns.any (fun n => top < n.natAbs)
    let cl := ns.map (fun n => if top < n.natAbs then (if n < 0 then -(top : Int) else top) else n)
    let e := stepExp x.fmt + ((Table.get 0 x.scales b : Nat) : Int) - 127
    let elems := cl.map (fun n =>
      let r := toA40 (.fin (n < 0) n.natAbs e)
      if r.2 then nan40 else r.1)
    let small := cl.all (fun n => 4 * n.natAbs ≤ top)
    let next := if sat then min (boost + 1) 3 else if 0 < boost && small then boost - 1 else boost
    ⟨elems, sat, false, next + (if sat then 4 else 0)⟩

/-! When the exchange of a step has ended on this module. -/

/-- Is the XMAX table of a step final (R327)? -/
def State.xmaxFinal (s : State) (c : Nat) (h : HeldStep) : Bool :=
  let x := s.ctx c
  x.slotCount == 0 ||
    (x.xcontrib ≤ h.lasts &&
      s.slots.all (fun e => !(e.2.state == .opened && e.2.ctx == c && e.2.step == h.desc.step)))

/-- Has the EXCHANGE phase of a step ended (R330): every tile its armed descriptors expect has completed? -/
def State.exchangeEnded (s : State) (c : Nat) (h : HeldStep) : Bool :=
  s.xmaxFinal c h && (s.ctx c).shards.all (fun d => d.step != h.desc.step || d.nt ≤ d.fronted)

/-! REDW to the module itself (R312). -/

/-- The packets that are still to be taken. -/
def State.keepInner (s : State) (id n : Nat) (inner : List (Nat × ReduceHdr × List (List Byte))) : State :=
  { s with flights := s.flights.map (fun g => if g.id == id then { g with op := .redw n inner } else g) }

/-- The hub takes the internal packets of a REDW in order, by the rules of arriving ones (R312, R319–R321): one answered with RNR is
tried again at the next REDW_ACK, and a NAK ends the REDW as R224 gives, once FP2 runs (R451). -/
def innerGo (id n : Nat) : State → List (Nat × ReduceHdr × List (List Byte)) → State
  | s, [] => s.netAck id (fun o => match o with | .redw .. => true | _ => false)
  | s, (psn, h, recs) :: rest =>
    let r := s.reducePacket (s.qp (s.qp n).dqpn).ctx h recs
    match r.2 with
    | .ack => innerGo id n r.1 rest
    | .rnr => s.keepInner id n ((psn, h, recs) :: rest)
    | .nak syn =>
      if !s.up 2 then s.keepInner id n ((psn, h, recs) :: rest)
      else match (s.qp n).before psn with
        | some k => (r.1.rdmaException n syn psn).failFrom n false k
        | none => r.1

/-- Does the queue pair at the far end take REDUCE_WRITE (R440)? -/
def Qp.takesAgbel (q : Qp) : Bool := q.used && q.agbel && !q.ud && (q.state == 2 || q.state == 3)

/-- A REDW is acknowledged, or has come round inside the module (R228, R312). -/
def State.redwDone (s : State) (id : Nat) : State :=
  match s.flight? id with
    | some f =>
      match f.op with
      | .redw n (p :: ps) =>
        if (s.qp (s.qp n).dqpn).takesAgbel then innerGo id n s (p :: ps)
        else if s.up 2 then (s.failQp (s.qp n).dqpn false).failQp n false
        else s
      | _ => s.netAck id (fun o => match o with | .redw .. => true | _ => false)
    | none => s.acked (.flight id)

/-- REDW_ACK (R228, R312, R427). -/
def execRedwAck (id : Marked) (s : State) : Answer := .next ((s.heard (.flight id.val) id.ce).redwDone id.val)

end Sys2Proof.Machine
end

