-- ==== Sys2Proof/Machine/Mill.lean ====
section
/-! DEFINITION. The Mill (R335–R362): shard and rule descriptors, arming, the front, the stations, the layerwise
tail and the mirror. -/

namespace Sys2Proof.Machine

/-! HBM stacks (R399). -/

/-- The stack that holds an HBM address. -/
def State.stackOf (s : State) (a : Nat) : Nat :=
  let d := a / dieBytes % 2
  let o := a % dieBytes
  let lin := s.lin d
  if o < lin * 2 ^ 32 then 4 * d + o / (lin * 2 ^ 30) else 4 * d + a / 2 ^ 13 % 4

/-! Descriptors. -/

/-- A descriptor pointer as it stands: 64-byte aligned, in HBM. -/
def descOk (a : Nat) : Bool := a % 64 == 0 && inHbm a 64

def memNat (m : Memory) (a n : Nat) : Nat := leNat (Memory.readBytes m a n)

def memA40 (m : Memory) (a : Nat) : A40 := BitVec.ofNat 40 (memNat m a 5)

/-- The schedule entry of a step (R349). SCHED is taken as it stands: its alignment and place are not checked (log entry 121). -/
def schedEntry (m : Memory) (rule step : Nat) : Nat :=
  let base := memNat m (rule + 56) 8
  let len := max 1 (memNat m (rule + 43) 4)
  memNat m (rule + 48) 6 + 16 * (if step < base then 0 else min (step - base) (len - 1))

/-- A shard with its rule and its schedule entry, read at issue (R345, R346, R348, R349). -/
def readShard (m : Memory) (shard rule step : Nat) : Shard :=
  let flags := memNat m (shard + 41) 1
  let shape := memNat m (shard + 42) 5
  let r0 := memNat m rule 1
  let e := schedEntry m rule step
  { addr := shard, step := step
    state0 := memNat m shard 6, state1 := memNat m (shard + 8) 6
    map0 := memNat m (shard + 16) 6, map1 := memNat m (shard + 24) 6
    tidP := memNat m (shard + 32) 3, tidM1 := memNat m (shard + 35) 3, tidM2 := memNat m (shard + 38) 3
    m1 := flags.testBit 0, m2 := flags.testBit 1, res := flags.testBit 2, lw := flags.testBit 3
    fsv := flags.testBit 4, gsv := flags.testBit 5
    rows := max 1 (shape % 2 ^ 20), cols := max 1 (shape / 2 ^ 20 % 2 ^ 20)
    firstTile := memNat m (shard + 47) 4, nt := max 1 (memNat m (shard + 51) 3)
    pos := clampTo 0 6143 (memNat m (shard + 54) 2 % 2 ^ 13)
    npos := clampTo 1 6144 (memNat m (shard + 56) 2 % 2 ^ 13)
    fsem := memNat m (shard + 58) 3, gsem := memNat m (shard + 61) 3
    rule := min 3 (r0 % 16), fbrule := min 1 (r0 / 16 % 4)
    rcpP := memNat m (rule + 1) 1 % 16, rcpM1 := memNat m (rule + 2) 1 % 16, rcpM2 := memNat m (rule + 3) 1 % 16
    beta1 := memA40 m (rule + 8), beta2 := memA40 m (rule + 13), epsA := memA40 m (rule + 18)
    wd := memA40 m (rule + 28), gscale := memA40 m (rule + 33)
    lr := memA40 m e, c1 := memA40 m (e + 5), c2 := memA40 m (e + 10) }

/-- Tiles of the tensor (R61). -/
def Shard.tensorTiles (d : Shard) : Nat := ((d.rows + 31) / 32) * ((d.cols + 31) / 32)

/-- Bytes of a 16-bit tile record. -/
def rec16 : Nat := 2048

/-- Offsets of the regions of a state area (R347). -/
def Shard.offM1 (d : Shard) : Nat := rec16 * d.nt
def Shard.offM2 (d : Shard) : Nat := d.offM1 + (if d.m1 then rec16 * d.nt else 0)
def Shard.offRes (d : Shard) : Nat := d.offM2 + (if d.m2 then rec16 * d.nt else 0)
def Shard.offPre (d : Shard) : Nat := d.offRes + (if d.res then rec16 * d.nt else 0)
def Shard.preA (d : Shard) : Nat := ((d.rows + 31) / 32) * ((d.rows + 31) / 32)
def Shard.preB (d : Shard) : Nat := ((d.cols + 31) / 32) * ((d.cols + 31) / 32)
/-- Bytes of the preconditioner's four regions, without the header. -/
def Shard.preBytes (d : Shard) : Nat := 2 * rec16 * (d.preA + d.preB)
def Shard.areaBytes (d : Shard) : Nat := d.offPre + (if d.rule = 3 then d.preBytes + 64 else 0)

/-- The committed and the next state area, and the map areas, under a generation bit (R340). -/
def Shard.stateOf (d : Shard) (g : Nat) : Nat := if g = 0 then d.state0 else d.state1
def Shard.mapOf (d : Shard) (g : Nat) : Nat := if g = 0 then d.map0 else d.map1

/-- Does a range lie in HBM, all of it in stack k? -/
def State.inStack (s : State) (k a len : Nat) : Bool := inHbm a len && s.stackOf a == k && s.stackOf (a + len - 1) == k

/-- Does every tile lie in one stack, with all its records and map bytes (R337, R400)? -/
def State.placed (s : State) (d : Shard) : Bool :=
  let offs := [0] ++ (if d.m1 then [d.offM1] else []) ++ (if d.m2 then [d.offM2] else []) ++ (if d.res then [d.offRes] else [])
  (List.range d.nt).all (fun t =>
    let k := s.stackOf (d.state0 + rec16 * t)
    offs.all (fun o => s.inStack k (d.state0 + o + rec16 * t) rec16 && s.inStack k (d.state1 + o + rec16 * t) rec16) &&
      s.inStack k (d.map0 + 32 * t) 32 && s.inStack k (d.map1 + 32 * t) 32)

/-- Are the tensor addresses of a descriptor 64-byte aligned (R63)? -/
def Shard.aligned (d : Shard) : Bool := d.state0 % 64 == 0 && d.state1 % 64 == 0

/-- Does a range lie in the mirrored range (R357)? -/
def Ctx.mirrored (x : Ctx) (a len : Nat) : Bool := x.mirBase ≤ a && a + len ≤ x.mirBase + x.mirSize

/-- Would every write of the shard be mirrored, when the context mirrors at all? -/
def Ctx.mirrorsShard (x : Ctx) (d : Shard) : Bool :=
  !x.twinEn || (x.mirrored (d.stateOf (1 - x.genState)) d.areaBytes && x.mirrored (d.mapOf (1 - x.genMap)) (32 * d.nt))

/-- Do two ranges of numbers overlap? -/
def rangesMeet (a n b m : Nat) : Bool := a < b + m && b < a + n

/-- Do two descriptors armed for one step conflict (R556)? -/
def Shard.conflicts (d e : Shard) : Bool :=
  d.step == e.step && (d.addr == e.addr || rangesMeet d.pos d.npos e.pos e.npos ||
    (d.tidP == e.tidP && rangesMeet d.firstTile d.nt e.firstTile e.nt))

/-- What a shard with LW must satisfy (R353). -/
def Shard.lwOk (d : Shard) : Bool := !d.lw || (d.firstTile == 0 && d.nt == d.tensorTiles && d.m1)

/-! Writes and their mirror (R357). -/

/-- Mirror bytes just written, or about to be needed by the twin. A queue pair that cannot send leaves the write
unacknowledged and its twin reported (R561). -/
def State.mirror (s : State) (c step a len : Nat) : State :=
  let x := s.ctx c
  if !x.twinEn then s
  else
    let id := s.nextId
    let q := s.qp x.twinQpn
    let mw : MirrorWrite := ⟨id, step⟩
    let s := { s with nextId := id + 1 }.modCtx c (fun x => { x with mirrors := x.mirrors ++ [mw] })
    if q.sends c then
      s.post x.twinQpn (.mirror c id) (q.packets len) true (fun p => .rdmaWrite x.twinQpn p (q.rwinBase + (a - x.mirBase)) a len none)
    else (s.modCtx c (fun x => { x with unsent := true })).askReport (s.peerOf x.twinQpn) whyRetry

/-- Write bytes of the next generation and mirror them. -/
def State.millWrite (s : State) (c step a : Nat) (bs : List Byte) : State :=
  { s with mem := Memory.writeBytes s.mem a bs }.mirror c step a bs.length

/-! UPEL. -/

/-- Have all earlier steps of the context flipped (R339)? Until then which generation is the next one is not known. -/
def Ctx.flippedBefore (x : Ctx) (step : Nat) : Bool := x.steps.all (fun h => step ≤ h.desc.step || h.settled)

/-- The armed shard of an address and a step, changed. -/
def Ctx.modShard (x : Ctx) (step addr : Nat) (f : Shard → Shard) : Ctx :=
  { x with shards := x.shards.map (fun d => if d.step == step && d.addr == addr then f d else d) }

/-- Would the residual region's mirror be sent now (R358): the generation is known, and the queue pair sends? -/
def State.sendsRes (s : State) (c step : Nat) : Bool := (s.ctx c).flippedBefore step && (s.qp (s.ctx c).twinQpn).sends c

/-- Mirror the residual region of an armed shard, if it has one and its generation is known (R358). -/
def State.mirrorRes (s : State) (c : Nat) (d : Shard) : State :=
  let x := s.ctx c
  if !d.res || !x.twinEn || d.resSent || !x.flippedBefore d.step then s
  else
    let sent := s.sendsRes c d.step
    (s.mirror c d.step (d.stateOf (1 - x.genState) + d.offRes) (rec16 * d.nt)).modCtx c
      (fun x => x.modShard d.step d.addr (fun d => { d with resSent := sent }))

/-- What UPEL and UPLW read: their registers, the two descriptors and the schedule entry (R150, R345). -/
def millReads (m : Memory) (rule shard step : Nat) : List Res := [memRes rule 64, memRes shard 64, memRes (schedEntry m rule step) 16]

/-- UPEL (R233, R345, R353, R356–R358, R463, R556). -/
def execUpel (c : CroftId) (t : Strm) (w : BitVec 128) (s : State) : Answer :=
  let y := s.strm c t
  let rule := (y.preg (gSrcB w)).toNat
  let shard := (y.preg (gSrcC w)).toNat
  let n : Need := { reads := sRes (gSrcA w) ++ pRes (gSrcB w) ++ pRes (gSrcC w) ++
                      millReads s.mem rule shard (y.sreg (gSrcA w)).toNat, units := [.mill] }
  updateForm false c t w n (fun step _ s =>
    let x := s.ctx s.resident
    let d := readShard s.mem shard rule step
    if !descOk rule || !descOk shard then s.faultAt c t stAddress
    else if (d.lw && !x.feat 2) || !d.lwOk || x.shards.any d.conflicts then s.faultAt c t stOperand
    else if !d.aligned || !s.placed d || (x.flippedBefore step && !x.mirrorsShard d) then s.faultAt c t stAddress
    else
      let ctx := s.resident
      let s := (s.issue c t 16 n (.upel step shard) (gDoneSem w) (gDoneAdd w) none false).modCtx ctx
        (fun x => { x with shards := x.shards ++ [d] })
      s.mirrorRes ctx d) s

/-- The armed shard of an address and a step. -/
def Ctx.shard? (x : Ctx) (step addr : Nat) : Option Shard := x.shards.find? (fun d => d.step == step && d.addr == addr)

/-! The front. -/

/-- The armed shard that covers a position's binding (R335). -/
def Ctx.covering (x : Ctx) (p : Nat) (sl : Slot) : Option Shard :=
  x.shards.find? (fun d => d.step == sl.step && d.tidP == sl.tid && d.pos ≤ p && p < d.pos + d.npos)

/-- The tile a position's next completion carries (R336). What the formula does not cover for an E5M2 exchange is rounded down: NPOS 1, an
odd offset from POS, and the last position of an odd NPOS (log entry 122). -/
def Shard.tileAt (d : Shard) (p fmt : Nat) : Nat :=
  let w := slotWidth fmt
  let per := max 1 (d.npos / w)
  Table.get 0 d.binds p * per + (p - d.pos) / w

/-- A tile's positions return to FREE, and FSEM counts each (R336). -/
def State.releasePos (s : State) (c : Nat) (d : Shard) (p : Nat) : State :=
  let fmt := (s.slot p).fmt
  let s := s.setSlot p {}
  let s := if fmt = 5 then s.setSlot (p + 1) {} else s
  if d.fsv then s.change c d.fsem (slotWidth fmt) none else s

/-- Is it a UPEL or UPLW of a shard and step? -/
def FlightOp.ofShard (step addr : Nat) : FlightOp → Bool
  | .upel n a => n == step && a == addr
  | .uplw d _ _ => d.step == step && d.addr == addr
  | _ => false

/-- The UPEL of an armed shard that would write outside the mirrored range faults before anything is written, and is disarmed; a UPLW
that waits for it faults with it (R357). -/
def State.faultUpel (s : State) (c : Nat) (d : Shard) : State :=
  let s := s.modCtx c (fun x => { x with shards := x.shards.filter (fun e => !(e.step == d.step && e.addr == d.addr)) })
  (s.flights.filter (fun f => f.ctx == c && f.op.ofShard d.step d.addr)).foldl (fun s f => s.faultFlight f stAddress) s

/-- The front delivers a tile: map bytes, XSTAT counts, and the tile to its station (R324, R337, R339). -/
def State.deliver (s : State) (c : Nat) (d : Shard) (p t : Nat) : State :=
  let x := s.ctx c
  let sl := s.slot p
  let boosts := (Memory.readBytes s.mem (d.mapOf x.genMap + 32 * t) 32).map (fun b => b.toNat % 4)
  let bs := (List.range 32).map (fun b => sl.block b (boosts.getD b 0))
  let a := d.mapOf (1 - x.genMap) + 32 * t
  let s := s.millWrite c d.step a (bs.map (fun b => BitVec.ofNat 8 b.next))
  let sats := (bs.filter (·.sat)).length
  let nons := (bs.filter (·.nonfin)).length
  let s := s.modCtx c (fun x =>
    (x.modShard d.step d.addr (fun d => { d with binds := Table.put d.binds p (Table.get 0 d.binds p + 1), fronted := d.fronted + 1 })).modStep
      d.step (fun h => { h with satBlocks := h.satBlocks + sats, nonfinBlocks := h.nonfinBlocks + nons, mapsKept := false }))
  let s := s.putTileSlot p { sl with state := .taken }
  let k := s.stackOf (d.stateOf (1 - x.genState) + rec16 * t)
  let job : StationJob := ⟨c, d.step, d, t, p, bs.flatMap (·.elems)⟩
  { s with stations := Table.put s.stations k (Table.get [] s.stations k ++ [job]) }

/-- May the front take this position now: complete, the first one of its tile, covered by an armed shard, and of a step whose
predecessors have flipped (R335, R339)? -/
def State.takeable (s : State) (sl : Slot) (p : Nat) : Bool :=
  let x := s.ctx sl.ctx
  sl.state == .complete && !sl.second && x.flippedBefore sl.step && (x.covering p sl).isSome

/-- Is it the one that completed first of those (R339)? -/
def State.nextTile (s : State) (p : Nat) : Bool :=
  s.takeable (s.slot p) p && s.slots.all (fun e => !s.takeable e.2 e.1 || (s.slot p).stamp ≤ e.2.stamp)

/-- FRONT_HANDOVER: tiles go to their stations in the order their positions completed, once the steps before have flipped; a binding
past the shard's last tile is discarded with EXTRA (R335, R336, R339). -/
def execFrontHandover (pos : Nat) (s : State) : Answer :=
  .next (
    let sl := s.slot pos
    if !s.nextTile pos then s
    else match (s.ctx sl.ctx).covering pos sl with
      | none => s
      | some d =>
        let t := d.tileAt pos sl.fmt
        if t < d.nt then
          if (s.ctx sl.ctx).mirrorsShard d then s.deliver sl.ctx d pos t else s.faultUpel sl.ctx d
        else
          let s := s.modCtx sl.ctx (fun x =>
            (x.modShard d.step d.addr (fun d => { d with binds := Table.put d.binds pos (Table.get 0 d.binds pos + 1) })).exchError
              d.step xExtra)
          s.releasePos sl.ctx d pos)

/-! Stations (R350, R351). -/

def roundA (v : Val) : A40 := (toA40 v).1
def addA (a b : A40) : A40 := roundA (Val.add (ofA40 a) (ofA40 b))
def subA (a b : A40) : A40 := roundA (Val.add (ofA40 a) (Val.neg (ofA40 b)))
def mulA (a b : A40) : A40 := roundA (Val.mul (ofA40 a) (ofA40 b))
/-- Division: by ±0 the largest finite value, or NaN for 0 ÷ 0 (R560). -/
def divA (a b : A40) : A40 := roundA (Val.div (ofA40 a) (ofA40 b))
def sqrtA (a : A40) : A40 := roundA (Val.sqrt (ofA40 a))
def oneA : A40 := roundA (.fin false 1 0)

/-- The moments and the direction of an element (R350): m, v and d from the reduced g and the committed moments. -/
def Shard.moments (d : Shard) (g m0 v0 : A40) : A40 × A40 × A40 :=
  let v := addA (mulA d.beta2 v0) (mulA (subA oneA d.beta2) (mulA g g))
  if d.rule = 1 ∧ d.m1 ∧ d.m2 then
    let m := addA (mulA d.beta1 m0) (mulA (subA oneA d.beta1) g)
    (m, v, divA (mulA m d.c1) (addA (sqrtA (mulA v d.c2)) d.epsA))
  else
    let m := if d.m1 then addA (mulA d.beta1 m0) g else g
    (m, v, m)

/-- p := p_c − η × (d + WD × p_c). -/
def Shard.param (d : Shard) (p0 dir : A40) : A40 := subA p0 (mulA d.lr (addA dir (mulA d.wd p0)))

/-- The 16-bit format of an entry for the Mill (R351): BF16 for FMT 0–8, FP16 for 9. -/
def Recipe.millFmt (r : Recipe) : Nat := if r.fmt ≤ 8 then 8 else 9

/-- The element of a shard tile: its row and column in the tensor. -/
def Shard.coord (d : Shard) (t k : Nat) : Nat × Nat :=
  let ct := (d.cols + 31) / 32
  let r := d.firstTile + t
  (32 * (r / ct) + k / 32, 32 * (r % ct) + k % 32)

/-- The code a value is stored as (R92–R95, R351). -/
def millCode (r : Recipe) (seed : Word) (step tid index : Nat) (a : A40) : Nat :=
  let mode : Round := match r.round with
    | 0 => .rne
    | 1 => .sr (drawU seed step tid index)
    | 2 => .rtz
    | _ => .sat
  (encode r.millFmt mode (ofA40 a)).1

/-- A tile of one region: codes of the values inside the tensor, +0 outside it (R351). -/
def Shard.pack (d : Shard) (r : Recipe) (seed : Word) (tid t : Nat) (vals : List A40) : List Byte :=
  let cs := (List.range 1024).map (fun k =>
    let ij := d.coord t k
    if ij.1 < d.rows ∧ ij.2 < d.cols then millCode r seed d.step tid (ij.1 * d.cols + ij.2) (vals.getD k 0) else 0)
  packRecord r.millFmt cs []

/-- A stored 16-bit tile, widened to A40 (R560). -/
def widenTile (m : Memory) (fmt a : Nat) : List A40 :=
  ((tileVals fmt 0 (Memory.readBytes m a rec16)).map roundA)

/-- The rule applied to a tile whose g holds no NaN: what is written where in the next generation (R350, R351). -/
def State.ruleWrites (s : State) (c : Nat) (h : HeldStep) (d : Shard) (t : Nat) (gs : List A40) : List (Nat × List Byte) :=
  let x := s.ctx c
  let old := d.stateOf x.genState
  let new := d.stateOf (1 - x.genState)
  let rp := h.recipe d.rcpP
  let r1 := h.recipe d.rcpM1
  let r2 := h.recipe d.rcpM2
  let m0 := if d.m1 then widenTile s.mem r1.millFmt (old + d.offM1 + rec16 * t) else []
  let v0 := if d.m2 then widenTile s.mem r2.millFmt (old + d.offM2 + rec16 * t) else []
  let p0 := widenTile s.mem rp.millFmt (old + rec16 * t)
  let out := (List.range 1024).map (fun k => d.moments (gs.getD k 0) (m0.getD k 0) (v0.getD k 0))
  let ps := (List.range 1024).map (fun k => d.param (p0.getD k 0) (out.getD k (0, 0, 0)).2.2)
  (if d.m1 then [(new + d.offM1 + rec16 * t, d.pack r1 x.seed d.tidM1 t (out.map (·.1)))] else []) ++
  (if d.m2 then [(new + d.offM2 + rec16 * t, d.pack r2 x.seed d.tidM2 t (out.map (·.2.1)))] else []) ++
  (if d.rule ≤ 1 ∧ !d.lw then [(new + rec16 * t, d.pack rp x.seed d.tidP t ps)] else [])

/-- What a station does with a tile (R235, R350–R353): it applies the rule, and writes and mirrors the next generation; a NaN marks
the step, and from then on no state is written. A tile of a step that is settled, or whose shard is disarmed, changes nothing. -/
def State.stationWork (s : State) (j : StationJob) : State :=
  match (s.ctx j.ctx).shard? j.step j.shard.addr, (s.ctx j.ctx).step? j.step with
  | some d, some h =>
    let gs := j.elems.map (fun g => mulA g d.gscale)
    let bad := gs.any (fun g => (ofA40 g).isNan)
    let s := if bad then s.modCtx j.ctx (fun x => x.modStep j.step (fun h => { h.setSkip 0xFFF0 with nan := true })) else s
    let s := if bad || h.nan then s
      else (s.ruleWrites j.ctx h d j.tile gs).foldl (fun s p => s.millWrite j.ctx j.step p.1 p.2) s
    let s := s.modCtx j.ctx (fun x => x.modShard j.step d.addr (fun d => { d with written := d.written + 1 }))
    if d.lw ∧ d.gsv ∧ d.written + 1 = d.nt ∧ !(bad || h.nan) then s.change j.ctx d.gsem 1 none else s
  | _, _ => s

/-- The position of a tile that a station held is free again, unless an abort has freed it before (R318, R336). -/
def State.leavePos (s : State) (j : StationJob) : State :=
  let sl := s.slot j.pos
  if sl.state == .taken && sl.ctx == j.ctx && sl.step == j.step && sl.tid == j.shard.tidP then s.releasePos j.ctx j.shard j.pos else s

/-- STATION_TILE_DONE: a station has worked on the tile it holds, and the tile's positions are free again (R235, R336). -/
def execStationTileDone (stack : Fin 8) (s : State) : Answer :=
  .next (match Table.get [] s.stations stack with
    | [] => s
    | j :: js => (({ s with stations := Table.put s.stations stack js }).stationWork j).leavePos j)

/-- At an abort the stations finish the tiles of the aborted attempts that they hold, and drop the others (R342). -/
def State.clearStations (s : State) (c : Nat) (keep : Nat → Bool) : State :=
  let gone := fun j : StationJob => j.ctx == c && !keep j.step
  let held := s.stations.filterMap (fun e => e.2.head?)
  let s := { s with stations := s.stations.map (fun e => (e.1, e.2.filter (fun j => !gone j))) }
  (held.filter gone).foldl State.stationWork s

/-- Is the work of UPEL on a shard done (R233, R352)? -/
def Shard.done (d : Shard) (nan : Bool) : Bool := d.nt ≤ (if nan then d.fronted else d.written)

/-- May the UPEL of a shard complete (R233, R352, R358): its tiles are done, and its residual region's mirror is sent, or is sent
now? -/
def State.upelReady (s : State) (c : Nat) (d : Shard) (nan : Bool) : Bool :=
  d.done nan && (!d.res || !(s.ctx c).twinEn || d.resSent || s.sendsRes c d.step)

/-- UPEL_COMPLETE (R233, R352, R358). -/
def execUpelComplete (id : Nat) (s : State) : Answer :=
  .next (match s.flight? id with
    | some f =>
      match f.op with
      | .upel step addr =>
        (match (s.ctx f.ctx).shard? step addr, (s.ctx f.ctx).step? step with
        | some d, some h =>
          if s.upelReady f.ctx d h.nan then
            ((s.mirrorRes f.ctx d).modCtx f.ctx (fun x => x.modShard step addr (fun d => { d with upelDone := true }))).complete f
              (if h.nan then stNumeric else stOk)
          else s
        | _, _ => s)
      | _ => s
    | none => s)

/-! UPLW (R234, R353–R356). -/

/-- Bytes of a layerwise result (R354). -/
def Shard.resultBytes (d : Shard) : Nat := rec16 * d.nt + (if d.rule = 3 then d.preBytes else 0)

/-- Has another UPLW been issued for the shard and step? -/
def State.uplwSeen (s : State) (c step addr : Nat) : Bool :=
  s.flights.any (fun f => f.ctx == c && (match f.op with | .uplw d _ _ => d.step == step && d.addr == addr | _ => false)) ||
  (s.ctx c).shards.any (fun d => d.step == step && d.addr == addr && d.uplwDone)

/-- UPLW: a shard without LW has no layerwise rule (R353). -/
def execUplw (c : CroftId) (t : Strm) (w : BitVec 128) (s : State) : Answer :=
  let y := s.strm c t
  let shard := (y.preg (gDst w)).toNat
  let rule := (y.preg (gSrcB w)).toNat
  let result := (y.preg (gSrcC w)).toNat
  let step := (y.sreg (gSrcA w)).toNat
  let n : Need :=
    { reads := sRes (gSrcA w) ++ pRes (gDst w) ++ pRes (gSrcB w) ++ pRes (gSrcC w) ++ millReads s.mem rule shard step ++
        [memRes result (readShard s.mem shard rule step).resultBytes]
      units := [.mill] }
  updateForm false c t w n (fun step _ s =>
    let x := s.ctx s.resident
    let d := readShard s.mem shard rule step
    if !descOk rule || !descOk shard || !descOk result || !inHbm result d.resultBytes then s.faultAt c t stAddress
    else if !d.lw || !x.feat 2 || !d.lwOk || s.uplwSeen s.resident step shard then s.faultAt c t stOperand
    else if !d.aligned || (x.flippedBefore step && !x.mirrorsShard d) then s.faultAt c t stAddress
    else s.issue c t 16 n (.uplw d result (min 2 (bits w 41 40))) (gDoneSem w) (gDoneAdd w) none false) s

/-- Are all values of BF16 tile records finite? -/
def finiteTiles (m : Memory) (a n : Nat) : Bool :=
  (List.range n).all (fun t => (tileVals 8 0 (Memory.readBytes m (a + rec16 * t) rec16)).all Val.isFinite)

/-- Which row of R355 a UPLW takes: the kernel's result, the result with the committed preconditioner, or the
elementwise fall-back. A shard whose RULE is MOMENTUM or ADAPTIVE takes the rows of ORTHO (log entry 123). -/
inductive TailRow where
  | fresh | kept | fallback
deriving DecidableEq, Repr

def State.tailRow (s : State) (c : Nat) (d : Shard) (result outcome : Nat) : TailRow :=
  let x := s.ctx c
  let oFin := finiteTiles s.mem result d.nt
  let allFin := oFin && (d.rule != 3 || finiteTiles s.mem (result + rec16 * d.nt) (d.preBytes / rec16))
  let valid := (memNat s.mem (d.stateOf x.genState + d.offPre + d.preBytes) 1) % 2 = 1
  if outcome = 0 ∧ allFin then .fresh
  else if d.rule = 3 ∧ outcome ≤ 1 ∧ valid ∧ oFin then .kept
  else .fallback

/-- The direction of a fall-back from the next-generation moments (R355). -/
def Shard.fallbackDir (d : Shard) (m v : A40) : A40 :=
  if d.fbrule = 1 ∧ d.m2 then divA (mulA m d.c1) (addA (sqrtA (mulA v d.c2)) d.epsA) else m

/-- The tail's parameter tile t (R355). -/
def State.tailTile (s : State) (c : Nat) (h : HeldStep) (d : Shard) (result : Nat) (row : TailRow) (t : Nat) : Nat × List Byte :=
  let x := s.ctx c
  let new := d.stateOf (1 - x.genState)
  let rp := h.recipe d.rcpP
  let p0 := widenTile s.mem rp.millFmt (d.stateOf x.genState + rec16 * t)
  let dirs := match row with
    | .fallback =>
      let ms := widenTile s.mem (h.recipe d.rcpM1).millFmt (new + d.offM1 + rec16 * t)
      let vs := if d.m2 then widenTile s.mem (h.recipe d.rcpM2).millFmt (new + d.offM2 + rec16 * t) else []
      (List.range 1024).map (fun k => d.fallbackDir (ms.getD k 0) (vs.getD k 0))
    | _ => widenTile s.mem 8 (result + rec16 * t)
  (new + rec16 * t, d.pack rp x.seed d.tidP t ((List.range 1024).map (fun k => d.param (p0.getD k 0) (dirs.getD k 0))))

/-- The preconditioner state written to the next generation (R355): the kernel's with ROOTVALID, or the committed one. -/
def State.tailPre (s : State) (c : Nat) (d : Shard) (result : Nat) (row : TailRow) : List (Nat × List Byte) :=
  let x := s.ctx c
  let new := d.stateOf (1 - x.genState) + d.offPre
  let old := d.stateOf x.genState + d.offPre
  if d.rule ≠ 3 then []
  else if row = .fresh then
    [(new, Memory.readBytes s.mem (result + rec16 * d.nt) d.preBytes), (new + d.preBytes, leBytes 64 1)]
  else [(new, Memory.readBytes s.mem old (d.preBytes + 64))]

/-- UPLW_COMPLETE: the tail runs once the UPEL of the shard has completed (R353, R355, R356); one that would write outside the mirrored
range faults as soon as its generation is known (R357). -/
def execUplwComplete (id : Nat) (s : State) : Answer :=
  .next (match s.flight? id with
    | some f =>
      match f.op with
      | .uplw d result outcome =>
        if (s.ctx f.ctx).flippedBefore d.step && !(s.ctx f.ctx).mirrorsShard d then s.faultFlight f stAddress
        else (match (s.ctx f.ctx).shard? d.step d.addr, (s.ctx f.ctx).step? d.step with
        | some armed, some h =>
          if !armed.upelDone then s
          else
            let mark := fun (s : State) => s.modCtx f.ctx (fun x => x.modShard d.step d.addr (fun e => { e with uplwDone := true }))
            if h.nan then (mark s).complete f stNumeric
            else
              let row := s.tailRow f.ctx d result outcome
              let ws := (List.range d.nt).map (s.tailTile f.ctx h d result row) ++ s.tailPre f.ctx d result row
              let s := ws.foldl (fun s p => s.millWrite f.ctx d.step p.1 p.2) s
              let s := s.modCtx f.ctx (fun x => x.modStep d.step (fun h =>
                match row with
                | .fresh => h
                | .kept => { h with fallbacks := h.fallbacks ++ [(d.addr, true)] }
                | .fallback => { h with fallbacks := h.fallbacks ++ [(d.addr, false)] }))
              (mark s).complete f stOk
        | _, _ => s)
      | _ => s
    | none => s)

/-! The end of UPDATE (R236). -/

/-- Is an UPEL or UPLW of a step in flight? -/
def FlightOp.updates (step : Nat) : FlightOp → Bool
  | .upel n _ => n == step
  | .uplw d _ _ => d.step == step
  | _ => false

/-- Has the Mill's work of a step ended: its UPCMTs are recorded, and no UPEL or UPLW of it is in flight? -/
def State.millEnded (s : State) (c : Nat) (h : HeldStep) : Bool :=
  h.desc.upcmts ≤ h.upcmts && s.flights.all (fun f => !(f.ctx == c && f.op.updates h.desc.step))

/-- Has the module's UPDATE phase of a step ended (R236, R360)? A step with EXCH_ERROR first has its maps kept (R325, R361). -/
def State.updateEnded (s : State) (c : Nat) (h : HeldStep) : Bool :=
  s.millEnded c h && (s.ctx c).mirrors.all (fun m => m.step != h.desc.step) && !h.netLost && (!h.exchError || h.mapsKept)

/-- MIRROR_ACK: the twin acknowledges a mirror write of the Mill, the numerics mirror, or a copy of R389 order 6 (R236, R357, R387). -/
def execMirrorAck (id : Marked) (s : State) : Answer :=
  .next (s.contexts.foldl (fun s c =>
    let n := id.val
    let s := ((s.heard (.copy c n) id.ce).heard (.numerics c n) id.ce).heard (.mirror c n) id.ce
    let s := ((s.acked (.copy c n)).acked (.numerics c n)).acked (.mirror c n)
    if (s.ctx c).mirrors.any (fun m => m.id == n) then
      s.modCtx c (fun x => { x with mirrors := x.mirrors.filter (fun m => m.id != n) })
    else s) s)

/-- On a step with EXCH_ERROR the committed map bytes go unchanged into the next generation, and to the twin (R325, R357). -/
def State.keepMaps (s : State) (c step : Nat) : State :=
  let x := s.ctx c
  (x.shards.filter (fun d => d.step == step)).foldl (fun s d =>
    s.millWrite c step (d.mapOf (1 - x.genMap)) (Memory.readBytes s.mem (d.mapOf x.genMap) (32 * d.nt))) s

end Sys2Proof.Machine
end

