-- ==== Sys2Proof/Machine/Ledger.lean ====
section
/-! DEFINITION. The Ledger (R363–R391): opening entries, ballots and their merge, decisions, aborts, the flip of a
commit, parking and resuming. -/

namespace Sys2Proof.Machine

/-! The vote tree (R371). -/

/-- Active device IDs in ascending order; a module that knows of no group is alone (log entry 16). -/
def State.members (s : State) : List Nat := if s.group.active.isEmpty then [s.devid] else sortNat s.group.active

def rankIn? (dev : Nat) : List Nat → Nat → Option Nat
  | [], _ => none
  | d :: ds, k => if d = dev then some k else rankIn? dev ds (k + 1)

def State.rank? (s : State) (dev : Nat) : Option Nat := rankIn? dev s.members 0

def State.atRank (s : State) (k : Nat) : Option Nat := s.members[k]?

/-- Most children of a rank. -/
def treeWidth : Nat := 32

def State.isCoordinator (s : State) : Bool := s.rank? s.devid == some 0
def State.isDeputy (s : State) : Bool := s.rank? s.devid == some 1
def State.coordinator (s : State) : Nat := (s.atRank 0).getD s.devid
def State.deputy (s : State) : Option Nat := s.atRank 1

def State.parent (s : State) : Option Nat :=
  match s.rank? s.devid with
  | some (k + 1) => s.atRank (k / treeWidth)
  | _ => none

def State.children (s : State) : List Nat :=
  match s.rank? s.devid with
  | some k => (List.range treeWidth).filterMap (fun i => s.atRank (treeWidth * k + i + 1))
  | none => []

/-- Send a message to every child. -/
def State.sendDown (s : State) (gtag : Nat) (m : Msg) : State := s.children.foldl (fun s d => s.sendMsg gtag d m) s

def State.modGroup (s : State) (f : Group → Group) : State := { s with group := f s.group }

/-- A message from the vote-tree parent; a coordinator listens to its deputy instead (R381). -/
def State.hearParent (s : State) : State := s.modGroup (fun g => { g with parentSilent := 0 })

/-- Contexts that carry a group tag. -/
def State.tagged (s : State) (gtag : Nat) : List Nat := s.contexts.filter (fun c => (s.ctx c).gtag == gtag)

/-! Opening entries (R364). -/

/-- May the entry of a PREPARED step open at this Bell? -/
def Ctx.mayOpen (x : Ctx) (h : HeldStep) : Bool :=
  let n := h.desc.step
  let first := x.first.getD n
  !h.opened && h.state == .prepared && !x.parked && x.ses.state != .detached && x.ses.state != .releasing &&
  (n == first || (match x.newest with | some m => n ≤ m + 1 | none => false)) &&
  (n < first + x.depth || (x.cmtSeen && n ≤ x.lastCmt + x.depth)) &&
  (!x.twinEn || h.twinAck)

/-- Open one entry: RUNNING, with what FP5 forms (R364); the instruction buffers of the context are discarded (R293). -/
def State.openEntry (s : State) (c step : Nat) : State :=
  let s := s.mapCrofts c (fun x => x.mapStrms (fun y => { y with windows := [] }))
  (s.modCtx c (fun x => x.modStep step (fun h => { h with opened := true, state := .running }))).openNumerics c step

/-- Open every entry of a context that may open, in step order. -/
def State.openEntries (s : State) (c : Nat) : State :=
  ((s.ctx c).steps.map (·.desc.step)).foldl (fun s n =>
    match (s.ctx c).step? n with
    | some h => if (s.ctx c).mayOpen h then s.openEntry c n else s
    | none => s) s

/-! Aborts (R157, R318, R342, R363, R365, R383). -/

/-- Has the group decided that a step commits (R374)? -/
def Ctx.decided (x : Ctx) (n : Nat) : Bool := x.flips.any (fun d => d.step == n)

/-- A step under an abort: a PREPARED one only changes its attempt number. -/
def HeldStep.abort (h : HeldStep) : HeldStep :=
  { h with
    attempt := (h.attempt + 1) % 4, tries := h.tries + 1
    state := if h.opened then .aborted else h.state
    ballots := 0, upcmts := 0, skip := false, skipWhy := 0, outcome := 0, evaluated := false
    xmax := [], lasts := 0, records := [], merged := none, voters := [], fallbacks := []
    satBlocks := 0, nonfinBlocks := 0, exchError := false, nan := false, netLost := false, lostAsked := false, mapsKept := false }

/-- A step's numerics go back to stage FRESH (R303). -/
def HeldStep.fresh (h : HeldStep) : HeldStep :=
  { h with stage := .fresh, flagged := [], climb := [], rescaled := false, top := false, attRungs := h.rungs }

/-- Statistics accumulators and Comet queues are cleared (R383). -/
def Croft.clearStats (x : Croft) : Croft :=
  { x with stats := [], arrays := x.arrays.map (fun (e : Nat × ArrayState) => (e.1, { e.2 with comet := [] })) }

/-- Apply an abort to a context: its instructions and streams end, its positions are free, its armed descriptors
are disarmed, its statistics accumulators and Comet queues are empty, every XMAX table of it is at +0 (R327), its uncommitted steps
are ABORTED. A step whose commit has been decided is not aborted (R374). -/
def State.abortCtx (s : State) (c : Nat) : State :=
  let keep := fun (x : Ctx) (n : Nat) => x.decided n || x.steps.any (fun h => h.desc.step == n && h.settled)
  let s := ((s.stopStreams c stAborted).clearStations c (keep (s.ctx c))).freeSlots c
  let s := s.mapCrofts c Croft.clearStats
  s.modCtx c (fun x => { x with
    steps := x.steps.map (fun (h : HeldStep) => if h.settled || x.decided h.desc.step then { h with xmax := [] } else h.abort)
    shards := x.shards.filter (fun d => keep x d.step)
    mirrors := x.mirrors.filter (fun m => keep x m.step) })

/-- Count an abort decision, saturating (R368). -/
def Ctx.countAbort (x : Ctx) : Ctx := { x with aborts := min 65535 (x.aborts + 1) }

/-- Does an opened step of the context run, not aborted already and not decided? -/
def Ctx.running (x : Ctx) : Bool := x.steps.any (fun h => h.opened && !h.settled && h.state != .aborted && !x.decided h.desc.step)

/-- Is the context aborted as a whole already? A second abort adds nothing (R392). -/
def Ctx.abortedAll (x : Ctx) : Bool := x.faulted || (x.steps.any (fun h => h.state == .aborted) && !x.running)

/-- A fault abort: the replay starts at FRESH and waits for a RESUME (R303, R365, R372, R383). -/
def State.faultAbort (s : State) (c : Nat) : State :=
  let s := if (s.ctx c).abortedAll then s else (s.abortCtx c).modCtx c Ctx.countAbort
  let s := { s with group := { s.group with quietSeen := [] } }
  s.modCtx c (fun x => { x with
    resumeAt := none, quietWait := false, faulted := true
    steps := x.steps.map (fun (h : HeldStep) => if h.settled || x.decided h.desc.step then h else h.fresh) })

/-- A numerics abort of a step (R299, R301, R302): it resumes at FLIPBELL. The other steps that it aborts keep their stage and their flags
(log entry 55). -/
def State.numericsAbort (s : State) (c : Nat) (d : Decision) : State :=
  let s := (s.abortCtx c).modCtx c Ctx.countAbort
  s.modCtx c (fun x =>
    { x.modStep d.step (fun h =>
        if d.outcome = 1 then { h with stage := .rescaled, rescaled := true }
        else { h with
          stage := .climbed, flagged := if h.rescaled then h.flagged else [], climb := d.layers
          attRungs := raiseRungs h.rungs (d.layers.map (fun l => (l, min 3 (rungOf h.rungs l + 1)))) }) with
      resumeAt := some d.flipBell })

/-- PARK (R366): R383 applies, to a context parked already too, without counting an abort, and the host is told. A step whose commit is
decided keeps its numerics (R374). -/
def State.parkCtx (s : State) (c : Nat) : State :=
  let s := s.abortCtx c
  let n := match (s.ctx c).oldest with | some h => h.desc.step | none => 0
  let s := s.modCtx c (fun x => { x with
    parked := true, stuck := true, resumeAt := none, quietWait := false, faulted := false
    steps := x.steps.map (fun h => if h.settled || x.decided h.desc.step then h else h.fresh) })
  s.event c 0x0007 [(n, 64)]

/-! The twin (R340, R341, R364, R387, R405). -/

def gibBytes : Nat := 2 ^ 30

/-- This module's twin, and the modules whose twin it is. -/
def State.twin (s : State) : Option Nat :=
  if Table.has s.group.twins s.devid then some (Table.get 0 s.group.twins s.devid) else none

def State.partners (s : State) : List Nat := (s.group.twins.filter (fun e => e.2 == s.devid)).map (·.1)

/-- The numerics store of a context (R401), as far as it holds the module's numerics. -/
def Ctx.store (x : Ctx) : NumStore :=
  { history := x.history, rungs := x.rungs, working := x.working, thr0 := x.wthr0, thr1 := x.wthr1, pending := x.pendingSet,
    climbs := x.climbs }

def Ctx.loadStore (x : Ctx) (n : NumStore) : Ctx :=
  { x with history := n.history, rungs := n.rungs, working := n.working, wthr0 := n.thr0, wthr1 := n.thr1, pendingSet := n.pending,
           climbs := n.climbs }

/-- A statistics record of which every field holds another value: free ones. -/
def StatRec.free (k : Nat) : StatRec :=
  let v := fun (i w : Nat) => (Config.free64 (k + i)).toNat % 2 ^ w
  { step := v 0 64, tid := v 1 24, fmt := v 2 4, blk := v 3 2, mode := v 4 2, croft := v 5 16, seq := v 6 16, elements := v 7 64
    zeros := v 8 64, saturated := v 9 32, nonfinite := v 10 32, underflow := v 11 32, satblk := v 12 16, cometOvf := v 13 16
    extracted := v 14 32, round := v 15 2, rotate := v 16 3, countSat := v 17 1 == 1, attempt := v 18 2
    amax := (Config.free64 (k + 19)).setWidth 40, errsq := (Config.free64 (k + 20)).setWidth 40 }

/-- Free values for a list, `n` for each element. -/
def freely {α β : Type} (n : Nat) (f : Nat → α → β) (k : Nat) (xs : List α) : List β :=
  (List.zip (List.range xs.length) xs).map (fun e => f (k + n * e.1) e.2)

/-- A numerics state with wrong bits: any value of it can be another one, which is free (R408; log entry 21). -/
def NumStore.spoiled (k : Nat) (n : NumStore) : NumStore :=
  let reg := fun (i : Nat) (r : Reg) => if bit (Config.free64 i) 63 then (Config.free64 i).setWidth 32 else r
  let rung := fun (i : Nat) (e : Nat × Nat) => (e.1, if bit (Config.free64 i) 63 then bits (Config.free64 i) 1 0 else e.2)
  let pair := fun (i : Nat) (e : Reg × Reg) => (reg i e.1, reg (i + 1) e.2)
  let record := fun (i : Nat) (r : StatRec) => if bit (Config.free64 i) 63 then StatRec.free (i + 1) else r
  { n with
    history := freely 1024 (fun i e => (e.1, freely 32 record i e.2)) k n.history
    rungs := freely 1 rung (k + 2 ^ 27) n.rungs
    working := freely 2 pair (k + 2 ^ 27 + 2 ^ 20) n.working
    thr0 := reg (k + 2 ^ 28) n.thr0
    thr1 := reg (k + 2 ^ 28 + 1) n.thr1
    pending := n.pending.map (fun p => { p with
      step := if bit (Config.free64 (k + 2 ^ 28 + 2)) 0 then (Config.free64 (k + 2 ^ 28 + 3)).toNat else p.step
      rcp := p.rcp.map (freely 2 pair (k + 2 ^ 28 + 2 ^ 20)), rung := p.rung.map (freely 1 rung (k + 2 ^ 28 + 2 ^ 21))
      thr := p.thr.map (pair (k + 2 ^ 28 + 4)) })
    climbs := freely 1024 (fun i e => (e.1, freely 1 rung i e.2)) (k + 2 ^ 29) n.climbs }

/-- The numerics store of a context holds wrong bits. -/
def State.spoilStore (s : State) (c : Nat) : State :=
  { s with fresh := s.fresh + 2 ^ 30 }.modCtx c (fun x => x.loadStore (x.store.spoiled s.fresh))

/-- Where a context's numerics store lies, and its bytes (R401). -/
def numericsAddr (c : Nat) : Nat := c % 2 * dieBytes + systemOffset + 0x275000000 + c / 2 * (66 * 2 ^ 20)
def numericsBytes : Nat := 65 * 2 ^ 20

/-- FP5 mirrors the numerics state (R387, R405): at offset M of the twin area. While the queue pair cannot send, it is due. -/
def State.sendNumerics (s : State) (c : Nat) : State :=
  let x := s.ctx c
  let q := s.qp x.twinQpn
  if !x.twinEn then s
  else if !q.sends c then s.setCtx c { x with numDue := true }
  else
    let id := s.nextId
    ({ s with nextId := id + 1 }.setCtx c { x with numDue := false }).post x.twinQpn (.numerics c id) (q.packets numericsBytes) true
      (fun p => .rdmaWrite x.twinQpn p (q.rwinBase + x.mirSize) (numericsAddr c) numericsBytes none)

/-- A step descriptor's 64 bytes (R367). -/
def descBytes (d : StepDesc) : List Byte :=
  leBytes 8 d.step ++ leBytes 8 d.pcF.toNat ++ leBytes 8 d.pcB.toNat ++ leBytes 8 d.pcU.toNat ++ leBytes 8 d.batch ++
    leBytes 8 d.batchLen ++ leBytes 2 d.ballots ++ leBytes 2 d.upcmts ++ leBytes 4 0 ++ leBytes 8 d.progVer.toNat

/-- FP3 mirrors a held step's batch and descriptor (R364, R405). While the queue pair cannot send, they wait for its recovery. -/
def State.sendLedger (s : State) (c : Nat) (d : StepDesc) : State :=
  let x := s.ctx c
  let n := x.twinQpn
  let q := s.qp n
  if !x.twinEn || !q.sends c then s
  else
    let base := q.rwinBase + x.mirSize + numericsBytes
    let s := if d.batchLen = 0 then s
      else s.post n (.ledger c d.step) (q.packets d.batchLen) true
        (fun p => .rdmaWrite n p (base + (d.batch - x.region)) d.batch d.batchLen none)
    s.post n (.ledger c d.step) 1 true
      (fun p => .rdmaWriteData n p (base + x.regionGib * gibBytes + d.step % 16384 * 64) (descBytes d))

/-- The copies of every held step that has not committed, again (R364). -/
def State.resendLedger (s : State) (c : Nat) : State := ((s.ctx c).uncommitted.map (·.desc)).foldl (fun s d => s.sendLedger c d) s

/-- A queue pair works again: if it is the twin's, the Ledger copies go out again, and numerics that are due (R364, R387). -/
def State.twinBack (s : State) (n : Nat) : State :=
  let c := (s.qp n).ctx
  let x := s.ctx c
  if !x.twinEn || x.twinQpn != n then s
  else if x.numDue then (s.resendLedger c).sendNumerics c else s.resendLedger c

/-- A commit flips the generations of the mirrors that this module keeps for the contexts of the same number (R341, R372; log entry
16). -/
def State.flipMirrors (s : State) (c : Nat) (skipped : Bool) : State :=
  s.partners.foldl (fun s p => s.modGroup (fun g =>
    let old := Table.get (0, 0) g.mirrorGen (16 * p + c)
    { g with mirrorGen := Table.put g.mirrorGen (16 * p + c) (if skipped then old.1 else 1 - old.1, 1 - old.2) })) s

/-! Commit (R341, R304–R306, R325, R331, R356). -/

/-- The flip of a decided step at action 4. -/
def State.commitStep (s : State) (c : Nat) (d : Decision) : State :=
  match (s.ctx c).step? d.step with
  | none => s
  | some h =>
    if h.settled then s
    else
      let skipped := d.outcome = 3
      let s := s.commitNumerics c h d.xmax skipped
      let s := s.modCtx c (fun x =>
        { x.modStep d.step (fun h => { h with
            state := if skipped then .skipped else .committed
            skipWhy := if skipped && !h.skip then d.skipWhy else h.skipWhy
            fallbacks := if skipped then [] else h.fallbacks }) with
          gathersMap := (x.shards.filter (fun e => e.step == d.step)).map (fun e => (e.map0, 32 * e.nt))
          shards := x.shards.filter (fun e => e.step != d.step)
          genState := if skipped then x.genState else 1 - x.genState
          genMap := 1 - x.genMap
          lastCmt := d.step, cmtSeen := true
          millSkipped := skipped
          xsatBlocks := min 65535 h.satBlocks, xnonfin := min 65535 h.nonfinBlocks
          pfbKept := if skipped then 0 else min 65535 (h.fallbacks.filter (·.2)).length
          pfbElem := if skipped then 0 else min 65535 (h.fallbacks.filter (fun e => !e.2)).length
          pfbTot := if skipped then x.pfbTot else min (2 ^ 32 - 1) (x.pfbTot + h.fallbacks.length) })
      let s := if (s.ctx c).feat 3 then s.event c 0x000E [(d.step, 64), (if skipped then 1 else 0, 2)] else s
      ((s.flipMirrors c skipped).sendNumerics c).startWalk c d.step

/-- Decisions whose FLIPBELL has come, in step order (R372, R373). -/
def State.flipDue (s : State) (c : Nat) : State :=
  let due := (s.ctx c).flips.filter (fun d => d.flipBell ≤ s.bellNow)
  let s := s.modCtx c (fun x => { x with flips := x.flips.filter (fun d => s.bellNow < d.flipBell) })
  (sortNat (due.map (·.step))).foldl (fun s n =>
    match due.find? (fun d => d.step == n) with
    | some d => s.commitStep c d
    | none => s) s

/-! Resuming (R385, R411). -/

/-- Blocks with an uncorrectable error are restored from their source, and queue pairs are set up again once FP2 runs (R409, R476). -/
def State.restoreBlocks (s : State) : State :=
  let mem := s.badBlocks.foldl (fun (m : Memory) (b : Nat × Nat × List Byte) => Memory.writeBytes m b.2.1 b.2.2) s.mem
  let t := s.badStores.foldl (fun s e => s.modCtx e.1 (fun x => x.loadStore e.2)) { s with mem := mem, badBlocks := [], badStores := [] }
  if s.up 2 then t.badQps.foldl (fun s e => ((s.setQp e.1 e.2).reestablish e.1).twinBack e.1) { t with badQps := [] } else t

/-- A queue pair to a module whose ID a stand-in adopts moves to a FABRIC subport and to the address there, and its MAC address is
resolved again (R389 order 4, R422, R435). Without a FABRIC subport it stays in ERROR. -/
def State.rebind (s : State) (n dev : Nat) : State :=
  let q := s.qp n
  let old := (q.port, q.sub)
  let k := if s.portRole q.port q.sub = 2 then some old else s.enabledSubs.find? (fun e => s.portRole e.1 e.2 == 2)
  match k with
  | none => s
  | some k =>
    let dip := match s.group.addrs.find? (fun e => e.1 == dev && s.portRole e.2.port e.2.sub == 2) with
      | some a => a.2.addr
      | none => q.dip
    let sip := if k = old then q.sip else s.sourceAddr k.1 k.2 dip
    ((s.setQp n { q with port := k.1, sub := k.2, dip := dip, sip := sip }).reestablish n).resolve n

/-- Each module whose twin was the failed one writes its committed generation and its numerics into the stand-in's mirror area (R389
order 6). -/
def State.copyOut (s : State) (c : Nat) : State :=
  let x := s.ctx c
  let q := s.qp x.twinQpn
  if x.mirSize = 0 ∨ !q.sends c then s.sendNumerics c
  else
    let id := s.nextId
    (({ s with nextId := id + 1 }.post x.twinQpn (.copy c id) (q.packets x.mirSize) true
      (fun p => .rdmaWrite x.twinQpn p q.rwinBase x.mirBase x.mirSize none))).sendNumerics c

/-- A failed module's twin writes its copies into the stand-in (R389 order 5). -/
def State.sendTwinCopies (s : State) (dev : Nat) : State :=
  if s.group.fenced || !s.partners.contains dev || s.group.copied.contains dev then s
  else
    let s := s.modGroup (fun g => { g with copied := dev :: g.copied })
    s.contexts.foldl (fun s c =>
      let g := Table.get (0, 0) s.group.mirrorGen (16 * dev + c)
      if c = 0 then s else s.send (.stateCopy c dev g.1 g.2)) s

/-- Does a queue pair call for recovery (R224, R561): in ERROR, or the twin's, not in RTS, with mirror writes of the context unsent? -/
def State.needsRecovery (s : State) (n : Nat) : Bool :=
  let q := s.qp n
  let x := s.ctx q.ctx
  q.used && !q.session && (q.state == 4 || (x.twinEn && x.twinQpn == n && q.state != 3 && (x.unsent || x.numDue)))

/-- FP2 recovers one queue pair of a context (R224, R389 order 4, R561), and FP3 sends what the twin needs again (R364, R389 order 6). A
queue pair to a module that has failed and that no stand-in replaces stays in ERROR. -/
def State.recoverQp (s : State) (c n : Nat) : State :=
  let q := s.qp n
  if q.ctx != c || !s.needsRecovery n || s.group.fenced || !s.up 2 then s
  else
    let d := s.peerOf n
    if s.group.joining.contains d then
      let s := s.rebind n d
      if (s.ctx c).twinEn && (s.ctx c).twinQpn == n then
        ((s.modCtx c (fun x => { x with
          copies := .sent, steps := x.steps.map (fun h => if h.opened then h else { h with twinAck := false }) })).copyOut c).resendLedger c
      else s
    else if s.group.active.isEmpty || d = 0xFFFF || s.members.contains d then (s.reestablish n).twinBack n
    else s

/-- FP2 recovers the queue pairs of a context that are in error, before the replay (R224, R561). -/
def State.recoverQps (s : State) (c : Nat) : State := (s.qps.map (·.1)).foldl (fun s n => s.recoverQp c n) s

/-- Steps 3 to 5 of R385: the steps run again, their dispatch pages are written, and the streams restart. -/
def State.rerun (s : State) (c : Nat) : State :=
  let ues := (s.ctx c).steps.flatMap (fun h => h.ueTries.map (fun n => (h.desc.step, n)))
  let s := s.modCtx c (fun x => { x with
    resumeAt := none, quietWait := false, faulted := false, unsent := false, copies := .none
    steps := x.steps.map (fun h => if h.state = .aborted then { h with state := .running } else h) })
  let s := (s.ctx c).uncommitted.foldl (fun s h => if h.opened then s.writePage c h else s) s
  s.restartContext c (fun y => y.restart ues)

/-- A resume: what waits for quiet is restored first (R409, R561). -/
def State.finishResume (s : State) (c : Nat) : State := ((s.restoreBlocks.recoverQps 0).recoverQps c).rerun c

/-- At the resume Bell: SIGs are refused until the module is quiet and FP5, which writes the dispatch pages, runs (R476); then the streams
start. -/
def State.resumeDue (s : State) (c : Nat) : State :=
  match (s.ctx c).resumeAt with
  | some b =>
    if b ≤ s.bellNow ∧ !(s.ctx c).parked then
      if s.quiet c && s.up 5 then s.finishResume c else s.modCtx c (fun x => { x with quietWait := true })
    else s
  | none => s

/-- QUIET_REACHED: a context past its resume Bell has become quiet (R385). -/
def execQuietReached (ctx : CtxId) (s : State) : Answer :=
  .next (if (s.ctx ctx).quietWait ∧ s.quiet ctx ∧ s.up 3 ∧ s.up 5 then s.finishResume ctx else s)

/-! Ballots (R299, R329, R370, R371). -/

/-- Larger of two maxima. -/
def maxA40 (a b : A40) : A40 := if Val.absLt (ofA40 a) (ofA40 b) then b else a

def lowestNonzero (a b : Nat) : Nat := if a = 0 then b else if b = 0 then a else min a b

/-- Merge two ballots: the outcome codes rank SKIP over CLIMB over RESCALE over PASS. -/
def mergeTwo (a b : Ballot) : Ballot :=
  { a with
    outcome := max a.outcome b.outcome
    skipWhy := lowestNonzero a.skipWhy b.skipWhy
    merged := a.merged + b.merged
    layers := sortNat (a.layers ++ b.layers)
    xmax := b.xmax.foldl (fun t e => Table.put t e.1 (maxA40 (Table.get 0 t e.1) e.2)) a.xmax }

/-- The module's own ballot (R370): SKIP over the numerics outcome. -/
def Ctx.ballot (x : Ctx) (h : HeldStep) : Ballot :=
  let o := if h.skip then 3 else h.outcome
  { step := h.desc.step, gtag := x.gtag, att := h.attempt, outcome := o
    skipWhy := if h.skip then h.skipWhy else 0, merged := 1
    layers := if o = 2 then h.climb else []
    xmax := h.xmax.filter (fun e => !(ofA40 e.2).isZero) }

/-- Consecutive aborts that lead to PARK (R366). -/
def parkAfter : Nat := 16

/-- A decision arrives at this module, its own or from its parent: it takes effect here (R372). -/
def State.applyDecision (s : State) (c : Nat) (d : Decision) : State :=
  let x := s.ctx c
  match d.outcome with
  | 0 | 3 =>
    (match x.step? d.step with
    | some h => if h.settled || x.decided d.step then s else s.setCtx c { x with flips := x.flips ++ [d] }
    | none => s)
  | 1 | 2 =>
    (match x.step? d.step with
    | some h =>
      if h.settled || x.decided d.step || h.attempt != d.att || !h.opened || h.state == .aborted then s
      else s.numericsAbort c d
    | none => s)
  | 4 => s.faultAbort c
  | _ => s.parkCtx c

/-- A decision for every context of its group, kept as the newest of it (R374, R445). -/
def State.takeDecision (s : State) (d : Decision) : State :=
  let s := { s with group := { s.group with newest := Table.put s.group.newest d.gtag d } }
  (s.tagged d.gtag).foldl (fun s c => s.applyDecision c d) s

/-- The coordinator sends a decision down the tree and applies it. -/
def State.issueDecision (s : State) (d : Decision) : State := (s.sendDown d.gtag (.decision d)).takeDecision d

/-- FLIPBELL: the first Bell that begins at least 20 µs from now. Where in the Bell interval a decision falls is not in the
model, so it is the next Bell or the one after it by a free value (log entry 10). -/
def State.drawFlip (s : State) : Nat × State :=
  let r := s.draw64
  (s.bellNow + 1 + (if bit r.1 0 then 1 else 0), r.2)

/-- A commit decided ends the run of aborts (R366). -/
def State.endRun (s : State) (c : Nat) : State := s.modCtx c (fun x => { x with abortRun := 0 })

/-- An abort, or PARK in place of the seventeenth in a row (R366). -/
def State.decideAbort (s : State) (c : Nat) (d : Decision) : State :=
  let x := s.ctx c
  if parkAfter ≤ x.abortRun then (s.endRun c).issueDecision { d with outcome := 5, layers := [], xmax := [] }
  else (s.setCtx c { x with abortRun := x.abortRun + 1 }).issueDecision d

/-- The coordinator decides a step from the complete merge (R299, R372). -/
def State.decide (s : State) (c : Nat) (m : Ballot) : State :=
  let r := s.drawFlip
  let d : Decision :=
    { step := m.step, gtag := m.gtag, att := m.att, outcome := 0, skipWhy := m.skipWhy, flipBell := r.1, layers := [], xmax := m.xmax }
  if m.outcome = 3 then (r.2.endRun c).issueDecision { d with outcome := 3 }
  else if m.outcome = 2 ∧ !m.layers.isEmpty then r.2.decideAbort c { d with outcome := 2, layers := m.layers, xmax := [] }
  else if m.outcome = 1 then r.2.decideAbort c { d with outcome := 1, xmax := [] }
  else (r.2.endRun c).issueDecision d

/-- Merge a ballot of one voter; when the module's own and every child's are in, it goes to the parent, or the coordinator
decides. -/
def State.mergeBallot (s : State) (c voter : Nat) (b : Ballot) : State :=
  match (s.ctx c).step? b.step with
  | none => s
  | some h =>
    if h.settled || h.attempt != b.att || h.voters.contains voter then s
    else
      let m := match h.merged with | some m => mergeTwo m b | none => b
      let voters := voter :: h.voters
      let s := s.modCtx c (fun x => x.modStep b.step (fun h => { h with merged := some m, voters := voters }))
      if !voters.contains s.devid || !s.children.all (fun d => voters.contains d) then s
      else match s.parent with
        | some p => s.sendMsg m.gtag p (.ballot m)
        | none => if m.merged = s.members.length ∧ !s.group.newCoord then s.decide c m else s

/-- A child's ballot (R371); one for a step that is not held yet is kept until it is, and FP3's restart delays it (R476). -/
def State.takeBallot (s : State) (src : Nat) (b : Ballot) : State :=
  if !s.children.contains src then s
  else if !s.up 3 then s.hold 3 (.ballot .taken src b)
  else match (s.tagged b.gtag).find? (fun c => ((s.ctx c).step? b.step).isSome) with
    | some c => s.mergeBallot c src b
    | none => { s with group := { s.group with early := s.group.early ++ [(src, b)] } }

/-- Ballots that arrived before their step was held. -/
def State.takeEarly (s : State) (c : Nat) : State :=
  let mine := s.group.early.filter (fun e => e.2.gtag == (s.ctx c).gtag && ((s.ctx c).step? e.2.step).isSome)
  let s := { s with group := { s.group with early := s.group.early.filter (fun e => !mine.contains e) } }
  mine.foldl (fun s e => s.mergeBallot c e.1 e.2) s

/-- A decision from the parent is passed down the tree, and applied (R372–R374, R381); it waits while FP3 restarts (R476). -/
def State.decisionIn (s : State) (d : Decision) : State :=
  let s := s.hearParent
  if s.up 3 then s.issueDecision d else s.hold 3 (.decision .taken d)

/-! CHECK and the cast (R231, R297, R363, R370). -/

/-- Does FP4 know of a suspected unit, or suspect one itself (R29)? -/
def State.suspecting (s : State) : Bool :=
  !s.group.known.isEmpty || !s.group.suspects.isEmpty || !s.group.held.isEmpty || !s.group.toReport.isEmpty

/-- Have both monitors reported on an evaluated attempt, after its EXCHANGE and its UPDATE (R29, R297)? -/
def State.checkEnds (s : State) (c : Nat) (h : HeldStep) : Bool :=
  h.state == .running && h.evaluated && !s.suspecting && s.exchangeEnded c h && s.updateEnded c h

/-- A step with EXCH_ERROR has its maps kept once the Mill's other work for it has ended, before its UPDATE ends (R325, R361; log entry
124). -/
def State.settleMaps (s : State) (c n : Nat) : State :=
  match (s.ctx c).step? n with
  | some h =>
    if h.exchError && !h.mapsKept && h.evaluated && s.exchangeEnded c h && s.millEnded c h then
      (s.keepMaps c n).modCtx c (fun x => x.modStep n (fun h => { h with mapsKept := true }))
    else s
  | none => s

/-- CHECK of a step ends if both monitors have reported. -/
def State.endCheck (s : State) (c n : Nat) : State :=
  let s := s.settleMaps c n
  s.modCtx c (fun x => x.modStep n (fun h => if s.checkEnds c h then { h with state := .checked } else h))

/-- NUMERICS_CHECK: once every expected ballot is recorded, FP5 evaluates the attempt; CHECK ends when UPDATE has ended and FP4
suspects no unit (R29, R297). -/
def execNumericsCheck (ctx : CtxId) (step : Nat) (s : State) : Answer :=
  .next (let x := s.ctx ctx
    match x.step? step with
    | some h =>
      if h.state ≠ .running ∨ h.ballots < h.ballotsWanted ∨ h.evaluated ∨ !s.up 5 then s
      else (s.setCtx ctx (x.modStep step (fun _ => s.evaluate x h))).endCheck ctx step
    | none => s)

/-- FP3 casts the ballots of a context at action 6: of every step whose CHECK has ended, and whose UPDATE an error since then has not
opened again. -/
def State.castBallots (s : State) (c : Nat) : State :=
  ((s.ctx c).steps.map (·.desc.step)).foldl (fun s n =>
    let s := s.endCheck c n
    match (s.ctx c).step? n with
    | some h =>
      if h.state = .checked ∧ s.updateEnded c h then
        (s.modCtx c (fun x => x.modStep n (fun h => { h with state := .cast }))).mergeBallot c s.devid ((s.ctx c).ballot h)
      else s
    | none => s) s

/-- GATHER_ENTRY_COMPLETE: an entry's WRITE is acknowledged, and its SIG follows; or its SIG is (R331, R559). -/
def execGatherEntryComplete (ctx : CtxId) (entry : Marked) (s : State) : Answer :=
  .next (match (s.ctx ctx).walks with
    | w :: _ =>
      let i := entry.val
      if !w.running.contains i then s
      else if s.up 3 then
        let s := (s.heard (.gather ctx i) entry.ce).heard (.gatherSig ctx i) entry.ce
        if s.writing ctx i then s.entryWritten ctx i else s.entryDone ctx i
      else s.hold 3 (.gatherEntryComplete ctx entry)
    | [] => s)

/-- TWIN_LEDGER_ACK: the twin holds the batch and the step descriptor (R364). -/
def execTwinLedgerAck (ctx : CtxId) (step : Marked) (s : State) : Answer :=
  .next (((s.heard (.ledger ctx step.val) step.ce).acked (.ledger ctx step.val)).modCtx ctx (fun x =>
    x.modStep step.val (fun h => { h with twinAck := true })))

end Sys2Proof.Machine
end

