-- ==== Sys2Proof/Machine/Group.lean ====
section
/-! DEFINITION. The group: heartbeats, the Reeve, fencing, stand-ins and what the messages of R445 do (R374–R392). -/

namespace Sys2Proof.Machine

/-! Who watches whom (R376). -/

/-- The watch set (R376). -/
def State.watchSet (s : State) : List Nat :=
  if s.group.standby then []
  else
    let all := (match s.parent with | some p => [p] | none => []) ++ s.children ++
      (match s.twin with | some d => [d] | none => []) ++ s.partners ++ s.group.links
    (sortNat all).filter (fun d => d != s.devid && (s.members.contains d || s.group.links.contains d))

/-- FP2 keeps queue pairs to the vote tree, the watch set, the coordinator and the deputy (R371, R375, R445). -/
def State.keepTree (s : State) : State :=
  if s.group.fenced then s
  else
    let ds := s.watchSet ++ [s.coordinator] ++ (match s.deputy with | some d => [d] | none => [])
    (ds.filter (· != s.devid)).foldl (fun s d => (s.keepVoteQp d).2) s

/-- Where a report about a suspect goes (R377). A coordinator that asks for its own remap is the one that aborts (R393), so that
report stays with it (log entry 110). -/
def State.reportTo (s : State) (suspect why : Nat) : Nat :=
  if suspect = s.coordinator ∧ !(s.isCoordinator && why.testBit 3 && !why.testBit 2) then s.deputy.getD s.coordinator else s.coordinator

/-! Fencing (R381). -/

/-- A subport without the addresses software gave it. -/
def Subport.withdraw (p : Subport) : Subport := { p with ipv4 := 0, ipv6 := 0 }

/-- The module fences itself: every context stops, its addresses leave every port, and FENCED is raised. The spec gives no
reason codes, so the reason is a free value. -/
def State.fence (s : State) : State :=
  if s.group.fenced then s
  else
    let r := s.draw64
    let s := r.2.contexts.foldl (fun s c => s.stopStreams c stAborted) r.2
    let s := { s with net := { s.net with subs := s.net.subs.map (fun (e : Nat × Subport) => (e.1, e.2.withdraw)) } }
    ((s.setPhase 8).modGroup (fun g => { g with fenced := true })).eventAll 0x0008 [(bits r.1 7 0, 8)]

/-! Fault events (R380). -/

def State.faultEvent (s : State) (suspect outcome reason reports firstBell standin : Nat) : State :=
  s.eventAll 0x0004 [(suspect, 16), (outcome, 2), (reason, 4), (reports, 16), (firstBell, 64), (s.bellNow, 64), (standin, 16)]

/-! Abort decisions (R378, R389). -/

/-- Contexts that can belong to a group. -/
def State.groupContexts (s : State) : List Nat := s.contexts.filter (· != 0)

/-- ABORT for every held step of a context (R378, R389). One that is aborted already is sent the decision again, which adds nothing
(R392) and does not count as one more in a row (R366). -/
def State.orderAbort (s : State) (c : Nat) : State :=
  let x := s.ctx c
  let h := x.oldest
  let d : Decision :=
    { step := match h with | some h => h.desc.step | none => 0, gtag := x.gtag
      att := match h with | some h => h.attempt | none => 0
      outcome := 4, skipWhy := 0, flipBell := 0, layers := [], xmax := [] }
  if x.abortedAll then s.issueDecision d else s.decideAbort c d

/-- A coordinator decides aborts; a new one owes them until the STATE messages are in (R374). -/
def State.abortAll (s : State) (cs : List Nat) : State :=
  if s.group.newCoord then s.modGroup (fun g => { g with abortDue := cs.foldl (fun l c => insertNat c l) g.abortDue })
  else cs.foldl (fun s c => s.orderAbort c) s

/-! GROUP_LOSS (R390). -/

/-- A context's numbers as a mask. -/
def maskOf (cs : List Nat) : BitVec 16 := BitVec.ofNat 16 (cs.foldl (fun m c => m ||| 2 ^ c) 0)

def maskHas (m : BitVec 16) (c : Nat) : Bool := bit m c

/-- GROUP_LOSS: nobody takes the module's place any more, and the contexts that it names and that carry its tag are parked and the event
raised (R390, R445). -/
def State.takeLoss (s : State) (gtag dev : Nat) (mask : BitVec 16) : State :=
  let s := s.modGroup (fun g => { g with joining := g.joining.filter (· != dev), takeovers := g.takeovers.filter (fun t => t.dev != dev) })
  ((s.tagged gtag).filter (fun c => maskHas mask c)).foldl
    (fun s c => ((s.modCtx c (fun x => { x with copies := .none })).parkCtx c).event c 0x0009 [(dev, 16)]) s

/-- Tags of the groups that the module's training contexts belong to. -/
def State.tags (s : State) : List Nat := s.groupContexts.foldl (fun ts c => insertNat (s.ctx c).gtag ts) []

/-- The coordinator sends GROUP_LOSS, one for each group (R390, R445). -/
def State.orderLoss (s : State) (dev : Nat) : State :=
  s.tags.foldl (fun s g =>
    let mask := maskOf (s.groupContexts.filter (fun c => (s.ctx c).gtag == g))
    (s.sendDown g (.groupLoss dev mask)).takeLoss g dev mask) s

/-! Takeovers (R389, R390). -/

/-- Can the failed module's copies be found: has it a twin that lives, and do its contexts mirror (R390)? -/
def State.copiesLive (s : State) (dev : Nat) : Bool :=
  Table.has s.group.twins dev && s.members.contains (Table.get 0 s.group.twins dev) &&
    s.groupContexts.all (fun c => (s.ctx c).twinEn)

/-- The stand-in that a declaration of the module chooses: the lowest one, if its copies live (R389, R390). -/
def State.chosen (s : State) (dev : Nat) : Option Nat := if s.copiesLive dev then (sortNat s.group.standins).head? else none

/-- Are a takeover's orders not complete: its stand-in has not reported quiet for any context yet, or there is none and the GROUP_LOSS is to
come (R389, R390; log entry 125)? -/
def State.unheard (s : State) (t : Takeover) : Bool :=
  t.standin.isNone || (s.group.joining.contains t.dev && Table.get (0 : BitVec 16) s.group.quietSeen t.dev == 0)

/-- The coordinator sends TAKEOVER to the chosen stand-in, or GROUP_LOSS when there is none (R389 order 2, R390). -/
def State.orderTakeover (s : State) (t : Takeover) : State :=
  match t.standin with
  | some d => s.sendMsg s.groupTag d (.takeover t.dev t.twin ((s.group.addrs.filter (fun e => e.1 == t.dev)).map (·.2)))
  | none => s.orderLoss t.dev

/-- Steps of a context that are cast, whose commit nobody has decided (R374). -/
def Ctx.castOpen (x : Ctx) : Bool := x.steps.any (fun h => h.state == .cast && !x.decided h.desc.step)

/-- A new coordinator with every STATE message of every group: it completes every commit some module has not applied, decides the ABORT it
owes or the one of cast steps nobody decided, and goes on with the takeovers that are not complete (R374, R375, R389). -/
def State.takeStates (s : State) : State :=
  if !s.group.newCoord || !s.members.all (fun m => s.tags.all (fun g => s.group.states.any (fun e => e.1 == m && e.2.1 == g))) then s
  else
    let commits := (s.group.states.filterMap (fun e => e.2.2)).filter (fun d => d.outcome == 0 || d.outcome == 3)
    let due := s.group.abortDue
    let s := s.modGroup (fun g => { g with newCoord := false, states := [], abortDue := [] })
    let s := commits.foldl (fun s d => s.issueDecision d) s
    let s := s.groupContexts.foldl (fun s c => if due.contains c || (s.ctx c).castOpen then s.orderAbort c else s) s
    (s.group.takeovers.filter s.unheard).foldl (fun s t => s.orderTakeover t) s

/-! Losing a module. -/

/-- Queue pairs whose far end has been declared failed go to ERROR, and their instructions end with PEER_LOST, those outstanding on one
in ERROR too (R224). -/
def State.loseQps (s : State) (dev : Nat) : State :=
  (s.qps.map (·.1)).foldl (fun s n =>
    if !(s.qp n).used || s.peerOf n != dev then s
    else if (s.qp n).state = 4 then s.failRest n true
    else s.failQp n true) s

/-- The same; while FP2 restarts it waits (R451). -/
def State.dropPeer (s : State) (dev : Nat) : State :=
  if s.up 2 then s.loseQps dev else s.modGroup (fun g => { g with lostDue := insertNat dev g.lostDue })

/-- What waited for FP2: queue pairs of failed modules, and MAC addresses to resolve (R451). -/
def State.resumeFp2 (s : State) : State :=
  let s := s.group.lostDue.foldl (fun s d => s.loseQps d) (s.modGroup (fun g => { g with lostDue := [] }))
  (s.qps.map (·.1)).foldl (fun s n => if (s.qp n).macDue then s.resolve n else s) s

/-- Does a UPEL or UPLW still wait for its mirror writes, or has some to come (R360)? -/
def State.awaitsTwin (s : State) (f : Flight) : Bool :=
  let x := s.ctx f.ctx
  x.twinEn && (match f.op with
    | .upel n a => x.mirrors.any (fun m => m.step == n) || (match x.shard? n a with | some d => !d.done false | none => false)
    | .uplw .. => true
    | _ => false)

/-- The step of a UPEL or UPLW. -/
def FlightOp.updateStep : FlightOp → Option Nat
  | .upel n _ => some n
  | .uplw d _ _ => some d.step
  | _ => none

/-- The twin is lost before it has acknowledged every mirror write: the UPEL and UPLW outstanding end with PEER_LOST, and their steps
cannot end UPDATE (R360). -/
def State.loseTwin (s : State) (dev : Nat) : State :=
  if s.twin ≠ some dev then s
  else (s.flights.filter s.awaitsTwin).foldl (fun s f => (s.complete f stPeerLost).loseStep f.ctx (f.op.updateStep.getD 0)) s

/-- The newest decision of a group that this module holds. -/
def Group.newestOf (g : Group) (tag : Nat) : Option Decision := (g.newest.find? (fun e => e.1 == tag)).map (·.2)

/-- After a change of coordinator: the newest decision of each group goes to the new one, and the suspects still held are reported to
it at the next action 6; a former coordinator's table is not handed over (R374, R375). -/
def State.coordChange (s : State) (old : Nat) : State :=
  if s.coordinator = old then s
  else
    let s := s.modGroup (fun g => { g with toReport := g.held.foldl (fun t e => Table.put t e.1 (Table.get 0 t e.1 ||| e.2)) g.toReport })
    if s.isCoordinator then (s.modGroup (fun g => { g with newCoord := true, states := s.tags.map (fun t => (s.devid, t, g.newestOf t)) })).takeStates
    else
      let s := s.modGroup (fun g => { g with newCoord := false, abortDue := [], suspects := if old = s.devid then [] else g.suspects })
      s.tags.foldl (fun s t => s.sendMsg t s.coordinator (.state (s.group.newestOf t))) s

/-- The contexts whose twin is replaced owe the stand-in their copies (R389 order 6). -/
def State.oweCopies (s : State) (dev : Nat) (ok : Bool) : State :=
  (s.contexts.filter (fun c => (s.ctx c).twinEn && (s.qp (s.ctx c).twinQpn).used && s.peerOf (s.ctx c).twinQpn == dev)).foldl
    (fun s c => s.modCtx c (fun x => { x with copies := if ok then .due else .none })) s

/-- A module is declared failed (R224, R360, R371, R375, R389). Every module keeps the list of stand-ins and the takeovers, so that a
new coordinator can go on with them. -/
def State.failDevice (s : State) (dev : Nat) : State :=
  if dev = s.devid ∧ s.group.takingOver.isNone then s.fence
  else
    let old := s.coordinator
    let pick := s.chosen dev
    let twin := Table.get 0xFFFF s.group.twins dev
    let s := ((s.loseTwin dev).dropPeer dev).oweCopies dev pick.isSome
    let s := s.modGroup (fun g => { g with
      active := s.members.filter (· != dev)
      joining := if pick.isSome then insertNat dev g.joining else g.joining.filter (· != dev)
      standins := g.standins.filter (fun d => d != dev && some d != pick)
      takeovers := g.takeovers.filter (fun t => t.dev != dev) ++ [⟨dev, twin, pick⟩]
      copied := g.copied.filter (· != dev), quietSeen := Table.drop g.quietSeen dev
      known := g.known.filter (· != dev), held := Table.drop g.held dev, toReport := Table.drop g.toReport dev
      silent := Table.drop g.silent dev, parentSilent := 0 })
    (s.coordChange old).keepTree

/-! The coordinator (R378–R380, R389, R390). -/

/-- Drop a suspicion entry. -/
def Group.dropSuspect (g : Group) (dev : Nat) : Group := { g with suspects := g.suspects.filter (fun e => e.dev != dev) }

/-- The coordinator declares a suspect FAILED (R378, R380, R381, R389, R390). A takeover whose twin this is, and whose order 5 has not
ended, is lost (R390). The notice goes down the tree of the modules that are left. -/
def State.declare (s : State) (dev : Nat) (partFail : Bool) : State :=
  let e := (s.group.suspects.find? (fun e => e.dev == dev)).getD ⟨dev, s.bellNow, 0, 0, .judged, true⟩
  let lost := s.group.takeovers.filter (fun t => t.twin == dev && t.dev != dev && s.unheard t)
  let t : Takeover := ⟨dev, Table.get 0xFFFF s.group.twins dev, s.chosen dev⟩
  let kind := if partFail then 3 else 2
  let s := s.faultEvent dev (if partFail then 2 else 1) e.reason e.reports e.first (t.standin.getD 0xFFFF)
  let s := s.modGroup (fun g => g.dropSuspect dev)
  let s := (s.sendMsg s.groupTag dev (.notice dev kind)).failDevice dev
  let s := (s.sendDown s.groupTag (.notice dev kind)).abortAll s.groupContexts
  let s := if s.group.newCoord then s else s.orderTakeover t
  lost.foldl (fun s t => s.orderLoss t.dev) s

/-- After a clear, the mirror writes that were not sent call for an abort of the held steps (R561). -/
def State.requestUnsent (s : State) (suspect : Nat) : State :=
  if s.twin = some suspect then
    (s.contexts.filter (fun c => (s.ctx c).unsent || (!(s.ctx c).mirrors.isEmpty && !(s.qp (s.ctx c).twinQpn).sends c))).foldl
      (fun s c => s.modGroup (fun g => { g with abortPending := insertNat (s.ctx c).gtag g.abortPending })) s
  else s

/-- A suspect answered: its entry is cleared and the group told (R378, R380, R561). -/
def State.clearSuspect (s : State) (dev : Nat) : State :=
  match s.group.suspects.find? (fun e => e.dev == dev) with
  | none => s
  | some e =>
    let s := s.faultEvent dev 0 e.reason e.reports e.first 0xFFFF
    let s := s.modGroup (fun g => { g.dropSuspect dev with clears := Table.put g.clears dev s.bellNow })
    (s.sendDown s.groupTag (.notice dev 1)).requestUnsent dev

/-- Entries of the suspicion table. -/
def suspectMax : Nat := 4096

/-- Consecutive Bells of reports after a CLEAR (R378). -/
def Group.streakOf (g : Group) (dev now : Nat) : Nat :=
  let st := Table.get (0, 0) g.streak dev
  if st.2 ≠ 0 ∧ st.1 = now then st.2
  else if st.2 ≠ 0 ∧ st.1 + 1 = now then st.2 + 1
  else if Table.has g.clears dev ∧ now ≤ Table.get 0 g.clears dev + 8 then 1
  else 0

def Group.modSuspect (g : Group) (dev : Nat) (f : Suspect → Suspect) : Group :=
  { g with suspects := g.suspects.map (fun x => if x.dev == dev then f x else x) }

/-- A declaration that is due; while FP4 restarts it waits for the first Bell after it runs (R476). -/
def State.declareDue (s : State) (dev : Nat) (partFail : Bool) : State :=
  if s.up 4 then s.declare dev partFail else s.modGroup (fun g => g.modSuspect dev (fun e => { e with state := .due partFail }))

/-- Does the table hold an entry of a suspect? -/
def Group.suspected (g : Group) (dev : Nat) : Bool := g.suspects.any (fun e => e.dev == dev)

/-- One table update: find or allocate the entry, count the report, OR its reason; a full table counts a drop (R378, R379). -/
def State.enterReport (s : State) (suspect reason : Nat) : State :=
  if s.group.suspected suspect then
    s.modGroup (fun g => g.modSuspect suspect (fun e => { e with reason := e.reason ||| reason, reports := min 65535 (e.reports + 1) }))
  else if suspectMax ≤ s.group.suspects.length then s.modGroup (fun g => { g with drops := min 32767 (g.drops + 1) })
  else s.modGroup (fun g => { g with suspects := g.suspects ++ [⟨suspect, s.bellNow, reason, 1, .judged, true⟩] })

/-- The group is told of a suspect, and the suspect probed (R378). -/
def State.probeSuspect (s : State) (dev : Nat) : State :=
  (s.sendDown s.groupTag (.notice dev 0)).sendMsg s.groupTag dev (.probe dev)

/-- One report applied (R378, R379, R393): while FP4 restarts the table is updated, and NOTICE and PROBE wait (R476). -/
def State.takeReport (s : State) (gtag reporter suspect bell reason : Nat) : State :=
  if !(s.isCoordinator || (s.isDeputy && suspect == s.coordinator)) then s
  else if suspect = reporter ∧ reason = 0 then
    if s.isCoordinator then (s.abortAll (s.tagged gtag)).faultEvent suspect 3 0 1 bell 0xFFFF else s
  else if reason.testBit 2 then
    let s := s.enterReport suspect reason
    if s.group.suspected suspect then s.declareDue suspect false else s
  else if reason.testBit 3 then (if s.isCoordinator then s.abortAll s.groupContexts else s)
  else
    let k := s.group.streakOf suspect s.bellNow
    let s := s.modGroup (fun g => { g with streak := Table.put g.streak suspect (s.bellNow, k) })
    let had := s.group.suspected suspect
    let s := s.enterReport suspect reason
    let s := if had || !s.group.suspected suspect then s
      else if s.up 4 then s.probeSuspect suspect
      else s.modGroup (fun g => g.modSuspect suspect (fun e => { e with asked := false }))
    if 3 ≤ k ∧ s.group.suspected suspect then s.declareDue suspect true else s

/-- SUSPECT_DECLARE: two Bells after the first report (R378). -/
def execSuspectDeclare (dev : Nat) (s : State) : Answer :=
  .next (match s.group.suspects.find? (fun e => e.dev == dev) with
    | some e =>
      if e.first + 2 ≤ s.bellNow ∧ (s.isCoordinator || (s.isDeputy && dev == s.coordinator)) then s.declareDue dev false else s
    | none => s)

/-- PROBE is answered (R378, R445), once FP4 runs (R476). -/
def State.takeProbe (s : State) (src suspect : Nat) : State :=
  if s.up 4 then s.sendMsg s.groupTag src (.probeReply s.devid) else s.hold 4 (.probe .taken src suspect)

/-! Quiet and RESUME (R384). -/

/-- Is it a copy for the twin? -/
def Owner.isCopy : Owner → Bool
  | .copy .. => true
  | .numerics .. => true
  | .ledger .. => true
  | _ => false

/-- Is order 6 of R389 done for a context: generation, numerics and Ledger inputs acknowledged by the stand-in? -/
def State.copied (s : State) (c : Nat) : Bool :=
  match (s.ctx c).copies with
  | .none => true
  | .due => false
  | .sent => (s.qp (s.ctx c).twinQpn).work.all (fun w => !w.owner.isCopy)

/-- Is a queue pair rebound to the stand-in, where a FABRIC subport lets it be (R389 order 4)? -/
def State.rebound (s : State) (n : Nat) : Bool :=
  let q := s.qp n
  !q.used || q.session || q.state != 4 || !s.group.joining.contains (s.peerOf n) || !s.enabledSubs.any (fun e => s.portRole e.1 e.2 == 2)

/-- Are this module's orders of R389 finished? -/
def State.ordersDone (s : State) : Bool :=
  s.group.takingOver.isNone && s.group.lostDue.isEmpty && s.contexts.all s.copied && (s.qps.map (·.1)).all s.rebound

/-- The contexts that wait for a RESUME and are quiet here, with R389's orders finished and no remapped croft untested (R384, R393). -/
def State.quietMask (s : State) : BitVec 16 :=
  maskOf (s.contexts.filter (fun c =>
    (s.ctx c).faulted && s.quiet c && s.sec.testing.isEmpty && s.ordersDone))

/-- A RESUME: the contexts it names resume at its Bell (R384, R385); a parked one waits for its LAUNCH. -/
def State.takeResume (s : State) (bell : Nat) (mask : BitVec 16) (ok : Nat → Bool) : State :=
  (s.contexts.filter (fun c => maskHas mask c && ok c && (s.ctx c).faulted)).foldl
    (fun s c => s.modCtx c (fun x => if x.parked then { x with faulted := false } else { x with resumeAt := some bell })) s

/-- The coordinator sends RESUME for every context that is quiet on every active module and every stand-in that is taking
over, one message a group. -/
def State.tryResume (s : State) : State :=
  if !s.isCoordinator ∨ s.group.newCoord then s
  else
    let others := (s.members ++ s.group.joining).filter (· != s.devid)
    let ready := (List.range 16).filter (fun c =>
      maskHas s.quietMask c && (s.ctx c).resumeAt.isNone &&
        others.all (fun d => maskHas (Table.get (0 : BitVec 16) s.group.quietSeen d) c))
    if ready.isEmpty then s
    else
      let r := s.drawFlip
      let tags := ready.foldl (fun ts c => insertNat (s.ctx c).gtag ts) []
      tags.foldl (fun s tag =>
        let mask := maskOf (ready.filter (fun c => (s.ctx c).gtag == tag))
        let s := s.sendDown tag (.resume r.1 mask)
        let s := s.group.joining.foldl (fun s d => s.sendMsg tag d (.resume r.1 mask)) s
        s.takeResume r.1 mask (fun _ => true)) r.2

/-- HEARTBEAT (R376, R378, R381, R384). -/
def State.takeHeartbeat (s : State) (src : Nat) (quiet : BitVec 16) : State :=
  let s := s.modGroup (fun g => { g with silent := Table.put g.silent src 0, held := Table.drop g.held src, quietSeen := Table.put g.quietSeen src quiet })
  let s := if s.parent = some src ∨ (s.isCoordinator ∧ s.deputy = some src) then s.hearParent else s
  (s.clearSuspect src).tryResume

/-- Send one report, at most one a suspect and Bell (R377). -/
def State.sendReport (s : State) (dev why : Nat) : State :=
  if s.group.reported.contains dev then s
  else
    let s := s.modGroup (fun g =>
      let kept := if dev = s.devid then g.held else Table.put g.held dev (Table.get 0 g.held dev ||| why)
      { g with reported := dev :: g.reported, held := kept })
    let dst := s.reportTo dev why
    if dst = s.devid then s.takeReport s.groupTag s.devid dev s.bellNow why
    else s.sendMsg s.groupTag dst (.report s.groupTag s.devid dev s.bellNow why)

/-- An abort request: a report that names the module itself, with no REASON bit (R320, R377). -/
def State.sendAbortRequest (s : State) (gtag : Nat) : State :=
  if s.isCoordinator then s.takeReport gtag s.devid s.devid s.bellNow 0
  else s.sendMsg gtag s.coordinator (.report gtag s.devid s.devid s.bellNow 0)

/-- HEARTBEAT_TIMEOUT: 4 silent Bells of a watched module (R376). -/
def execHeartbeatTimeout (dev : Nat) (s : State) : Answer :=
  .next (if s.watchSet.contains dev ∧ 4 ≤ Table.get 0 s.group.silent dev ∧ !s.group.fenced ∧ s.up 4 then s.sendReport dev whyHeartbeat else s)

/-- PARENT_SILENCE: 5 Bells without a message from the parent (R381). -/
def execParentSilence (s : State) : Answer :=
  .next (if 5 ≤ s.group.parentSilent ∧ (s.parent.isSome ∨ (s.isCoordinator ∧ s.deputy.isSome)) then s.fence else s)

/-- NOTICE: passed down the tree; SUSPECT and CLEAR are noted, FAILED is a declaration (R378, R381, R561). -/
def State.takeNotice (s : State) (suspect kind : Nat) : State :=
  let s := s.hearParent
  match kind with
  | 0 => (s.modGroup (fun g => { g with known := insertNat suspect g.known })).sendDown s.groupTag (.notice suspect kind)
  | 1 =>
    ((s.modGroup (fun g => { g with known := g.known.filter (· != suspect), held := Table.drop g.held suspect })).requestUnsent
      suspect).sendDown s.groupTag (.notice suspect kind)
  | _ => (s.failDevice suspect).sendDown s.groupTag (.notice suspect kind)

/-- RESUME: passed down the tree (R384, R385). -/
def State.resumeIn (s : State) (gtag bell : Nat) (mask : BitVec 16) : State :=
  ((s.sendDown gtag (.resume bell mask)).hearParent).takeResume bell mask (fun c => (s.ctx c).gtag == gtag)

/-- STATE: a new coordinator collects the newest decisions of each group (R374, R375, R445). -/
def State.takeState (s : State) (gtag src : Nat) (d : Option Decision) : State :=
  if !s.group.newCoord then s
  else (s.modGroup (fun g => { g with states := (src, gtag, d) :: g.states.filter (fun e => !(e.1 == src && e.2.1 == gtag)) })).takeStates

/-! Stand-ins (R387–R389, R422). -/

/-- FABRIC subports that take an address at takeover. -/
def State.takeAddr (s : State) (a : PortAddr) : State :=
  let k := 4 * a.port + a.sub
  let p := Table.get {} s.net.subs k
  let p := if isMapped4 a.addr then { p with ipv4 := a.addr.setWidth 32 } else { p with ipv6 := a.addr }
  { s with net := { s.net with subs := Table.put s.net.subs k p } }

/-- One round of announcements (R422): a gratuitous ARP, or an unsolicited advertisement with the override flag, with the stand-in's own
MAC address. -/
def State.announce (s : State) : State :=
  s.group.takeAddrs.foldl (fun s a => s.send (.gratuitousArp a.port a.sub a.addr (s.macOf a.port a.sub) (!isMapped4 a.addr))) s

/-- TAKEOVER: a stand-in adopts the failed module's device ID and, on its FABRIC subports, its addresses, and announces
them; it joins the vote tree at the resume Bell, not before (R375, R389, R422). -/
def State.takeOver (s : State) (dev twin : Nat) (addrs : List PortAddr) : State :=
  if !s.group.standby then s
  else
    let fabric := addrs.filter (fun a => s.portRole a.port a.sub == 2)
    let s := fabric.foldl (fun s a => s.takeAddr a) s
    let s := { s with devid := dev }.modGroup (fun g => { g with
      standby := false, takingOver := some (dev, twin), takeAddrs := fabric, announceLeft := 2
      active := g.active.filter (· != dev), joining := insertNat dev g.joining })
    s.announce

/-- GRATUITOUS_ARP: the announcements again, three rounds in all (R422). -/
def execGratuitousArp (s : State) : Answer :=
  .next (if s.group.announceLeft = 0 then s
    else (s.modGroup (fun g => { g with announceLeft := g.announceLeft - 1 })).announce)

/-- GROUP_LOSS: passed down the tree, and the contexts parked (R390). -/
def State.lossIn (s : State) (gtag dev : Nat) (mask : BitVec 16) : State :=
  ((s.sendDown gtag (.groupLoss dev mask)).hearParent).takeLoss gtag dev mask

/-! Action 6 of a Bell (R32, R376, R377). -/

/-- Contexts that wait for a RESUME, with nothing of them under way. -/
def State.stilled (s : State) : List Nat := s.contexts.filter (fun c => (s.ctx c).faulted && s.quiet c)

/-- What happens during quiet, before it is reported: blocks are restored, queue pairs recovered and rebound, and copies sent (R224,
R389 orders 4–6, R409, R412). -/
def State.recoverAll (s : State) : State :=
  if s.stilled.isEmpty then s
  else
    let s := (0 :: s.stilled).foldl (fun s c => s.recoverQps c) s.restoreBlocks
    s.group.joining.foldl (fun s d => s.sendTwinCopies d) s

/-- Where heartbeats go: the watch set, and from a stand-in that is taking over and not in the tree yet, the coordinator, which waits for its
quiet (R376, R384, R389 order 7; log entry 125). -/
def State.heartbeatTo (s : State) : List Nat :=
  if s.group.standby || (s.rank? s.devid).isSome || s.coordinator == s.devid then s.watchSet else insertNat s.coordinator s.watchSet

/-- Heartbeats to the watch set. While FP3 or FP4 restarts alone the last armed one is sent, marked RESTART (R392). -/
def State.sendHeartbeats (s : State) : State :=
  if !s.up 3 || !s.up 4 then
    s.heartbeatTo.foldl (fun s d => s.sendMsg s.groupTag d (.heartbeat s.devid true s.group.lastQuiet)) s
  else
    let s := s.recoverAll
    let s := s.modGroup (fun g => { g with lastQuiet := s.quietMask })
    s.heartbeatTo.foldl (fun s d => s.sendMsg s.groupTag d (.heartbeat s.devid false s.group.lastQuiet)) s

/-- Count silent Bells of the watch set and of the parent. -/
def State.countSilence (s : State) : State :=
  s.modGroup (fun g => { g with
    silent := s.watchSet.map (fun d => (d, Table.get 0 g.silent d + 1))
    parentSilent := g.parentSilent + 1, reported := [] })

/-- Probes and declarations that waited for FP4 (R378, R476). -/
def State.declareWaiting (s : State) : State :=
  let s := (s.group.suspects.filter (fun e => !e.asked)).foldl
    (fun s e => (s.modGroup (fun g => g.modSuspect e.dev (fun e => { e with asked := true }))).probeSuspect e.dev) s
  s.group.suspects.foldl (fun s e => match e.state with | .due p => s.declare e.dev p | .judged => s) s

/-- Has a context a running step whose attempt cannot pass CHECK, and whose abort nobody has asked for? -/
def Ctx.lostOpen (x : Ctx) : Bool := x.steps.any (fun h => h.netLost && !h.lostAsked && h.opened && !h.settled && h.state != .aborted)

/-- An attempt that lost a network access calls for an abort once no unit is suspected any more: a suspect that is declared failed brings
it, and one that is cleared does not (R156, R561; log entry 126). -/
def State.askLost (s : State) : State :=
  if s.suspecting then s
  else (s.contexts.filter (fun c => (s.ctx c).lostOpen)).foldl (fun s c =>
    (s.modCtx c (fun x => { x with steps := x.steps.map (fun h => if h.netLost then { h with lostAsked := true } else h) })).modGroup
      (fun g => { g with abortPending := insertNat (s.ctx c).gtag g.abortPending })) s

/-- The reports asked for since the last Bell, and the abort requests. -/
def State.sendReports (s : State) : State :=
  let s := s.askLost
  let rs := s.group.toReport
  let qs := s.group.abortPending
  let s := s.modGroup (fun g => { g with toReport := [], abortPending := [] })
  let s := rs.foldl (fun s e => s.sendReport e.1 e.2) s
  qs.foldl (fun s q => s.sendAbortRequest q) s

/-- A stand-in joins the vote tree under the ID it adopted, at the resume Bell (R375, R389). -/
def State.joinDue (s : State) : State :=
  if s.contexts.any (fun c => match (s.ctx c).resumeAt with | some b => (s.ctx c).faulted && b ≤ s.bellNow | none => false) ∧
      !s.group.joining.isEmpty then
    let old := s.coordinator
    ((s.modGroup (fun g => { g with
      active := sortNat (s.members ++ g.joining), joining := [], copied := []
      takeovers := g.takeovers.filter (fun t => !g.joining.contains t.dev) })).coordChange old).keepTree
  else s

end Sys2Proof.Machine
end

