-- ==== Sys2Proof/Machine/Power.lean ====
section
/-! DEFINITION. Power, thermal, reset, start-up, sideband and health (R513–R537). -/

namespace Sys2Proof.Machine

/-! Reset and off (R523, R526). -/

/-- The inactive flash slot is invalid when a staging was under way (R488). -/
def Firmware.keep (f : Firmware) : Firmware :=
  { slotA := if f.staging.isSome ∧ f.activeB then {} else f.slotA
    slotB := if f.staging.isSome ∧ !f.activeB then {} else f.slotB
    activeB := f.activeB }

/-- What the security block's non-volatile store and the flash keep over a reset; a staged configuration record takes
effect (R503, R504). -/
def Security.keep (x : Security) : Security :=
  { puf := x.puf, certHash := x.certHash, fwSvn := x.fwSvn, cfgSvn := x.cfgSvn, cfg := x.cfgNext.getD x.cfg, overlay := x.overlay }

/-- A module reset (R526): everything but flash, the non-volatile store, the wear indicators and OFF_REASON goes back to
the state after reset; a PWR_ALERT_N that is recognised low stays so (R552). The interrupt of the change of PHASE goes out under the mask
that was in force (R534). -/
def State.moduleReset (s : State) (reason straps : Nat) : State :=
  let o := if s.phase = 0 then s.out else (s.ibi 3).out
  { State.reset with
    pending := s.pending, out := o, fresh := s.fresh, nextId := s.nextId, slotId := straps
    fw := s.fw.keep, sec := s.sec.keep, pwr := { offReason := reason, alert := s.pwr.alert }, hlth := s.hlth }

/-- The module turns off (R523): only the standby domain stays up. -/
def State.turnOff (s : State) (reason : Nat) (inRange : Bool) : State :=
  if !s.pwr.isOn then { s with pwr := { s.pwr with inRange := inRange } }
  else
    let s := s.ibi 4
    { s.moduleReset reason s.slotId with
      pwr := { isOn := false, inRange := inRange, offReason := reason, tray := s.pwr.tray, dynAddr := s.pwr.dynAddr,
               index := s.pwr.index, ibiMask := s.pwr.ibiMask } }

/-- OFF_REASON codes (R533). -/
def offUndervoltage : Nat := 1
def offOvervoltage : Nat := 2
def offThermal : Nat := 3
def offResetN : Nat := 4
def offSideband : Nat := 5
def offWatchdog : Nat := 6

/-- INPUT_TURN_ON (R513, R526, R529, R530): a power-up; the retention cell survives 10 s. -/
def execInputTurnOn (absent10s : Bool) (straps : Fin 8) (s : State) : Answer :=
  .next (if s.pwr.isOn then s
    else
      let t := s.moduleReset (if absent10s then 0 else s.pwr.offReason) straps
      { t with hlth := { t.hlth with
        cycles := min 65535 (t.hlth.cycles + 1), matings := if absent10s then min 65535 (t.hlth.matings + 1) else t.hlth.matings } })

/-- UNDERVOLTAGE (R513, R523): INPUT_TURN_ON starts the module again. -/
def execUndervoltage (s : State) : Answer := .next (s.turnOff offUndervoltage false)

/-- OVERVOLTAGE (R513, R523): no row says when the input is back in range, and the model takes it as back, so that the sideband is served and
RESET_N starts the module (R532; log entry 130). -/
def execOvervoltage (s : State) : Answer := .next (s.turnOff offOvervoltage true)

/-- RESET_N (R526): it also starts a module that is off while the input is in range (R523). -/
def execResetN (straps : Fin 8) (s : State) : Answer :=
  .next (if s.pwr.inRange then s.moduleReset offResetN straps else s)

/-- POWER_GOOD_TIMEOUT (R527). -/
def execPowerGoodTimeout (s : State) : Answer :=
  .next (if s.pwr.isOn ∧ s.phase = 0 then s.turnOff offUndervoltage true else s)

/-! Events of the power block (R536). -/

/-- PWR_EVENT. The fields of a kind that is not about a domain are free values. -/
def State.powerEvent (s : State) (kind : Nat) (dom : Option (Nat × Nat)) : State :=
  match dom with
  | some d => s.eventAll 0x0120 [(kind, 8), (s.pwr.clk, 4), (d.1, 4), (d.2, 8)]
  | none =>
    let r := s.draw64
    r.2.eventAll 0x0120 [(kind, 8), (s.pwr.clk, 4), (bits r.1 3 0, 4), (bits r.1 11 4, 8)]

def State.modPwr (s : State) (f : Power → Power) : State := { s with pwr := f s.pwr }

/-! Emergencies (R519–R521). -/

/-- Is an emergency in force (R521)? -/
def State.emergency (s : State) : Bool := s.pwr.alert || !s.pwr.trips.isEmpty

/-- Does FP7 wait for a restart (R477)? -/
def State.fw7Stopped (s : State) : Bool := (Table.get {} s.fw.cores 7).state == 2

/-- An emergency begins. An FP7 that is stopped then is held with 1.20 GHz until it runs (R478). It acts at the first Bell that begins at
least 2 µs later: the next one, or the one after it by a free value (log entry 10). -/
def State.startEmergency (s : State) : State :=
  if s.emergency then s
  else
    let r := s.draw64
    r.2.modPwr (fun p => { p with wait := bit r.1 0, latch := true, hold := p.hold || (r.2.fw7Stopped) })

/-- PWR_ALERT (R519). -/
def execPwrAlert (s : State) : Answer :=
  .next (if !s.pwr.isOn || s.pwr.alert then s
    else
      let s := s.startEmergency
      let s := s.modPwr (fun p => { p with alert := true, alerts := min 65535 (p.alerts + 1) })
      (s.powerEvent 0 none).ibi 1)

/-- ALERT_END (R519). -/
def execAlertEnd (s : State) : Answer :=
  .next (if !s.pwr.alert then s
    else ((s.modPwr (fun p => { p with alert := false })).powerEvent 1 none).ibi 1)

/-- Temperature of a domain: 0 die 0, 1 die 1, 2 hub, 3 + s HBM stack s (R520). -/
def tempOf (t : Temps) (d : Nat) : Nat :=
  match d with
  | 0 => t.die0
  | 1 => t.die1
  | 2 => t.hub
  | k + 3 => t.hbm.getD k 0

def domains : List Nat := List.range 11

/-- Trip, clear and shutdown temperatures (R520). -/
def tripAt (d : Nat) : Nat := if d < 3 then 105 else 100
def clearBelow (d : Nat) : Nat := if d < 3 then 100 else 95
def shutdownAt (d : Nat) : Nat := if d < 3 then 115 else 105

/-- A trip of a domain begins. -/
def State.trip (s : State) (d : Nat) : State :=
  if s.pwr.trips.contains d then s
  else
    let s := s.startEmergency
    let s := s.modPwr (fun p => { p with trips := p.trips ++ [d], tripCount := min 65535 (p.tripCount + 1) })
    (s.powerEvent 2 (some (d, tempOf s.pwr.temps d))).ibi 2

/-- SENSOR_READ (R520, R523). -/
def execSensorRead (t : Temps) (s : State) : Answer :=
  .next (if !s.pwr.isOn then s
    else
      let s := s.modPwr (fun p => { p with temps := t })
      if domains.any (fun d => shutdownAt d ≤ tempOf t d) then s.turnOff offThermal true
      else (domains.filter (fun d => tripAt d ≤ tempOf t d)).foldl (fun s d => s.trip d) s)

/-- TRIP_CLEAR (R520). -/
def execTripClear (domain : Nat) (s : State) : Answer :=
  .next (if s.pwr.trips.contains domain ∧ tempOf s.pwr.temps domain < clearBelow domain then
    ((s.modPwr (fun p => { p with trips := p.trips.filter (· != domain) })).powerEvent 3
      (some (domain, tempOf s.pwr.temps domain))).ibi 2
  else s)

/-! The clock (R515–R517, R522). -/

/-- PWR_CAP.CEIL and CAP_W, and PWR_TCFG.T_CAP, in effect. -/
def State.ceilIdx (s : State) : Nat := min 11 (bits (s.regEff 0x300) 23 20)
def State.capW (s : State) : Nat := clampTo 600 1400 (bits (s.regEff 0x300) 10 0)
def State.tCap (s : State) : Nat := clampTo 70 100 (bits (s.regEff 0x310) 7 0)

/-- The effective cap (R515). -/
def State.effCap (s : State) : Nat := min s.capW s.pwr.tray

/-- W of R515 in Bells. -/
def State.capWindow (s : State) : Nat := max 20 ((10000 + s.bellPeriod - 1) / s.bellPeriod)

def mhz (idx : Nat) : Nat := 1750 - 50 * idx

/-- Compute dies and HBM stacks with their ceiling temperatures (R520). -/
def State.ceilings (s : State) : List (Nat × Nat) :=
  (s.pwr.temps.die0, s.tCap) :: (s.pwr.temps.die1, s.tCap) :: s.pwr.temps.hbm.map (fun t => (t, 90))

/-- The thermal ceiling moves by at most one step (R522). -/
def State.moveThermal (s : State) : State :=
  let t := s.pwr.thermal
  let t' :=
    if s.ceilings.any (fun e => e.2 < e.1) then min 11 (t + 1)
    else if s.ceilings.all (fun e => e.1 + 3 ≤ e.2) then t - 1
    else t
  s.modPwr (fun p => { p with thermal := t' })

/-- PWR_STAT.HOT (R522). -/
def State.hot (s : State) : Bool := s.ceilIdx < s.pwr.thermal

/-- predict(f) ≤ target of R516, both sides multiplied out: k = num / den, v = (W − 1) × BELL_PERIOD. -/
def withinTarget (m : PowerMeas) (num den fcur f target excess v : Nat) : Bool :=
  let lhs : Int := (m.pin * den * fcur * v : Nat) - num * m.pc * ((fcur : Int) - f) * v
  let rhs : Int := (target * den * fcur * v : Nat) - (excess * den * fcur : Nat)
  decide (lhs ≤ rhs)

/-- FP7's choice after a Bell (R516, R517): `old` is the clock and `oldCap` the cap of the interval that the Bell ended. Without
rail power there is no factor k: it is a free value. -/
def State.chooseClock (s : State) (m : PowerMeas) (old oldCap : Nat) : State :=
  let x := ((s.pwr.excess : Int) + ((m.pin : Int) - oldCap) * s.bellPeriod).toNat
  let s := s.modPwr (fun p => { p with excess := x })
  if s.emergency then s.modPwr (fun p => { p with next := 11, nextCapped := false })
  else if !s.up 7 then s
  else
    let r := if m.rails = 0 then s.draw64 else (0, s)
    let num := if m.rails = 0 then r.1.toNat else m.pin
    let den := if m.rails = 0 then 1 else m.rails
    let v := (s.capWindow - 1) * s.bellPeriod
    let fits := fun i : Nat => withinTarget m num den (mhz old) (mhz i) s.effCap x v
    let top := max (max s.ceilIdx s.pwr.thermal) (s.pwr.clk - 1)
    let allowed := (List.range 12).filter (fun i => top ≤ i)
    match allowed.find? fits with
    | some i => r.2.modPwr (fun p => { p with next := i, nextCapped := Nat.blt top i })
    | none =>
      let first := !r.2.pwr.unmet
      let s := r.2.modPwr (fun p => { p with next := 11, nextCapped := Nat.blt top 11, unmet := true })
      if first then s.powerEvent 6 none else s

/-- Has a second passed since a Bell (R536)? -/
def State.secondPast (s : State) (b : Option Nat) : Bool :=
  match b with
  | none => true
  | some b => 1000000 ≤ (s.bellNow - b) * s.bellPeriod

/-- PWR_STAT.CAPPED, with its event at most once a second (R536). -/
def State.setCapped (s : State) (c : Bool) : State :=
  if s.pwr.capped = c then s
  else
    let s := s.modPwr (fun p => { p with capped := c })
    if c then
      if s.secondPast s.pwr.onSent then (s.modPwr (fun p => { p with onSent := some s.bellNow })).powerEvent 4 none else s
    else if s.secondPast s.pwr.offSent then (s.modPwr (fun p => { p with offSent := some s.bellNow })).powerEvent 5 none
    else s

/-- Action 2 of a Bell (R32, R519, R521, R478): the clock chosen takes effect, or the standby PLL's 1.20 GHz, also after an emergency that has
ended before this Bell. While FP7 restarts the clock in force holds (R476). -/
def State.applyClock (s : State) : State :=
  if (s.emergency || s.pwr.latch) && !s.pwr.wait || s.pwr.hold then
    (s.modPwr (fun p => { p with clk := 11, next := 11, nextCapped := false, latch := false, wait := false })).setCapped false
  else if !s.up 7 then s.modPwr (fun p => { p with wait := false })
  else ((s.modPwr (fun p => { p with clk := p.next, wait := false })).setCapped s.pwr.nextCapped)

/-- FP7's part after the actions of a Bell: measurements (R518, R535), the thermal ceiling and the choice. While it restarts, telemetry and
choices wait (R476); the energy is counted in hardware. -/
def State.powerTick (s : State) (m : PowerMeas) (old oldCap : Nat) : State :=
  let s := s.modPwr (fun p => { p with energy := p.energy + m.joules, inEffect := s.effCap })
  if !s.up 7 then s.chooseClock m old oldCap
  else (s.modPwr (fun p => { p with meas := m })).moveThermal.chooseClock m old oldCap

/-! Start-up (R500, R527, R528). -/

/-- BOOT_FAILED with its reason (R528). -/
def State.bootFailed (s : State) (why : Nat) : State :=
  (s.modPwr (fun p => { p with bootFail := why })).setPhase 7

/-- Orders 2 and 3 of R500 for one slot. -/
def Bundle.boots (b : Bundle) (svn : Nat) : Bool := b.present && b.sigOk && svn ≤ b.svn && b.fp0Ok

def Firmware.slot (f : Firmware) (isB : Bool) : Bundle := if isB then f.slotB else f.slotA

/-- The checks of the configuration record (R502). -/
def CfgRecord.passes (c : CfgRecord) (svn : Nat) : Bool := c.formOk && c.serialOk && c.sigOk && svn ≤ c.svn

/-- The digest of the remap overlay (R501; log entry 14). -/
def overlayDigest (o : List (Nat × Nat × Nat)) : BitVec 256 := sha256 (Config.overlayBytes o)

/-- Measurement slots of R501 at boot; image kinds of R487 by slot. -/
def bootMeasure (b : Bundle) (c : CfgRecord) (o : List (Nat × Nat × Nat)) : Table (BitVec 256) :=
  (0, Table.get 0 b.hashes 9) :: ((List.range 8).map (fun k => (k + 1, Table.get 0 b.hashes k))) ++
    [(9, c.digest), (10, overlayDigest o)]

/-- Physical croft positions of a die (R23). -/
def diePositions : Nat := 152

/-- The list without repeats, each at its first place. -/
def distinct (xs : List Nat) : List Nat := xs.foldl (fun acc x => if acc.contains x then acc else acc ++ [x]) []

/-- The positions of a die in the order of the record's harvest map: 144 that hold the logical crofts, then the rest. -/
def CfgRecord.order (c : CfgRecord) (die : Nat) : List Nat :=
  distinct (((Config.harvestOrder c.digest die).filter (· < diePositions)) ++ List.range diePositions)

/-- The harvest map of a record for a die, and the good positions it leaves unused, at least two (R22–R24; log entry 6). -/
def CfgRecord.harvest (c : CfgRecord) (die : Nat) : List Nat := (c.order die).take 144
def CfgRecord.spares (c : CfgRecord) (die : Nat) : List Nat :=
  ((c.order die).drop 144).take (2 + Config.harvestGood c.digest die % 7)

/-- Boot loads the harvest map; spares that the overlay has taken are not unused (R22, R25). -/
def Security.loadHarvest (x : Security) : Security :=
  { x with
    harvest := [0, 1].map (fun d => (d, x.cfg.harvest d))
    spares := [0, 1].map (fun d => (d, (x.cfg.spares d).filter (fun p => !x.overlay.any (fun e => e.1 == d && e.2.2 == p)))) }

/-- Registers whose reset value the configuration record gives (R429, R447, R459, R460), but DEVID and the Bell registers. -/
def recordRegs : List Nat := 0x080 :: (List.range 8).map (fun n => 0x040 + 8 * n)

/-- A Record value, or what stands there (log entry 6). -/
def CfgRecord.value (c : CfgRecord) (off : Nat) (old : Reg) : Reg := Table.get old c.values off

/-- What software could write to those registers takes the record's values (R502, R503). -/
def State.loadRecord (s : State) : State :=
  let c := s.sec.cfg
  let put := fun (t : Table Reg) (o : Nat) => if Table.has c.values o then Table.put t o (c.value o 0) else t
  { s with
    devid := (c.value 0x004 (BitVec.ofNat 32 s.devid)).toNat % 2 ^ 16
    bellPeriod := clampTo 50 10000 (c.value 0x020 (BitVec.ofNat 32 s.bellPeriod)).toNat
    bellEpoch := (c.value 0x024 (BitVec.ofNat 32 s.bellEpoch)).toNat + 2 ^ 32 * (c.value 0x028 (BitVec.ofNat 32 (s.bellEpoch / 2 ^ 32))).toNat
    shadow := recordRegs.foldl put s.shadow, eff := recordRegs.foldl put s.eff
    net := { s.net with mac := c.mac } }

/-- Order 4 of R500: the record's checks, its harvest map and values, and CFG_SVN (R502, R503). -/
def State.loadCfg (s : State) : State :=
  { s with sec := { s.sec.loadHarvest with cfgSvn := max s.sec.cfgSvn s.sec.cfg.svn } }.loadRecord

/-- The image of a core in a flash slot (R473, R487). -/
def Firmware.flashImage (f : Firmware) (isB : Bool) (k : Nat) : Image :=
  let b := f.slot isB
  ⟨if isB then 1 else 0, b.version, Table.get 0 b.hashes k, b.catalogue⟩

/-- Order 5 of R500: FP0 loads the images, two copies of each in hub SRAM and one of the other slot, and records their hashes (R473). -/
def Firmware.loadImages (f : Firmware) (isB : Bool) : Firmware :=
  let ks := List.range 8
  let img := f.flashImage isB
  { f with
    cores := ks.map (fun k => (k, { slot := (img k).slot, img := img k }))
    copies := ks.map (fun k => (k, [img k, img k]))
    prev := ks.map (fun k => (k, f.flashImage (!isB) k))
    loads := ks.map (fun k => (k, (img k).hash)) }

/-- Orders 5 and 6 with the slot that boots. The security block draws C0's key (R507). -/
def State.bootFrom (s : State) (isB : Bool) : State :=
  let sec : Security := { s.sec with
    bootSlot := if isB then 1 else 0, fallback := isB != s.fw.activeB
    meas := bootMeasure (s.fw.slot isB) s.sec.cfg s.sec.overlay }
  let key := Config.free256 s.fresh
  ({ s with fresh := s.fresh + 1, sec := sec, fw := s.fw.loadImages isB }.modCtx 0 (fun x => { x with key := key })).setPhase 2

/-- The slots that R500 tries, in order: those that pass orders 2 and 3. -/
def State.bootSlots (s : State) : List Bool :=
  [s.fw.activeB, !s.fw.activeB].filter (fun b => (s.fw.slot b).boots s.sec.fwSvn)

/-- Order 1 of R500: the ROM derives the identity key, whose public key must be the certificate's (R498, R499). -/
def Security.identify (x : Security) : Security := { x with idKey := some x.puf }
def Security.idOk (x : Security) : Bool := sha256 (publicKey x.puf) == x.certHash

/-- BOOT (R500, R528): POWER_GOOD has ended. -/
def execBoot (s : State) : Answer :=
  .next (if !s.pwr.isOn || s.phase != 0 then s
    else
      let s := { s.setPhase 1 with sec := s.sec.identify }
      if !s.sec.idOk then s.bootFailed 1
      else if s.bootSlots.isEmpty then s.bootFailed 2
      else if !s.sec.cfg.passes s.sec.cfgSvn then s.bootFailed 3
      else
        let s := s.loadCfg
        match s.bootSlots.find? (fun b => (s.fw.slot b).imagesOk) with
        | some b => s.bootFrom b
        | none => s.bootFailed 2)

/-- BELL_ALIGN at start-up (R527): by now the firmware has set its own semaphores (R252). -/
def State.align (s : State) : State :=
  (s.firmwareTick.modPwr
    (fun p => { p with clk := 11, next := 11, nextCapped := false, excess := 0 })).setPhase 5

/-- PTP_LOCK: it ends at once when time is locked or the module is grandmaster. -/
def State.lockTime (s : State) : State :=
  let s := s.setPhase 4
  if s.net.ptpState = 1 ∨ s.net.ptpState = 3 then s.align else s

def State.setSub (s : State) (port sub : Nat) (x : Subport) : State :=
  { s with net := { s.net with subs := Table.put s.net.subs (4 * port + sub) x } }

/-- How a subport of a port trains (R417, R418): C2M does not negotiate; KR and CR do when AN is 1. -/
def State.trainMode (s : State) (port : Nat) : TrainMode :=
  if min 2 (bits (s.portReg port) 28 27) = 2 then .module else if bit (s.portReg port) 26 then .negotiate else .preset

/-- FP2 starts training a subport (R418). -/
def State.train (s : State) (port sub : Nat) : State := s.send (.linkTrain port sub (s.trainMode port))

/-- Has every enabled subport link? -/
def State.allLinks (s : State) : Bool := s.enabledSubs.all (fun e => (s.sub e.1 e.2).up)

/-- HBM_TRAIN_DONE (R527): LINK_UP begins, and every enabled subport trains. -/
def execHbmTrainDone (ok : Bool) (s : State) : Answer :=
  .next (if s.phase != 2 then s
    else if !ok then s.bootFailed 4
    else
      let s := s.setPhase 3
      let s := s.enabledSubs.foldl (fun s e => s.train e.1 e.2) s
      if s.allLinks then s.lockTime else s)

/-- LINK_UP_TIMEOUT (R527): the phase ends with the links that are up. -/
def execLinkUpTimeout (s : State) : Answer := .next (if s.phase = 3 then s.lockTime else s)

/-- Link training has corrected P/N inversion on each receive lane where AN is 1 (R545). Which pairs the board inverts is no input of the
row: a free mask of the subport's lanes. Without AN none is corrected. -/
def State.correctLanes (s : State) (port sub : Nat) : State :=
  match s.trainMode port with
  | .negotiate =>
    let r := s.draw64
    r.2.setSub port sub { r.2.sub port sub with polarity := bits r.1 3 0 % 2 ^ (4 / s.subports port) }
  | _ => s.setSub port sub { s.sub port sub with polarity := 0 }

/-- LINK_UP (R418, R527, R545). -/
def execLinkUp (port sub : Nat) (s : State) : Answer :=
  .next (if s.phase < 3 ∨ s.phase = 7 ∨ !s.enabledSubs.contains (port, sub) then s
    else
      let s := s.correctLanes port sub
      let s := s.setSub port sub { s.sub port sub with up := true }
      if s.phase = 3 ∧ s.allLinks then s.lockTime else s)

/-- LINK_DOWN (R451): FP2 restarts training; what is queued stays queued. -/
def execLinkDown (port sub : Nat) (s : State) : Answer :=
  .next (if !(s.sub port sub).up then s
    else (s.setSub port sub { s.sub port sub with up := false, paused := [] }).train port sub)

/-! The sideband (R532–R534). -/

/-- Is the sideband served: the input is in range? -/
def State.sideband (s : State) : Bool := s.pwr.inRange

/-- SETDASA (R532): the static address is 0x30 plus the slot ID. -/
def execSetdasa (static dynamic : Nat) (s : State) : Answer :=
  .next (if s.sideband ∧ static = 0x30 + s.slotId ∧ s.pwr.dynAddr.isNone then
    s.modPwr (fun p => { p with dynAddr := some dynamic }) else s)

/-- ENTDAA (R532). -/
def execEntdaa (dynamic : Nat) (s : State) : Answer :=
  .next (if s.sideband ∧ s.pwr.dynAddr.isNone then s.modPwr (fun p => { p with dynAddr := some dynamic }) else s)

/-- A write of 4 bytes to a sideband register (R533, R534). -/
def Power.sidebandPut (p : Power) (index : Nat) (v : Reg) : Power :=
  match index with
  | 0x10 => { p with tray := clampTo 600 1400 (bits v 10 0), armed := false }
  | 0x11 => { p with armed := v == 0x0000A55A }
  | 0x12 => { p with ibiMask := v.toNat &&& 0x1E, armed := false }
  | _ => { p with armed := false }

/-- SIDEBAND_WRITE (R533): one byte selects an index, four more write its register. -/
def execSidebandWrite (index : Nat) (v : Option Reg) (s : State) : Answer :=
  .next (if !s.sideband || s.pwr.dynAddr.isNone then s
    else match v with
      | some v => s.modPwr (fun p => { p.sidebandPut (index % 256) v with index := index % 256 })
      | none => s.modPwr (fun p => { p with index := index % 256 }))

/-- SIDEBAND_RESET (R533): the second word arrives within 1 ms of the first. A module that is off stays off (R523). -/
def execSidebandReset (straps : Fin 8) (s : State) : Answer :=
  .next (if s.sideband ∧ s.pwr.isOn ∧ s.pwr.armed then s.moduleReset offSideband straps else s)

/-! Health (R529–R531). -/

def State.modHealth (s : State) (f : Health → Health) : State := { s with hlth := f s.hlth }

/-- RING_OSCILLATOR_MEASURE (R529): hourly, so it also counts the powered hours. -/
def execRingOscillatorMeasure (drift0 drift1 : Int) (s : State) : Answer :=
  .next (if !s.pwr.isOn then s
    else s.modHealth (fun h => { h with drift0 := drift0, drift1 := drift1, hours := h.hours + 1 }))

/-- Keep the last 30 daily values, newest first. -/
def addDaily (v : Int) (vs : List Int) : List Int := (v :: vs).take 30

/-- Days until the least-squares line of 30 daily values (newest first) reaches the limit, rounded down; none when its slope does
not move toward the limit (R531). With x = 0 … 29 from the oldest, 12 Sxx = 26,970 and the line passes the mean at 14.5. -/
def lineDays (up : Bool) (limit : Int) (vs : List Int) : Option Nat :=
  if vs.length < 30 then none
  else
    let ys := vs.reverse
    let sum := ys.foldl (· + ·) 0
    let sxy := ((List.range 30).map (fun (i : Nat) => (2 * ((i : Nat) : Int) - 29) * ys.getD i 0)).foldl (· + ·) 0
    let slope := if up then sxy else -sxy
    if slope ≤ 0 then none
    else
      let gap := if up then 30 * limit - sum else sum - 30 * limit
      some ((4495 * gap - 435 * slope) / (30 * slope)).toNat

/-- The count at the newest update at least 30 days of PTP time old, or 0 (R531). -/
def countBefore (now : Nat) (log : List (Nat × Nat)) : Nat :=
  match log.find? (fun e => e.1 + 30 * 86400 * 10 ^ 9 ≤ now) with
  | some e => e.2
  | none => 0

/-- Days until a count reaches its limit (R531). -/
def countDays (now limit count : Nat) (log : List (Nat × Nat)) : Option Nat :=
  let diff := count - countBefore now log
  if diff = 0 then none else some ((limit - count) * 30 / diff)

/-- The smallest estimate with its LIMITER code. -/
def bestEstimate : List (Nat × Option Nat) → Option (Nat × Nat)
  | [] => none
  | (code, e) :: es =>
    match e, bestEstimate es with
    | some d, some b => if d ≤ b.1 then some (d, code) else some b
    | some d, none => some (d, code)
    | none, b => b

/-- PTP time at the current Bell in ns (R450). -/
def State.ptpTime (s : State) : Nat := s.bellEpoch + s.bellNow * s.bellPeriod * 1000

/-- Index and value of the worst entry of a list, by an order. -/
def worstOf (worse : Nat → Nat → Bool) (vs : List Nat) (d : Nat) : Nat × Nat :=
  (List.zip (List.range vs.length) vs).foldl
    (fun (b : Nat × Nat) (e : Nat × Nat) => if worse e.2 b.2 then e else b) (0, vs.headD d)

/-- The daily values of the measured indicators (R529). -/
def Health.takeDaily (h : Health) (now : Nat) (ce eye : List Nat) : Health :=
  let c := worstOf (fun a b => decide (b < a)) ce 0
  let e := worstOf (fun a b => decide (a < b)) eye 100
  let put := fun (t : Table (List Int)) (k : Nat) (v : Int) => Table.put t k (addDaily v (Table.get [] t k))
  { h with
    stack := c.1, ce24 := min (2 ^ 28 - 1) c.2, ceStacks := ce, lane := e.1, eye := e.2, eyeLanes := eye, dailyAt := h.hours
    daily := put (put (put (put h.daily 1 h.drift0) 2 h.drift1) 3 c.2) 4 e.2
    cycleLog := (now, h.cycles) :: h.cycleLog, matingLog := (now, h.matings) :: h.matingLog }

/-- DAYS and LIMITER (R529, R531): drift in units of 0.001%. -/
def Health.estimate (h : Health) (now : Nat) : Health :=
  let d := fun k : Nat => Table.get [] h.daily k
  match bestEstimate
      [(1, lineDays true 5000 (d 1)), (2, lineDays true 5000 (d 2)), (3, lineDays true 10000 (d 3)),
       (4, lineDays false 40 (d 4)), (5, countDays now 20000 h.cycles h.cycleLog), (6, countDays now 200 h.matings h.matingLog)] with
  | some b => { h with days := min 65534 b.1, limiter := b.2 }
  | none => { h with days := 65535, limiter := 0 }

/-- HEALTH_DAILY_UPDATE (R531): after each 24 powered hours. -/
def execHealthDailyUpdate (ce24 : List Nat) (eye : List Nat) (s : State) : Answer :=
  .next (if !s.pwr.isOn || !s.up 6 || s.hlth.hours < s.hlth.dailyAt + 24 then s
    else
      let before := s.hlth.days
      let s := s.modHealth (fun h => (h.takeDaily s.ptpTime ce24 eye).estimate s.ptpTime)
      if 90 ≤ before ∧ s.hlth.days < 90 then s.eventAll 0x0121 [(s.hlth.days, 16), (s.hlth.limiter, 4)] else s)

end Sys2Proof.Machine
end

