-- ==== Sys2Proof/Machine/Window.lean ====
section
/-! DEFINITION. What a READ of the register window returns (R395, R459, R461, and the chapters of each register), and the other
windows that inbound RDMA reads (R253, R402, R404). -/

namespace Sys2Proof.Machine

def flag (b : Bool) (i : Nat) : Nat := if b then 2 ^ i else 0

/-- The low and high words of a 64-bit value. -/
def lo32 (v : Nat) : Nat := v % 2 ^ 32
def hi32 (v : Nat) : Nat := v / 2 ^ 32 % 2 ^ 32

/-- A signed field of `w` bits. -/
def signedField (w : Nat) (v : Int) : Nat := (BitVec.ofInt w v).toNat

/-- NET_PSTATn (R429). -/
def State.readPort (s : State) (n : Nat) : Nat :=
  flag (s.net.ignored.contains n) 31 + flag (s.net.storm.contains n) 30 +
    ((List.range 4).foldl (fun m k => m + flag (s.sub n k).up (26 + k)) 0) + min 65535 (Table.get 0 s.net.fecUncorr n)

/-- NET_PTPSTAT (R447). -/
def State.readPtp (s : State) : Nat :=
  s.net.ptpState * 2 ^ 30 + flag s.net.ppsOk 29 + signedField 24 (clampInt (-8388607) 8388607 s.net.offset)

/-- GLB_REEVE (R382): COORD reads 0 while the module knows of no group. -/
def State.readReeve (s : State) : Nat :=
  flag (s.isCoordinator && !s.group.active.isEmpty) 31 + flag s.isDeputy 30 + flag s.group.fenced 29 + flag s.group.standby 28 +
    min 4096 s.group.suspects.length * 2 ^ 15 + s.group.drops

/-! Firmware registers (R480). -/

def State.core (s : State) (k : Nat) : Core := Table.get {} s.fw.cores k

/-- The version of the image a core runs. -/
def State.coreVersion (s : State) (k : Nat) : Word := (s.core k).img.version

/-- FW_VER: the lowest version that any of FP1–FP7 runs. -/
def State.fwVersion (s : State) : Nat :=
  [2, 3, 4, 5, 6, 7].foldl (fun m k => min m (s.coreVersion k).toNat) (s.coreVersion 1).toNat

/-- FW_UPD.MIXED: FP1–FP7 run images from two slots (R492). -/
def State.fwMixed (s : State) : Bool := [2, 3, 4, 5, 6, 7].any (fun k => (s.core k).slot != (s.core 1).slot)

def coreMask (ks : List Nat) : Nat := ks.foldl (fun m k => m ||| 2 ^ k) 0

def State.readFw (s : State) (o : Nat) : Nat :=
  if o < 0x120 then
    let x := s.core ((o - 0x100) / 4)
    x.state * 2 ^ 28 + x.reason * 2 ^ 24 + x.slot * 2 ^ 16 + min 65535 x.restarts
  else if 0x160 ≤ o ∧ o < 0x178 then (s.reg o).toNat
  else match o with
    | 0x120 => lo32 s.fwVersion
    | 0x124 => hi32 s.fwVersion
    | 0x128 => lo32 s.fw.stg.toNat
    | 0x12C => hi32 s.fw.stg.toNat
    | 0x130 => s.fw.updState * 2 ^ 28 + s.fw.updResult * 2 ^ 24 + flag s.fwMixed 23 + coreMask s.fw.onStaged
    | 0x140 => (s.reg 0x140).toNat
    | 0x144 => lo32 s.fw.logSeq
    | 0x148 => hi32 s.fw.logSeq
    | 0x14C => min (2 ^ 32 - 1) s.fw.logLost
    | 0x150 => (s.reg 0x150).toNat + flag s.fw.trcFull 29
    | 0x154 => lo32 s.fw.trcSeq
    | 0x158 => hi32 s.fw.trcSeq
    | 0x15C => min (2 ^ 32 - 1) s.fw.trcLost
    | _ => 0

/-- SEC_ registers (R511). -/
def State.readSec (s : State) (o : Nat) : Nat :=
  let used := fun d : Nat => (s.sec.overlay.filter (fun e => e.1 == d)).length
  match o with
  | 0x200 => flag s.sec.debug 31 + flag s.sec.nonce.isSome 30 + s.sec.dbgFail * 2 ^ 26 + s.sec.bootSlot * 2 ^ 25 +
      flag s.sec.fallback 24 + used 0 * 2 ^ 20 + used 1 * 2 ^ 16
  | 0x204 => s.sec.fwSvn
  | 0x208 => s.sec.cfgSvn
  | 0x20C => lo32 Config.serial.toNat
  | 0x210 => hi32 Config.serial.toNat
  | _ => 0

/-- PWR_THERM's byte of a domain (R535). -/
def hottest (ts : List Nat) : Nat := min 255 (ts.foldl max 0)

/-- PWR_ registers (R535). -/
def State.readPwr (s : State) (o : Nat) : Nat :=
  match o with
  | 0x300 => (s.reg 0x300).toNat
  | 0x304 => s.pwr.clk * 2 ^ 28 + flag s.pwr.capped 27 + flag s.pwr.alert 26 + flag (!s.pwr.trips.isEmpty) 25 +
      flag s.hot 24 + flag s.pwr.unmet 23 + flag s.pwr.hold 22 + min 2047 s.pwr.meas.pin
  | 0x308 => min 65535 s.pwr.meas.iin * 2 ^ 16 + min 65535 s.pwr.meas.vin
  | 0x30C => hottest [s.pwr.temps.die0] * 2 ^ 24 + hottest [s.pwr.temps.die1] * 2 ^ 16 + hottest [s.pwr.temps.hub] * 2 ^ 8 +
      hottest s.pwr.temps.hbm
  | 0x310 => (s.reg 0x310).toNat
  | 0x314 => s.pwr.alerts * 2 ^ 16 + s.pwr.tripCount
  | 0x318 => s.pwr.tray
  | 0x31C => lo32 s.pwr.energy
  | 0x320 => hi32 s.pwr.energy
  | _ => 0

/-- HLTH_ registers (R535). -/
def State.readHlth (s : State) (o : Nat) : Nat :=
  let h := s.hlth
  match o with
  | 0x400 => flag (Nat.blt h.days 90) 31 + h.limiter * 2 ^ 16 + h.days
  | 0x404 => signedField 16 h.drift1 * 2 ^ 16 + signedField 16 h.drift0
  | 0x408 => h.stack % 16 * 2 ^ 28 + h.ce24
  | 0x40C => h.lane % 32 * 2 ^ 27 + h.eye % 256
  | 0x410 => h.matings * 2 ^ 16 + h.cycles
  | 0x414 => h.hours
  | _ => 0

/-- A word of the global page (R459). -/
def State.readGlobal (s : State) (o : Nat) : Nat :=
  if 0x040 ≤ o ∧ o < 0x080 then (if o % 8 = 0 then (s.reg o).toNat else s.readPort ((o - 0x044) / 8))
  else if 0x100 ≤ o ∧ o < 0x200 then s.readFw o
  else if 0x200 ≤ o ∧ o < 0x300 then s.readSec o
  else if 0x300 ≤ o ∧ o < 0x400 then s.readPwr o
  else if 0x400 ≤ o ∧ o < 0x500 then s.readHlth o
  else match o with
    | 0x000 => 0x4081B000
    | 0x004 => s.devid % 2 ^ 16
    | 0x008 => flag s.glbIgnored 31 + s.phase
    | 0x00C => coreMask s.contexts * 2 ^ 16 + coreMask s.openSessions
    | 0x010 => featDevice.toNat
    | 0x014 => 0x00020001
    | 0x018 => (s.reg 0x018).toNat
    | 0x01C => s.readReeve
    | 0x020 => s.bellPeriod
    | 0x024 => lo32 s.bellEpoch
    | 0x028 => hi32 s.bellEpoch
    | 0x02C => lo32 s.bellNow
    | 0x030 => hi32 s.bellNow
    | 0x080 => (s.reg 0x080).toNat
    | 0x084 => s.readPtp
    | _ => 0

/-- Has BOOT ended, so that the sideband shows the serial number (R527, R533)? BOOT_FAILED of the HBM training comes after it
(log entry 85). -/
def State.bootEnded (s : State) : Bool := 2 ≤ s.phase && (s.phase != 7 || s.pwr.bootFail == 4)

/-- What a private read of the selected sideband register returns (R533). -/
def State.readSideband (s : State) : Reg :=
  BitVec.ofNat 32 (match s.pwr.index with
    | 0x00 => 0x4081B000
    | 0x01 => s.phase + s.pwr.bootFail * 2 ^ 8 + s.pwr.offReason * 2 ^ 12 + flag s.pwr.alert 16 +
        flag (!s.pwr.trips.isEmpty) 17 + flag s.hot 18
    | 0x02 => s.readPwr 0x308
    | 0x03 => s.readPwr 0x304
    | 0x04 => s.readPwr 0x30C
    | 0x05 => s.readHlth 0x400
    | 0x06 => if s.bootEnded then lo32 Config.serial.toNat else 0
    | 0x07 => if s.bootEnded then hi32 Config.serial.toNat else 0
    | 0x08 => s.devid % 2 ^ 16 + s.slotId * 2 ^ 16
    | 0x10 => s.pwr.tray
    | 0x12 => s.pwr.ibiMask
    | _ => 0)

/-! The context page (R461). -/

def SesState.code : SesState → Nat
  | .none => 0
  | .opened => 1
  | .detached => 2
  | .releasing => 3

/-- LED_STATUS (R368). -/
def Ctx.readLed (x : Ctx) : Nat :=
  flag x.stuck 31 + flag x.ledIgnored 30 +
    (match x.steps with | h :: _ => h.attempt % 4 * 2 ^ 28 + h.state.code * 2 ^ 24 | [] => 0) +
    min 4 x.steps.length * 2 ^ 20 + x.aborts

/-- NUM_APPLY (R286). -/
def Ctx.readApply (x : Ctx) : Nat := flag x.pendingSet.isSome 31 + x.applyResult * 2 ^ 29 + (x.reg 0x078).toNat

/-- NUM_ERUNGk: the rung state of the newest opened step (R291). -/
def Ctx.readErung (x : Ctx) (k : Nat) : Nat :=
  (List.range 16).foldl (fun m j => m + rungOf x.rungs (16 * k + j) * 2 ^ (2 * j)) 0

def Ctx.satHold (x : Ctx) : Nat := x.holdNaks * 2 ^ 16 + x.holdPeak * 2 ^ 8

/-- Registers of a context page that the module alone writes, or keeps part of. -/
def State.readOwn (s : State) (c : Nat) (x : Ctx) (o : Nat) : Nat :=
  match o with
  | 0x000 => (x.reg 0x000).toNat + flag x.sesIgnored 2 + x.ses.state.code
  | 0x00C => x.ses.done * 2 ^ 16
  | 0x010 => (x.reg 0x010).toNat
  | 0x014 => x.featActive.toNat
  | 0x018 => x.ses.head
  | 0x020 => x.ses.lost
  | 0x024 => s.haltedCrofts c * 2 ^ 16 + flag x.parked 1 + flag (c == s.resident) 0
  | 0x030 => x.ovrF
  | 0x034 => x.ovrB
  | 0x038 => x.ovrU
  | 0x040 => flag x.satSeen 31 + x.satAddr
  | 0x044 => x.satHold
  | 0x054 => x.readLed
  | 0x058 => lo32 x.lastCmt
  | 0x05C => hi32 x.lastCmt
  | 0x060 => lo32 (x.region / 65536)
  | 0x078 => x.readApply
  | 0x088 => x.skips
  | 0x298 => x.xsatBlocks * 2 ^ 16 + x.xnonfin
  | 0x29C => x.xerr
  | 0x380 => x.genMap * 2 + x.genState
  | 0x394 => x.pfbKept * 2 ^ 16 + x.pfbElem
  | 0x398 => x.pfbTot
  | 0x39C => flag x.millIgnored 31 + flag x.millSkipped 30 + min 1024 x.shards.length
  | _ => 0

/-- Registers of a context page whose every field software writes. -/
def ctxPlain (o : Nat) : Bool :=
  [0x004, 0x01C, 0x048, 0x050, 0x070, 0x074, 0x07C, 0x080, 0x084, 0x280, 0x284, 0x288, 0x28C, 0x290, 0x294,
   0x384, 0x388, 0x38C, 0x390].contains o ||
  (0x100 ≤ o && o < 0x200) || (0x300 ≤ o && o < 0x380)

/-- A word of the page of context c. -/
def State.readCtx (s : State) (c o : Nat) : Nat :=
  let x := s.ctx c
  if ctxPlain o then (x.reg o).toNat
  else if 0x200 ≤ o ∧ o < 0x280 then x.readErung ((o - 0x200) / 4)
  else s.readOwn c x o

/-- The page that a window offset lies in: the global page, or a context's. -/
def pageOf (off : Nat) : Option Nat := if off < 0x10000 then none else some (off / 0x10000 - 1)

/-- One word of the register window as it stands: a register, mailbox bytes, or 0 (R455, R457). -/
def State.liveWord (s : State) (off : Nat) : Reg :=
  let o := off % 0x10000
  BitVec.ofNat 32 (match pageOf off with
    | none => if o < 0x1000 then s.readGlobal o else 0
    | some c =>
      if !(s.ctx c).exist then 0
      else if o < 0x1000 then s.readCtx c o
      else if o < 0x1200 then leNat (Memory.readBytes (s.ctx c).ses.mbox (o - 0x1000) 4)
      else 0)

/-! Who owns a register (R472). -/

/-- The core that owns a register; MILL_ registers other than MILL_GEN and TALLY_ registers belong to FP1. -/
def ownerOf (off : Nat) : Nat :=
  let o := off % 0x10000
  if off < 0x10000 then
    (if o = 0x01C then 4
    else if 0x040 ≤ o ∧ o < 0x088 then 2
    else if 0x100 ≤ o ∧ o < 0x200 ∨ 0x400 ≤ o ∧ o < 0x500 then 6
    else if 0x200 ≤ o ∧ o < 0x300 then 0
    else if 0x300 ≤ o ∧ o < 0x400 then 7
    else 1)
  else if 0x050 ≤ o ∧ o < 0x064 ∨ o = 0x380 then 3
  else if 0x070 ≤ o ∧ o < 0x08C ∨ 0x100 ≤ o ∧ o < 0x280 then 5
  else if 0x280 ≤ o ∧ o < 0x380 then 2
  else 1

/-- Offsets in the global page, and in a context page, of the registers that the module itself changes. -/
def liveGlobal : List Nat :=
  [0x004, 0x008, 0x00C, 0x01C, 0x020, 0x024, 0x028, 0x02C, 0x030, 0x084] ++ (List.range 8).map (fun n => 0x044 + 8 * n) ++
  (List.range 8).map (fun n => 0x100 + 4 * n) ++ [0x120, 0x124, 0x128, 0x12C, 0x130, 0x144, 0x148, 0x14C, 0x150, 0x154, 0x158, 0x15C] ++
  [0x304, 0x308, 0x30C, 0x314, 0x318, 0x31C, 0x320, 0x400, 0x404, 0x408, 0x40C, 0x410, 0x414]

def livePage : List Nat :=
  [0x000, 0x00C, 0x014, 0x018, 0x020, 0x024, 0x030, 0x034, 0x038, 0x040, 0x044, 0x050, 0x054, 0x058, 0x05C, 0x060, 0x078, 0x088] ++
  (List.range 32).map (fun k => 0x200 + 4 * k) ++ [0x298, 0x29C, 0x380, 0x394, 0x398, 0x39C]

/-- The registers of a core that the module changes, by window offset. -/
def State.liveRegs (s : State) (k : Nat) : List Nat :=
  (liveGlobal ++ s.contexts.flatMap (fun c => livePage.map (fun o => (c + 1) * 0x10000 + o))).filter (fun o => ownerOf o == k)

/-- The last shadow copies of a core's registers (R458). -/
def State.shadowCopies (s : State) (k : Nat) : Table Reg := (s.liveRegs k).map (fun o => (o, s.liveWord o))

/-- One word that a READ of the window returns: while the register's core restarts, its last shadow copy (R458, R476). -/
def State.readWord (s : State) (off : Nat) : Reg :=
  if s.up (ownerOf off) then s.liveWord off else Table.get (s.liveWord off) (Table.get [] s.fw.frozen (ownerOf off)) off

/-- Bytes of the register window, whole words. -/
def State.readWindow (s : State) (off words : Nat) : List Byte :=
  (List.range words).flatMap (fun i => leBytes 4 (s.readWord (off + 4 * i)).toNat)

/-! Other windows. -/

/-- A count in the Tally window; a nonexistent semaphore reads 0 (R253, R395). Context indices show the context whose
semaphores the bank holds. -/
def State.tallyWord (s : State) (a : Nat) : Nat :=
  let last := if a / 2 ^ 22 = 2 then 16383 else 65535
  if a / 2 ^ 22 < 3 ∧ a % 2 ^ 22 ≤ last then signedField 32 (s.tally.count a) else 0

/-- A log record in its 64 bytes (R482); NS and the arguments are the firmware's. -/
def LogRec.bytes (r : LogRec) : List Byte :=
  leBytes 8 r.bell ++ leBytes 8 r.seq ++ (List.range 4).map (fun i => Config.windowByte (r.seq * 64 + 16 + i)) ++
    leBytes 1 (r.src + 8 * r.level) ++ leBytes 1 r.ctx ++ leBytes 2 r.code ++
    (List.range 40).map (fun i => Config.windowByte (r.seq * 64 + 24 + i))

/-- A trace record in its 32 bytes (R485). -/
def TraceRec.bytes (r : TraceRec) : List Byte :=
  leBytes 8 r.bell ++ (List.range 4).map (fun i => Config.windowByte (2 ^ 70 + r.seq * 32 + 8 + i)) ++ leBytes 2 r.id ++
    leBytes 1 r.src ++ (List.range 17).map (fun i => Config.windowByte (2 ^ 70 + r.seq * 32 + 15 + i))

/-- A statistics record in its 64 bytes (R101). -/
def StatRec.bytes (r : StatRec) : List Byte :=
  leBytes 8 r.step ++ leBytes 3 r.tid ++ leBytes 1 (r.fmt + 16 * r.blk + 64 * r.mode) ++ leBytes 2 r.croft ++ leBytes 2 r.seq ++
    leBytes 8 r.elements ++ leBytes 8 r.zeros ++ leBytes 4 r.saturated ++ leBytes 4 r.nonfinite ++ leBytes 4 r.underflow ++
    leBytes 2 r.satblk ++ leBytes 2 r.cometOvf ++ leBytes 4 r.extracted ++
    leBytes 1 (r.round + 4 * r.rotate + flag r.countSat 5 + 64 * (r.attempt % 4)) ++ leBytes 1 0 ++
    leBytes 5 r.amax.toNat ++ leBytes 5 r.errsq.toNat

def logSlots : Nat := 1048576
def traceSlots : Nat := 6291456

/-- A byte of the statistics rings: context c, die d at (2c + d) × 8 MiB, 64 bytes a slot (R404). A slot without a record holds a
free byte (log entry 14). -/
def State.statByte (s : State) (w : Nat) : Byte :=
  let ring := w / 0x800000
  let x := s.ctx (ring / 2)
  match (if ring % 2 = 0 then x.rings.1 else x.rings.2).find? (fun e => e.1 == w % 0x800000 / 64) with
  | some e => e.2.bytes.getD (w % 64) 0
  | none => Config.windowByte (s.fresh * 2 ^ 100 + 2 ^ 96 + w)

/-- A record of the Ledger ring as numbers. -/
def LedRecord.nats (r : LedRecord) : List Nat :=
  [r.step, r.attempt, (match r.stage with | .fresh => 0 | .rescaled => 1 | .climbed => 2), r.outcome, r.skipWhy, r.progVer.toNat] ++
    r.fallbacks.flatMap (fun e => [e.1, if e.2 then 1 else 0])

/-- A byte of the Ledger record rings: context c at c × 1 MiB (R401, R404). -/
def State.ledgerByte (s : State) (w : Nat) : Byte :=
  Config.ledgerByte ((s.ctx (w / 0x100000)).records.map LedRecord.nats) (w % 0x100000)

/-- One byte of the window of R404. -/
def State.systemByte (s : State) (w : Nat) : Byte :=
  if w < 0x4000000 then
    (match s.fw.logRing.find? (fun r => r.seq % logSlots == w / 64) with
    | some r => r.bytes.getD (w % 64) 0
    | none => 0)
  else if w < 0x10000000 then
    (match s.fw.trcRing.find? (fun r => r.seq % traceSlots == (w - 0x4000000) / 32) with
    | some r => r.bytes.getD (w % 32) 0
    | none => 0)
  else if w < 0x11000000 then s.ledgerByte (w - 0x10000000)
  else s.statByte (w - 0x11000000)

/-- The system-area address of the window's byte, and the context and croft whose save area an HBM range lies in (R402). -/
def saveAreaOf (a len : Nat) : Option (Nat × Nat) :=
  let o := a % dieBytes
  let i := o - systemOffset
  let size := 4352 * 1024
  let per := 612 * 2 ^ 20
  if hbmEnd ≤ a ∨ o < systemOffset ∨ 16 * per ≤ i then none
  else if i % per + len ≤ 144 * size ∧ i % per % size + len ≤ size then some (i / per, a / dieBytes * 144 + i % per / size)
  else none

/-- Where the save area of a context and croft lies (R402). -/
def saveAddr (c l : Nat) : Nat := l / 144 * dieBytes + systemOffset + c * (612 * 2 ^ 20) + l % 144 * (4352 * 1024)

/-- What the system areas hold (R401): an address names a part and an offset in it, of a context, or of a queue pair. The regions that
R404 shows in a window name their offset there. -/
inductive AreaPart where
  | save (c l o : Nat)
  | image (c bank o : Nat)
  | qp (n o : Nat)
  | stats (c w : Nat)
  | numerics (c o : Nat)
  | ledger (c w : Nat)
  | firmware (o : Nat)
  | logs (w : Nat)
  | reserved (d o : Nat)
deriving DecidableEq, Repr

/-- The part behind the save areas that an offset of die `d`'s system area lies in (R401). -/
def partAt (d o : Nat) : AreaPart :=
  if 0x264000000 ≤ o ∧ o < 0x264400000 then .image ((o - 0x264000000) / 0x40000) d (o % 0x40000)
  else if d = 0 ∧ 0x264400000 ≤ o ∧ o < 0x264500000 then .image ((o - 0x264400000) / 0x10000) 2 (o % 0x10000)
  else if 0x265000000 ≤ o ∧ o < 0x26D000000 then .qp (d * 524288 + (o - 0x265000000) / 256) (o % 256)
  else if 0x26D000000 ≤ o ∧ o < 0x275000000 then
    let c := (o - 0x26D000000) / 0x800000
    .stats c (0x11000000 + (2 * c + d) * 0x800000 + o % 0x800000)
  else if 0x275000000 ≤ o ∧ o < 0x296000000 then
    .numerics (2 * ((o - 0x275000000) / (66 * 2 ^ 20)) + d) ((o - 0x275000000) % (66 * 2 ^ 20))
  else if d = 0 ∧ 0x296000000 ≤ o ∧ o < 0x297000000 then .ledger ((o - 0x296000000) / 0x100000) (0x10000000 + (o - 0x296000000))
  else if d = 0 ∧ 0x297000000 ≤ o ∧ o < 0x2A7000000 then .firmware (o - 0x297000000)
  else if d = 0 ∧ 0x2A7000000 ≤ o ∧ o < 0x2B7000000 then .logs (o - 0x2A7000000)
  else .reserved d o

/-- What a device address of HBM holds when it lies in a system area. -/
def areaPart (a : Nat) : Option AreaPart :=
  if hbmEnd ≤ a ∨ a % dieBytes < systemOffset then none
  else match saveAreaOf a 1 with
    | some cl => some (.save cl.1 cl.2 ((a % dieBytes - systemOffset) % (612 * 2 ^ 20) % (4352 * 1024)))
    | none => some (partAt (a / dieBytes) (a % dieBytes - systemOffset))

/-- The device address under which a byte of a ring is kept, when software has put another value there: that of its window (R404). -/
def AreaPart.home (a : Nat) : AreaPart → Nat
  | .stats _ w | .ledger _ w | .logs w => windowBase + w
  | _ => a

/-- The context that a part belongs to, where R401 gives it to one. -/
def State.partOwner (s : State) : AreaPart → Option Nat
  | .save c _ _ | .image c _ _ | .stats c _ | .numerics c _ | .ledger c _ => some c
  | .qp n _ => some (s.qp n).ctx
  | _ => none

/-- Where a byte of the sets' part of a save area lies: 10 KiB an array, set 0 before set 1, each an A40 record (R62, R160; the order is
the model's reading, log entry 14). -/
def AccSet.byte (x : AccSet) (o : Nat) : Byte := (leBytes 5 (x.totals.getD (o / 5) 0).toNat).getD (o % 5) 0

def Croft.setByte (x : Croft) (o : Nat) : Byte :=
  let a := Table.get {} x.arrays (o / 10240)
  (if o % 10240 < 5120 then a.set0 else a.set1).byte (o % 5120)

/-- A byte of the chunk registers' part: 4 KiB an array (R160). -/
def Croft.chunkByte (x : Croft) (o : Nat) : Byte :=
  (leBytes 4 ((Table.get {} x.arrays (o / 4096)).chunk.getD (o % 4096 / 4) 0).toNat).getD (o % 4) 0

/-- Is the control state of a croft what a context's creation leaves (R163)? -/
def Croft.unused (x : Croft) : Bool :=
  x.f == {} && x.b == {} && x.u == {} && x.stats.isEmpty &&
    x.arrays.all (fun e => e.2.active == 0 && !e.2.set0.ovf && !e.2.set1.ovf && e.2.set0.count == 0 && e.2.set1.count == 0)

/-- A byte of a save area (R160): store, tile registers, accumulator sets, chunk registers; the Comet queue and the control block
have the stepping's layout. An empty Comet queue is 0, and so is the control block of a croft in which nothing has run, but for its run states
and role bits (R163; log entry 14). -/
def State.saveByte (s : State) (c l o : Nat) : Byte :=
  let a := s.area c l
  if o < storeBytes then Memory.read a.store o
  else if o < 0x340000 then Memory.read a.croft.tiles (o - 0x300000)
  else if o < 0x3E0000 then a.croft.setByte (o - 0x340000)
  else if o < 0x420000 then a.croft.chunkByte (o - 0x3E0000)
  else if o < 0x430000 ∧ a.croft.arrays.all (fun e => e.2.comet.isEmpty) then 0
  else if 0x430000 ≤ o ∧ a.croft.unused then (if Config.controlPos o then Config.freshControl o else 0)
  else Config.saveAreaByte ((s.fresh * 2 ^ 64 + s.bellNow % 2 ^ 64) * 4608 + c * 288 + l) o

/-- A number with one byte replaced. -/
def putByte (v i : Nat) (b : Byte) : Nat := putBits v (8 * i + 7) (8 * i) b.toNat

/-- A list with the element at a place changed, as long as the place asks. -/
def putAt {α : Type} (d : α) (xs : List α) (i : Nat) (f : α → α) : List α :=
  (List.range (max xs.length (i + 1))).map (fun j => if j = i then f (xs.getD j d) else xs.getD j d)

def AccSet.putByte (x : AccSet) (o : Nat) (b : Byte) : AccSet :=
  { x with totals := putAt 0 x.totals (o / 5) (fun v => BitVec.ofNat 40 (Machine.putByte v.toNat (o % 5) b)) }

def Croft.putArea (x : Croft) (n : Nat) (f : ArrayState → ArrayState) : Croft :=
  { x with arrays := Table.put x.arrays n (f (Table.get {} x.arrays n)) }

/-- A debug write of one byte of a save area; what lies in the stepping's layout is not kept (R160; log entry 14). -/
def SaveArea.putByte (a : SaveArea) (o : Nat) (b : Byte) : SaveArea :=
  if o < storeBytes then { a with store := Memory.writeBytes a.store o [b] }
  else if o < 0x340000 then { a with croft := { a.croft with tiles := Memory.writeBytes a.croft.tiles (o - 0x300000) [b] } }
  else if o < 0x3E0000 then
    let k := o - 0x340000
    { a with croft := a.croft.putArea (k / 10240) (fun y =>
        if k % 10240 < 5120 then { y with set0 := y.set0.putByte (k % 5120) b } else { y with set1 := y.set1.putByte (k % 5120) b }) }
  else if o < 0x420000 then
    let k := o - 0x3E0000
    { a with croft := a.croft.putArea (k / 4096) (fun y =>
        { y with chunk := putAt 0 y.chunk (k % 4096 / 4) (fun v => BitVec.ofNat 32 (Machine.putByte v.toNat (k % 4) b)) }) }
  else a

/-- Write bytes into HBM, each byte into main memory or into the save area it lies in. -/
def State.putSaved (s : State) (a : Nat) : List Byte → State
  | [] => s
  | b :: bs =>
    let s := match saveAreaOf a 1 with
      | some cl =>
        { s with saved := Table.put s.saved (cl.1 * 288 + cl.2)
                  ((s.area cl.1 cl.2).putByte ((a % dieBytes - systemOffset) % (612 * 2 ^ 20) % (4352 * 1024)) b) }
      | none => if inHbm a 1 then { s with mem := Memory.writeBytes s.mem a [b] } else s
    s.putSaved (a + 1) bs

end Sys2Proof.Machine
end

