-- ==== Sys2Proof/Machine/Ports.lean ====
section
/-! DEFINITION. Ports, addresses, pause and time (R416–R426, R446–R451). -/

namespace Sys2Proof.Machine

/-! Addresses (R421). -/

/-- Does a subport hold an address? A fenced module has withdrawn them all (R381, R451). -/
def State.holdsAddr (s : State) (port sub : Nat) (a : BitVec 128) : Bool :=
  let p := s.sub port sub
  !s.group.fenced && p.up &&
    ((p.ipv4 != 0 && a == mapped4 p.ipv4) || (p.ipv6 != 0 && a == p.ipv6) || a == linkLocal (s.macOf port sub))

/-- ARP_REQUEST (R421). -/
def execArpRequest (port sub : Nat) (target : BitVec 32) (s : State) : Answer :=
  .next (if s.holdsAddr port sub (mapped4 target) then s.send (.arpReply port sub target (s.macOf port sub)) else s)

/-- NEIGHBOR_SOLICITATION (R421). -/
def execNeighborSolicitation (port sub : Nat) (target : BitVec 128) (s : State) : Answer :=
  .next (if s.holdsAddr port sub target && !isMapped4 target then s.send (.neighborAdvert port sub target (s.macOf port sub)) else s)

/-- ECHO_REQUEST (R421, R423). -/
def execEchoRequest (port sub : Nat) (target : BitVec 128) (echo : Echo) (s : State) : Answer :=
  .next (s.admitFrame echo.fr (fun s => if s.holdsAddr port sub target then s.send (.echoReply port sub target echo.data) else s))

/-! Pause (R426). -/

/-- PFC_FRAME: honoured on a priority that NET_PORTn.PFC enables. -/
def execPfcFrame (port sub prio : Nat) (xoff : Bool) (s : State) : Answer :=
  .next (if !s.portPfc port prio || !(s.sub port sub).up then s
    else
      let p := s.sub port sub
      let others := p.paused.filter (· != prio)
      s.setSub port sub { p with paused := if xoff then prio :: others else others })

/-- Bytes that wait in the port buffer of subport k on a priority. -/
def State.rxFill (s : State) (k prio : Nat) : Nat :=
  ((s.qps.filter (fun e => 4 * e.2.port + e.2.sub == k)).flatMap (fun e => e.2.portBuf.filterMap frameOf)).foldl
    (fun n fr => if fr.priority = prio then n + fr.len else n) 0

/-- Does the buffer lack room for more than its headroom? -/
def State.rxTight (s : State) (k prio : Nat) : Bool := Config.rxRoom (s.subportRate (k / 4)) < s.rxFill k prio

/-- XOFF on a priority that PFC enables, once the buffer lacks the headroom (R426). -/
def State.pauseIn (s : State) (k prio : Nat) : State :=
  if s.portPfc (k / 4) prio && s.rxTight k prio && !s.net.xoffs.contains (k, prio) then
    { s with net := { s.net with xoffs := s.net.xoffs ++ [(k, prio)] } }.send (.pfc (k / 4) (k % 4) prio true)
  else s

/-- XON for what has room again. -/
def State.unpause (s : State) : State :=
  let go := s.net.xoffs.filter (fun e => !s.rxTight e.1 e.2)
  go.foldl (fun s e => s.send (.pfc (e.1 / 4) (e.1 % 4) e.2 false))
    { s with net := { s.net with xoffs := s.net.xoffs.filter (fun e => !go.contains e) } }

/-- PFC_STORM: a priority has been paused for 200 ms; the pause is honoured on. -/
def execPfcStorm (port sub prio : Nat) (s : State) : Answer :=
  .next (if !(s.sub port sub).paused.contains prio then s
    else
      let s := { s with net := { s.net with storm := insertNat port s.net.storm } }
      s.eventAll 0x000A [(port, 3), (sub, 2), (prio, 3)])

/-! Time (R446–R450). -/

/-- NET_PTP (R447). -/
def State.ptpBit (s : State) (i : Nat) : Bool := bit (s.reg 0x080) i
def State.ptpPort (s : State) (port : Nat) : Bool :=
  s.ptpBit (8 + port) && (List.range 4).any (fun k => (s.sub port k).up)

def State.modNet (s : State) (f : Net → Net) : State := { s with net := f s.net }

/-- The domain and transport of the messages the module sends (R447); TRANSPORT 3 executes as 2. -/
def State.ptpHdr (s : State) : PtpHdr := ⟨bits (s.reg 0x080) 23 16, min 2 (bits (s.reg 0x080) 28 27)⟩

/-- The module has the group's time: PTP_LOCK ends (R527). -/
def State.timed (s : State) (st : Nat) : State :=
  let s := s.modNet (fun n => { n with ptpState := st, goodSyncs := 0, badSyncs := 0 })
  if s.phase = 4 then s.align else s

/-- HOLDOVER, with its event (R448). -/
def State.holdover (s : State) : State :=
  (s.modNet (fun n => { n with ptpState := 2, goodSyncs := 0, badSyncs := 0, master := none })).eventAll 0x000B [(signedField 32 s.net.offset, 32)]

/-- Consecutive Syncs that change the state (R448). -/
def syncRun : Nat := 16

/-- The module measures the path delay as the servo needs it (R446): end to end on the port it follows. -/
def State.askDelay (s : State) (port : Nat) : State := if s.ptpBit 29 then s else s.send (.delayReq port false s.ptpHdr)

/-- PTP_SYNC (R448, R450): a grandmaster follows no Sync, and FP2 runs the servo (R476). TIME_FAULT goes out, from READY on, once for each
time the offset passes 25 µs. -/
def execPtpSync (port : Nat) (offset : Int) (s : State) : Answer :=
  .next (if s.net.ptpState = 3 ∨ !s.ptpPort port ∨ !s.up 2 then s
    else
      let good := decide (offset.natAbs ≤ 200)
      let bad := decide (1000 < offset.natAbs)
      let s := s.askDelay port
      let far := decide (25000 < offset.natAbs) && s.net.wasReady
      let first := far && !s.net.faultSent
      let s := s.modNet (fun n => { n with
        follows := some port, offset := offset, goodSyncs := if good then n.goodSyncs + 1 else 0, badSyncs := if bad then n.badSyncs + 1 else 0
        faultSent := far })
      let s := if first then s.eventAll 0x000C [(signedField 32 offset, 32)] else s
      if s.net.ptpState ≠ 1 ∧ syncRun ≤ s.net.goodSyncs then s.timed 1
      else if s.net.ptpState = 1 ∧ syncRun ≤ s.net.badSyncs then s.holdover
      else s)

/-- SYNC_TIMEOUT (R448). -/
def execSyncTimeout (s : State) : Answer := .next (if s.net.ptpState = 1 then s.holdover else s)

/-- PPS_EDGE (R449). -/
def execPpsEdge (delta : Int) (s : State) : Answer :=
  .next (if !s.ptpBit 31 then s
    else if delta.natAbs ≤ 1000 then s.modNet (fun n => { n with ppsOk := true })
    else s.modNet (fun n => { n with ppsOk := false, ppsBad := n.ppsBad + 1 }))

/-! The best master clock algorithm (R446; log entry 88). -/

/-- What the module announces of itself as grandmaster: PRIORITY1 of NET_PTP; quality and identity are its own. -/
def State.ownMaster (s : State) : Master :=
  ⟨bits (s.reg 0x080) 7 0, Config.clockQuality, Config.clockIdentity⟩

/-- Which of two grandmasters is better: the lower priority1, then quality, then identity. -/
def Master.better (a b : Master) : Bool :=
  Nat.blt a.priority1 b.priority1 || (a.priority1 == b.priority1 &&
    (Nat.blt a.quality b.quality || (a.quality == b.quality && Nat.blt a.identity b.identity)))

/-- The better of the best master heard of and a new one. -/
def Net.best (n : Net) (m : Master) : Master :=
  match n.master with
  | some b => if m.better b then m else b
  | none => m

/-- The grandmaster whose time the module serves: its own, or the one a boundary clock follows. -/
def State.served (s : State) : Master :=
  if s.net.ptpState = 3 then s.ownMaster else s.net.master.getD s.ownMaster

/-- Announce on a port that takes part. -/
def State.tellPriority (s : State) (port : Nat) : State := if s.ptpPort port then s.send (.announce port s.ptpHdr s.served) else s

/-- The module becomes grandmaster, and announces it. -/
def State.lead (s : State) : State := (List.range 8).foldl (fun s p => s.tellPriority p) (s.timed 3)

/-- Does the module serve time: as grandmaster, or as a boundary clock that is locked? -/
def State.servesTime (s : State) : Bool := s.net.ptpState == 3 || (s.ptpBit 30 && s.net.ptpState == 1)

/-- What PTP sends of its own accord, on every port that takes part, once in a Bell: Announce and Sync of a module that serves time, and
peer-delay requests when P2P is 1 (R446, R447; log entry 88). -/
def State.ptpTick (s : State) : State :=
  if !s.up 2 then s
  else (List.range 8).foldl (fun s p =>
    if !s.ptpPort p then s
    else
      let s := if s.servesTime && (s.net.ptpState == 3 || s.net.follows != some p) then (s.tellPriority p).send (.ptpSync p s.ptpHdr) else s
      if s.ptpBit 29 then s.send (.delayReq p true s.ptpHdr) else s) s

/-- ANNOUNCE (R446): of another domain it is ignored. A grandmaster that hears of a better one serves time no more, and follows that
master's Syncs from then on. A module that is GM_CAPABLE, and better than every master it has heard of, becomes grandmaster once it looks for
the group's time (R527). -/
def execAnnounce (port domain : Nat) (m : Master) (s : State) : Answer :=
  .next (if !s.ptpPort port || domain % 256 != bits (s.reg 0x080) 23 16 then s
    else
      let best := s.net.best m
      let s := s.modNet (fun n => { n with master := some best })
      if best.better s.ownMaster || !s.ptpBit 26 then
        (if s.net.ptpState = 3 then s.modNet (fun n => { n with ptpState := 0, goodSyncs := 0, badSyncs := 0 }) else s)
      else if s.net.ptpState = 3 ∨ s.phase < 4 ∨ s.phase = 7 then s
      else s.lead)

/-- DELAY_REQ (R446): a peer-delay request is answered when P2P is 1; an end-to-end one by a module that serves time, as
grandmaster or boundary clock, when P2P is 0. -/
def execDelayReq (port : Nat) (peer : Bool) (s : State) : Answer :=
  .next (if s.ptpPort port && peer == s.ptpBit 29 && (peer || s.servesTime) then
    s.send (.delayResp port peer s.ptpHdr) else s)

/-- GRANDMASTER_TIMEOUT (R528): no master for 10 s. R534 gives no code of its own for the interrupt: PHASE's is used
(log entry 17). -/
def execGrandmasterTimeout (s : State) : Answer :=
  .next (if s.phase < 4 ∨ s.phase = 7 ∨ s.net.ptpState = 1 ∨ s.net.ptpState = 3 then s
    else if s.ptpBit 26 then s.lead
    else if s.phase = 4 then s.ibi 3
    else s)

end Sys2Proof.Machine
end

