-- ==== Sys2Proof/Machine/Session.lean ====
section
/-! DEFINITION. Contexts, Ledger regions and sessions (R163, R403, R452–R454, R468–R471, R507). -/

namespace Sys2Proof.Machine

/-! Ledger regions (R403). -/

/-- The pool of the die that holds a context's region. -/
def State.poolBase (s : State) (c : Nat) : Nat := c % 2 * dieBytes + systemOffset - s.pool * gibBytes

/-- Is `g` GiB from `a` free of every other context's region? -/
def State.regionFree (s : State) (c a g : Nat) : Bool :=
  (List.range 16).all (fun d =>
    let x := s.ctx d
    d == c || x.regionGib == 0 || a + g * gibBytes ≤ x.region || x.region + x.regionGib * gibBytes ≤ a)

/-- The lowest free range of `g` GiB. -/
def State.findRegion (s : State) (c g : Nat) : Option Nat :=
  ((List.range (s.pool + 1 - g)).map (fun k => s.poolBase c + k * gibBytes)).find? (fun a => s.regionFree c a g)

/-- The largest size up to `g` GiB that is free, with its place. -/
def State.bestRegion (s : State) (c : Nat) : Nat → Option (Nat × Nat)
  | 0 => none
  | g + 1 => match s.findRegion c (g + 1) with
    | some a => some (a, g + 1)
    | none => s.bestRegion c g

/-- LED_CFG.REGION reads what the context has. -/
def Ctx.setRegion (x : Ctx) (a g : Nat) : Ctx :=
  { x with
    region := a, regionGib := g
    shadow := Table.put x.shadow 0x050 (BitVec.ofNat 32 (putBits (x.reg 0x050).toNat 15 8 g)) }

/-- Free the context's region and allocate one of `g` GiB, or the largest free size below it (R403). -/
def State.allocRegion (s : State) (c g : Nat) : State :=
  match s.bestRegion c (clampTo 1 64 g) with
  | some r => s.modCtx c (fun x => x.setRegion r.1 r.2)
  | none => s.modCtx c (fun x => x.setRegion 0 0)

/-- A new REGION value takes effect while no step is held; the value in effect changes nothing. -/
def State.newRegion (s : State) (c g : Nat) : State :=
  if (s.ctx c).regionGib = clampTo 1 64 g then s else s.allocRegion c g

/-- LEDGER_REGION_ALLOCATE (R403): LED_CFG counts as running while a step is held, and an ignored write is noted (R8, R368). -/
def execLedgerRegionAllocate (ctx : CtxId) (gib : Nat) (s : State) : Answer :=
  .next (if !(s.ctx ctx).exist then s
    else if (s.ctx ctx).steps.isEmpty then s.newRegion ctx gib
    else if (s.ctx ctx).regionGib = clampTo 1 64 gib then s
    else s.modCtx ctx (fun x => { x with ledIgnored := true }))

/-! Contexts (R163, R462, R507). -/

/-- A context's region after its creation: the one a checkpoint kept (R470), or 4 GiB (R403). -/
def State.giveRegion (s : State) (c : Nat) (old : Ctx) : State :=
  if old.regionGib = 0 then s.allocRegion c 4 else s.modCtx c (fun x => x.setRegion old.region old.regionGib)

/-- Create a context: its registers, save areas and context semaphores take their reset values, and the security block draws its
key. -/
def State.createCtx (s : State) (c : Nat) : State :=
  let old := s.ctx c
  let x : Ctx := { exist := true, key := Config.free256 s.fresh, seed := Config.ctxSeed s.fresh }
  let s := { s with fresh := s.fresh + 1, saved := s.saved.filter (fun e => e.1 / 288 != c) }
  ((s.zeroSemaphores c).setCtx c x).giveRegion c old

/-- Queue pairs are freed; what waited for them in a port buffer is gone, which may make room for XON (R426). -/
def State.dropQps (s : State) (p : Nat → Qp → Bool) : State :=
  let gone := (s.qps.filter (fun (e : Nat × Qp) => p e.1 e.2)).map (·.1)
  let s := s.dropEgress gone.contains
  { s with qps := s.qps.filter (fun (e : Nat × Qp) => !gone.contains e.1)
           net := { s.net with cache := s.net.cache.filter (fun n => !gone.contains n) } }.unpause

/-- The banks hold a released context's semaphores no more: they are 0, and the Tally window shows 0 at context indices until a context is
resident again (R253, R268; log entry 16). -/
def State.emptyBanks (s : State) (c : Nat) : State :=
  if c = s.tally.holds then { s with tally := { s.tally with holds := nobody } } else s

/-- The crofts lose a released resident context: only the wake wires stay until their banks confirm (R260). -/
def State.emptyCrofts (s : State) (c : Nat) : State :=
  if c = s.resident then
    { s with resident := nobody, crofts := s.crofts.map (fun (e : Nat × Croft) => (e.1, ({ wires := e.2.wires } : Croft))) }
  else s

/-- Release a context (R468, R470): its instructions end with CONTEXT_KILLED, and its queue pairs, save areas and semaphores are
free; SIGs still parked on those queue pairs are dropped (log entry 117). With a checkpoint its Ledger region stays allocated. -/
def State.releaseCtx (s : State) (c : Nat) (keep : Bool) : State :=
  let s := (s.stopStreams c stKilled).freeSlots c
  let s := (s.dropQps (fun _ q => q.used && q.ctx == c)).zeroSemaphores c
  let s := (s.emptyCrofts c).emptyBanks c
  let s := { s with
    saved := s.saved.filter (fun e => e.1 / 288 != c)
    switches := s.switches.filter (fun e => e.2 != c)
    stations := s.stations.map (fun (e : Nat × List StationJob) => (e.1, e.2.filter (fun j => j.ctx != c)))
    tally := { s.tally with
      deferred := s.tally.deferred.map (fun (e : Nat × List Deferred) => (e.1, e.2.filter (fun d => d.ctx != c || semCommon d.addr)))
      hubWait := s.tally.hubWait.filter (fun d => d.ctx != c || semCommon d.addr) } }
  let x := s.ctx c
  s.setCtx c (if keep then { region := x.region, regionGib := x.regionGib } else {})

/-- The checkpoint of R470 at the start of the Ledger region. The numerics store has no layout in the spec: free bytes
(log entry 14). -/
def State.writeCheckpoint (s : State) (c : Nat) : State :=
  let x := s.ctx c
  if x.region = 0 then s
  else
    let head := leBytes 8 x.lastCmt ++ leBytes 4 (x.genMap * 2 + x.genState) ++ leBytes 52 0
    let page := s.readWindow ((c + 1) * 0x10000) 16384
    { s with mem := Memory.writeBytes s.mem x.region (head ++ page) }.spoil (x.region + 65600) (65 * 2 ^ 20)

/-! Opening a session (R452–R454). -/

/-- SES_REPLY codes. -/
def sesAccepted : Nat := 0
def sesAbiRange : Nat := 1
def sesBusy : Nat := 2
def sesNoContext : Nat := 3
def sesTokenUnknown : Nat := 4
def sesNotReady : Nat := 5

/-- The context an open names: 0xFF is the lowest free one of 1–15 (R452); other values clamp (R10). -/
def State.openTarget (s : State) (m : SesOpen) : Option Nat :=
  if m.ctx % 256 = 0xFF then ((List.range 15).map (· + 1)).find? (fun c => !(s.ctx c).exist) else some (min 15 (m.ctx % 256))

/-- The session that this open has opened already: same HOST_QPN and NONCE, still OPEN (R454). -/
def State.openAgain (s : State) (m : SesOpen) : Option Nat :=
  (List.range 16).find? (fun c =>
    let x := (s.ctx c).ses
    x.state == .opened && x.hostQpn == m.hostQpn % 2 ^ 24 && x.nonce == m.nonce)

/-- Time since the last renewal, in µs: the Bell intervals that have passed (R468). -/
def State.sinceRenewal (s : State) (c : Nat) : Nat := (s.ctx c).ses.age

/-- How long a session stays DETACHED before its context is released, in µs (R468). -/
def releaseAfter : Nat := 600000000

/-- May an open with RESUME take a session up again: the TOKEN is its own, and its release has not begun (R453, R471)? -/
def State.resumes (s : State) (c : Nat) (m : SesOpen) : Bool :=
  (s.ctx c).ses.state == .detached && (s.ctx c).ses.token == m.token && Nat.blt (s.sinceRenewal c) releaseAfter

/-- Host ABI majors that FEAT_ABI gives (R453, R459). -/
def abiMin : Nat := 1
def abiMax : Nat := 2

/-- Why an open is refused: the first code that applies (R453). -/
def State.openCode (s : State) (m : SesOpen) (c : Option Nat) : Nat :=
  if s.phase ≠ 6 then sesNotReady
  else if m.abiMajor % 65536 < abiMin ∨ abiMax < m.abiMajor % 65536 then sesAbiRange
  else match c with
    | none => sesNoContext
    | some c =>
      let x := (s.ctx c).ses
      if x.state = .opened ∨ (x.state ≠ .none ∧ !m.resume) then sesBusy
      else if m.resume && !s.resumes c m then sesTokenUnknown
      else sesAccepted

/-- A SES_REPLY to the sender (R452). -/
def State.reply (s : State) (port sub dqpn : Nat) (dip : BitVec 128) (c code : Nat) (nonce : Reg) : State :=
  let x := s.ctx c
  if code = sesAccepted then
    s.send (.sesReply port sub dqpn dip c code abiMin abiMax x.ses.token x.ses.modQpn featDevice x.featActive nonce regBase x.ses.winKey)
  else s.send (.sesReply port sub dqpn dip c code abiMin abiMax 0 0 featDevice x.featActive nonce regBase 0)

/-- The session queue pair (R454, R455). Fields that the spec does not give have the defaults of a new context (R428). -/
def sessionQp (c port sub hostQpn : Nat) (sip dip : BitVec 128) (key : Reg) : Qp :=
  ({ used := true, state := 3, session := true, ctx := c, port := port, sub := sub, dqpn := hostQpn, sip := sip, dip := dip,
     lwinBase := regBase, lwinLen := 0x110000, lkey := key, lacc := 3 } : Qp).startPsn 0 0

/-- Ring sizes: powers of two, 64–65,536. -/
def ringSizes : List Nat := (List.range 11).map (fun i => 2 ^ (i + 6))

/-- The nearest 64-byte aligned address, the lower of two as near (R10, R453). -/
def ringAddr (a : Nat) : Nat := min (2 ^ 64 - 64) ((a + 31) / 64 * 64)

/-- The session of an accepted open: a fresh one, or a resumed one that keeps what it has staged and lost (R467). -/
def openedSession (old : Session) (m : SesOpen) (key : BitVec 256) (qpn : Nat) : Session :=
  let base : Session := if m.resume then old else { draws := old.draws }
  { base with
    state := .opened, token := Config.deriveToken key old.draws, winKey := Config.deriveWinKey key old.draws, draws := old.draws + 1
    modQpn := qpn, hostQpn := m.hostQpn % 2 ^ 24, nonce := m.nonce, evrAddr := ringAddr m.evrAddr, evrKey := m.evrKey
    evrN := nearest ringSizes m.evrN, head := 0, told := false, age := 0 }

/-- Registers that SES_OPEN sets (R461, R463). -/
def Ctx.openShadow (x : Ctx) (m : SesOpen) : Table Reg :=
  let t := Table.put x.shadow 0x000 (BitVec.ofNat 32 (m.abiMinor % 65536 * 2 ^ 16 + m.abiMajor % 256 * 2 ^ 8))
  let t := Table.put t 0x004 (BitVec.ofNat 32 (clampTo 100 60000 m.lease))
  let t := Table.put t 0x010 (m.featHost &&& 0x3F)
  Table.put t 0x01C 0

/-- Accept an open (R454). -/
def State.acceptOpen (s : State) (port sub : Nat) (c : Nat) (m : SesOpen) : State :=
  let s := if (s.ctx c).exist then s else s.createCtx c
  let s := s.dropQps (fun n q => q.session && q.ctx == c && n == (s.ctx c).ses.modQpn)
  match s.freeQpn with
  | none => s
  | some n =>
    let x := s.ctx c
    let ses := openedSession x.ses m x.key n
    let s := s.setCtx c { x with ses := ses, shadow := x.openShadow m }
    let q := sessionQp c port sub (m.hostQpn % 2 ^ 24) (s.sourceAddr port sub m.hostIp) m.hostIp ses.winKey
    let s := s.setQp n { q with rate := s.subportRate port, target := s.subportRate port }
    (s.cacheIn n).resolve n

/-- FP1's treatment of SES_OPEN: the reply goes to the sending address and queue pair (R452); a repeat of an open that was accepted gets the
same reply again (R454). -/
def State.openSession (s : State) (port sub : Nat) (src : Sender) (m : SesOpen) : State :=
  match s.openAgain m with
  | some c => s.reply port sub src.qpn src.addr c sesAccepted m.nonce
  | none =>
    let t := s.openTarget m
    let code := s.openCode m t
    let c := t.getD (min 15 (m.ctx % 256))
    let s := if code = sesAccepted then s.acceptOpen port sub c m else s
    s.reply port sub src.qpn src.addr c code m.nonce

/-- Q_KEY of QPN 2 (R452). -/
def bootQkey : Reg := 0x00004081

/-- A UD packet marked CE is answered with a CNP to its sender's queue pair, at most once in 50 µs (R427; log entry 10). -/
def State.markedUd (s : State) (port sub : Nat) (src : Sender) : State :=
  if !src.fr.ce then s
  else if !s.net.udCnp then { s with net := { s.net with udCnp := true } }.send (.udCnp port sub src.qpn src.addr)
  else
    let r := s.draw64
    if bit r.1 0 then r.2.send (.udCnp port sub src.qpn src.addr) else r.2

/-- SES_OPEN: a UD SEND to QPN 2 of a HOST subport (R423, R452); one with another Q_KEY is dropped. It waits while FP1 restarts. Before BOOT
ends nobody answers. While every cached context is pinned it is dropped and counted (R438). -/
def execSesOpen (port sub : Nat) (src : Sender) (m : SesOpen) (s : State) : Answer :=
  .next (if !(s.sub port sub).up || s.portRole port sub != 0 || s.group.fenced then s
    else s.admitFrame src.fr (fun s =>
      let s := s.markedUd port sub src
      if src.qkey != bootQkey then s
      else if !s.cacheRoom then { s with net := { s.net with dropUd := s.net.dropUd + 1 } }
      else if !s.up 1 then s.hold 1 (.sesOpen port sub { src with fr := { src.fr with ce := false } } m)
      else s.openSession port sub src m))

/-! The lease (R468–R471). -/

/-- A session becomes DETACHED. -/
def State.detach (s : State) (c : Nat) : State :=
  (s.modCtx c (fun x => { x with ses := { x.ses with state := .detached, age := 0 } })).parkDetached c

/-- Renew the lease of an open session. -/
def State.renew (s : State) (c : Nat) : State :=
  if (s.ctx c).ses.state = .opened then s.modCtx c (fun x => { x with ses := { x.ses with age := 0 } }) else s

/-- LEASE_LAPSE (R468). -/
def execLeaseLapse (ctx : CtxId) (s : State) : Answer :=
  .next (if (s.ctx ctx).ses.state = .opened ∧ s.up 1 ∧ (s.ctx ctx).lease * 1000 < s.sinceRenewal ctx then s.detach ctx else s)

/-- Does the context belong to a group of more than one module (R470)? -/
def State.grouped (s : State) : Bool := 1 < s.members.length

/-- The session of a context ends; C0 stays (R465). -/
def State.endSession (s : State) (c : Nat) : State :=
  (s.dropQps (fun _ q => q.session && q.ctx == c)).modCtx c (fun x => { x with ses := { draws := x.ses.draws } })

/-- RELEASE_TIMEOUT (R468, R470): RELEASING, the checkpoint, and the release. C0 is never released: only its session ends. -/
def execReleaseTimeout (ctx : CtxId) (s : State) : Answer :=
  .next (if (s.ctx ctx).ses.state ≠ .detached ∨ s.sinceRenewal ctx < releaseAfter then s
    else if ctx.val = 0 then s.endSession 0
    else
      let s := s.modCtx ctx (fun x => { x with ses := { x.ses with state := .releasing } })
      let s := (s.writeCheckpoint ctx).releaseCtx ctx true
      if s.grouped then s.askReport s.devid whySelfFailed else s)

/-- SES_RENEW (R461, R468): a fenced module discards writes but the access renews. -/
def execSesRenew (sess : CtxId) (_v : Reg) (s : State) : Answer := .next (s.renew sess)

end Sys2Proof.Machine
end

