-- ==== Sys2Proof/Machine/Mailbox.lean ====
section
/-! DEFINITION. The mailbox and its commands (R460, R464, R465). -/

namespace Sys2Proof.Machine

/-- STATUS codes (R464). -/
def mbOk : Nat := 0
def mbBadOpcode : Nat := 1
def mbNotPermitted : Nat := 2
def mbBadState : Nat := 3
def mbNoResource : Nat := 4
def mbBadSeq : Nat := 5

/-- What a command answers: the state, its STATUS and its response data. -/
abbrev Reply' := State × Nat × List Byte

/-- The response, DONE and MBOX_DONE (R464). The page of a released context is gone. -/
def State.finish (s : State) (sess seq : Nat) (r : Nat × List Byte) : State :=
  if (s.ctx sess).ses.state = .none then s
  else
    let q := seq % 65536
    let resp := (leBytes 2 q ++ leBytes 1 r.1 ++ leBytes 5 0 ++ r.2).take 256
    let resp := resp ++ List.replicate (256 - resp.length) 0
    let s := s.modCtx sess (fun x => { x with ses := { x.ses with mbox := Memory.writeBytes x.ses.mbox 256 resp, done := q } })
    s.event sess 0x000D [(q, 16), (r.1, 8)]

/-- Execute a command for a session, one for C0 only refused elsewhere. -/
def State.serve (s : State) (sess seq : Nat) (c0 : Bool) (act : State → Reply') : State :=
  if c0 ∧ sess ≠ 0 then s.finish sess seq (mbNotPermitted, [])
  else
    let r := act s
    r.1.finish sess seq r.2

/-- Is a command of the session still executing: DONE differs from the last GO (R464)? -/
def Session.busy (x : Session) : Bool := x.lastGo != x.done

/-- Admit a command when FP1 and the core it needs run; otherwise it waits (R476). -/
def State.takeIn (s : State) (k : Nat) (i : Instr) (run : State → State) : State :=
  if !s.up 1 then s.hold 1 i else if !s.up k then s.hold k i else run s

/-- A command of an OPEN session: it is written to the mailbox through the window, so it renews the lease (R468), and a fenced
module discards it (R471). -/
def State.offer (s : State) (sess seq k : Nat) (i : Instr) (run : State → State) : State :=
  let x := (s.ctx sess).ses
  if x.state ≠ .opened then s
  else
    let s := s.renew sess
    if s.group.fenced ∨ x.busy then s
    else (s.modCtx sess (fun x => { x with ses := { x.ses with lastGo := seq % 65536 } })).takeIn k i run

/-! RENEW and CLOSE. -/

def doRenew (sess seq : Nat) (s : State) : State := s.serve sess seq false (fun s => (s.renew sess, mbOk, []))

/-- RENEW (R465). -/
def execRenew (sess : CtxId) (seq : Nat) (s : State) : Answer :=
  .next (s.offer sess seq 1 (.renew sess seq) (doRenew sess seq))

def doCloseDetach (sess seq : Nat) (s : State) : State := s.serve sess seq false (fun s => (s.detach sess, mbOk, []))

/-- CLOSE with MODE 0 (R465). -/
def execCloseDetach (sess : CtxId) (seq : Nat) (s : State) : Answer :=
  .next (s.offer sess seq 1 (.closeDetach sess seq) (doCloseDetach sess seq))

def doCloseRelease (sess seq : Nat) (s : State) : State :=
  s.serve sess seq false (fun s => if sess = 0 then (s, mbBadState, []) else (s.releaseCtx sess false, mbOk, []))

/-- CLOSE with MODE 1 (R465): released at once, with no checkpoint. -/
def execCloseRelease (sess : CtxId) (seq : Nat) (s : State) : Answer :=
  .next (s.offer sess seq 1 (.closeRelease sess seq) (doCloseRelease sess seq))

/-! LAUNCH and SWITCH. -/

/-- Is any stream of a context RUNNING or WAITING? -/
def State.anyActive (s : State) (c : Nat) : Bool :=
  (s.croftIds c).any (fun l => allStrms.any (fun t => (s.strmOf c l t).run == .running || (s.strmOf c l t).run == .waiting))

/-- LAUNCH clears HALTED and the status words. -/
def Stream.clear (y : Stream) : Stream := { y with status := 0, run := if y.run = .halted then .idle else y.run }

def State.launchCtx (s : State) (c : Nat) : State :=
  ((s.mapCrofts c (fun x => x.mapStrms Stream.clear)).modCtx c (fun x => { x with parked := false })).rerun c

/-- LAUNCH's work: FP5 writes the dispatch pages, and while it restarts the command waits (R476). -/
def doLaunch (sess seq : Nat) (s : State) : State :=
  if !s.up 5 then s.hold 5 (.launch (Fin.ofNat 16 sess) seq)
  else s.serve sess seq false (fun s =>
    if s.anyActive sess ∨ (s.ctx sess).uncommitted.isEmpty then (s, mbBadState, []) else (s.launchCtx sess, mbOk, []))

/-- LAUNCH (R465, R385). -/
def execLaunch (sess : CtxId) (seq : Nat) (s : State) : Answer :=
  .next (s.offer sess seq 3 (.launch sess seq) (doLaunch sess seq))

/-- The first Bell from `b` on without a switch (R248). -/
def freeBell : Nat → Table Nat → Nat → Nat
  | 0, _, b => b
  | n + 1, t, b => if Table.has t b then freeBell n t (b + 1) else b

/-- Schedule a switch: a Bell already passed, or one that has a switch, gives way to the next free Bell. -/
def State.schedule (s : State) (c b : Nat) : State :=
  let first := max b (s.bellNow + 1)
  { s with switches := Table.put s.switches (freeBell (s.switches.length + 1) s.switches first) c }

def doSwitch (sess seq ctx bell : Nat) (s : State) : State :=
  s.serve sess seq true (fun s =>
    let c := min 15 (ctx % 256)
    if (s.ctx c).exist then (s.schedule c bell, mbOk, []) else (s, mbBadState, []))

/-- SWITCH (R248, R465). -/
def execSwitch (sess : CtxId) (seq : Nat) (ctx bell : Nat) (s : State) : Answer :=
  .next (s.offer sess seq 1 (.switch sess seq ctx bell) (doSwitch sess seq ctx bell))

/-! SUBMIT. -/

/-- An entry address as a PC, a multiple of 8 (R133; log entry 107). -/
def entryPc (p : Ptr) : Ptr := p &&& ~~~7

/-- Fields of a step descriptor in their ranges (R10, R367). -/
def StepDesc.clamped (d : StepDesc) : StepDesc :=
  { d with pcF := entryPc d.pcF, pcB := entryPc d.pcB, pcU := entryPc d.pcU, step := d.step % 2 ^ 64, batch := d.batch % 2 ^ 48 / 64 * 64
           batchLen := d.batchLen % 2 ^ 40,
           ballots := max 1 (d.ballots % 65536), upcmts := d.upcmts % 65536 }

/-- Consecutive steps, from `n` when it is given. -/
def stepsFollow : Option Nat → List StepDesc → Bool
  | _, [] => true
  | none, d :: ds => stepsFollow (some d.step) ds
  | some n, d :: ds => d.step == n + 1 && stepsFollow (some d.step) ds

/-- Does the batch lie in the context's Ledger region? -/
def Ctx.inRegion (x : Ctx) (d : StepDesc) : Bool :=
  x.region ≤ d.batch && d.batch + d.batchLen ≤ x.region + x.regionGib * gibBytes

/-- Most steps held (R465). -/
def heldMax : Nat := 4

/-- STATUS of a SUBMIT (R465). -/
def Ctx.submitStatus (x : Ctx) (ds : List StepDesc) : Nat :=
  if !stepsFollow x.lastSub ds ∨ x.parked then mbBadState
  else if heldMax < x.steps.length + ds.length ∨ x.regionGib = 0 ∨ !ds.all x.inRegion ∨ (!x.feat 5 ∧ 1 < ds.length) then mbNoResource
  else mbOk

/-- Hold the steps as PREPARED; their batches and descriptors go to the twin (R364). -/
def State.holdSteps (s : State) (c : Nat) (ds : List StepDesc) : State :=
  let s := s.modCtx c (fun x => { x with
    steps := x.steps ++ ds.map (fun d => ({ desc := d } : HeldStep))
    first := match ds with | d :: _ => some (x.first.getD d.step) | [] => x.first
    lastSub := match ds.reverse with | d :: _ => some d.step | [] => x.lastSub })
  (ds.foldl (fun s d => s.sendLedger c d) s).takeEarly c

def doSubmit (sess seq : Nat) (descs : List StepDesc) (s : State) : State :=
  s.serve sess seq false (fun s =>
    let ds := (descs.take 3).map StepDesc.clamped
    let st := (s.ctx sess).submitStatus ds
    if st = mbOk then (s.holdSteps sess ds, mbOk, []) else (s, st, []))

/-- SUBMIT (R465). -/
def execSubmit (sess : CtxId) (seq : Nat) (descs : List StepDesc) (s : State) : Answer :=
  .next (s.offer sess seq 3 (.submit sess seq descs) (doSubmit sess seq descs))

/-! SEM_ADD. -/

def doSemAdd (sess seq addr : Nat) (amount : BitVec 32) (s : State) : State :=
  s.serve sess seq false (fun s => (s.change sess (addr % 2 ^ 24) amount.toInt none, mbOk, []))

/-- SEM_ADD (R254, R264, R465). -/
def execSemAdd (sess : CtxId) (seq : Nat) (addr : Nat) (amount : BitVec 32) (s : State) : Answer :=
  .next (s.offer sess seq 1 (.semAdd sess seq addr amount) (doSemAdd sess seq addr amount))

/-! Queue-pair contexts (R434). -/

/-- Bits of a field at a byte offset. -/
def qpField (bs : List Byte) (off size hi lo : Nat) : Nat :=
  (leNat ((bs.drop off).take size) >>> lo) % 2 ^ (hi + 1 - lo)

/-- The fields that software sets, read from bytes 0–111, over what the module keeps. -/
def Qp.setFields (q : Qp) (bs : List Byte) : Qp :=
  let f := qpField bs
  { q with
    state := min 4 (f 0 1 2 0), ud := f 0 1 3 3 == 1, agbel := f 0 1 4 4 == 1, immV := f 0 1 5 5 == 1
    ctx := f 1 1 3 0, port := f 2 1 2 0, sub := f 2 1 4 3, pmtu := clampTo 1 5 (f 3 1 3 0)
    dqpn := f 8 4 23 0, sqPsn := f 12 4 23 0, rqPsn := f 16 4 23 0, timeout := max 1 (f 20 1 4 0)
    retry := f 21 1 2 0, rnrRetry := f 21 1 5 3, minRnr := f 22 1 4 0
    respRes := max 1 (f 23 1 3 0), initDepth := max 1 (f 23 1 7 4)
    pcp := f 24 1 2 0, dscp := f 25 1 5 0, vid := min 4094 (f 26 2 11 0), untag := f 26 2 12 12 == 1
    sport := f 28 2 15 0, pkey := f 30 2 15 0
    sip := BitVec.ofNat 128 (f 32 16 127 0), dip := BitVec.ofNat 128 (f 48 16 127 0)
    lwinBase := f 64 8 47 0, lwinLen := f 72 8 47 0, lkey := BitVec.ofNat 32 (f 80 4 31 0), lacc := f 84 1 2 0
    immSem := f 85 3 23 0, rwinBase := f 88 8 63 0, rwinLen := f 96 8 63 0
    rkey := BitVec.ofNat 32 (f 104 4 31 0), qkey := BitVec.ofNat 32 (f 108 4 31 0) }

/-- Bytes 0–111 of a context. -/
def Qp.bytes (q : Qp) (n : Nat) : List Byte :=
  leBytes 1 (q.state + flag q.ud 3 + flag q.agbel 4 + flag q.immV 5) ++ leBytes 1 q.ctx ++ leBytes 1 (q.port + 8 * q.sub) ++
  leBytes 1 q.pmtu ++ leBytes 4 n ++ leBytes 4 q.dqpn ++ leBytes 4 q.sqPsn ++ leBytes 4 q.rqPsn ++ leBytes 1 q.timeout ++
  leBytes 1 (q.retry + 8 * q.rnrRetry) ++ leBytes 1 q.minRnr ++ leBytes 1 (q.respRes + 16 * q.initDepth) ++ leBytes 1 q.pcp ++
  leBytes 1 q.dscp ++ leBytes 2 (q.vid + flag q.untag 12) ++ leBytes 2 q.sport ++ leBytes 2 q.pkey ++ leBytes 16 q.sip.toNat ++
  leBytes 16 q.dip.toNat ++ leBytes 8 q.lwinBase ++ leBytes 8 q.lwinLen ++ leBytes 4 q.lkey.toNat ++ leBytes 1 q.lacc ++
  leBytes 3 q.immSem ++ leBytes 8 q.rwinBase ++ leBytes 8 q.rwinLen ++ leBytes 4 q.rkey.toNat ++ leBytes 4 q.qkey.toNat

/-- New PSNs start their data watermark anew (R229). -/
def Qp.keepWatermark (q old : Qp) : Qp :=
  if q.sqPsn = old.sqPsn ∧ old.used then { q with lastData := old.lastData } else q.startPsn q.sqPsn q.rqPsn

/-- What entering a state brings: RTR resolves the MAC address (R435); ERROR and RESET end the outstanding requests (R451); a mirror queue
pair in RTS has its Ledger copies and numerics sent (R364, R387). -/
def State.enterQp (s : State) (n : Nat) (q : Qp) (old : Nat) : State :=
  if q.state = 4 ∧ old ≠ 4 then (s.setQp n { q with state := old }).failQp n false
  else if q.state = 0 ∧ old ≠ 0 then
    let s := s.setQp n { q with state := old }
    let s := ((if old = 4 then s.failRest n false else s.failQp n false)).dropEgress (· == n)
    s.modQp n (fun q => { q with state := 0, lost := false })
  else
    let s := s.setQp n q
    let s := if 2 ≤ q.state ∧ q.state < 4 ∧ old < 2 then s.resolve n else s
    if q.state = 3 ∧ old ≠ 3 then s.twinBack n else s

def doQpCreate (sess seq : Nat) (bytes : List Byte) (s : State) : State :=
  s.serve sess seq false (fun s =>
    match s.freeQpn with
    | none => (s, mbNoResource, [])
    | some n =>
      let q := ({} : Qp).setFields bytes
      let q := if sess = 0 then q else { q with ctx := sess }
      let q := { q.startPsn q.sqPsn q.rqPsn with
        used := true, rate := s.subportRate q.port, target := s.subportRate q.port, alpha := 65536 }
      ((s.enterQp n q 0).cacheIn n, mbOk, leBytes 4 n))

/-- QP_CREATE (R434, R465). -/
def execQpCreate (sess : CtxId) (seq : Nat) (bytes : List Byte) (s : State) : Answer :=
  .next (s.offer sess seq 2 (.qpCreate sess seq bytes) (doQpCreate sess seq bytes))

/-- The state changes QP_MODIFY allows (R465). -/
def qpChangeOk (old new : Nat) : Bool :=
  new == old || new == 0 || new == 4 || (new == old + 1 && new ≤ 3)

def doQpModify (sess seq qpn : Nat) (bytes : List Byte) (s : State) : State :=
  s.serve sess seq false (fun s =>
    let n := qpn % 2 ^ 20
    let old := s.qp n
    let q := old.setFields bytes
    if !old.used ∨ old.ctx ≠ sess ∨ !qpChangeOk old.state q.state then (s, mbBadState, [])
    else
      let q := if sess = 0 then q else { q with ctx := sess }
      (s.enterQp n (q.keepWatermark old) old.state, mbOk, []))

/-- QP_MODIFY (R451, R465). -/
def execQpModify (sess : CtxId) (seq : Nat) (qpn : Nat) (bytes : List Byte) (s : State) : Answer :=
  .next (s.offer sess seq 2 (.qpModify sess seq qpn bytes) (doQpModify sess seq qpn bytes))

def doQpQuery (sess seq qpn : Nat) (s : State) : State :=
  s.serve sess seq false (fun s =>
    let n := qpn % 2 ^ 20
    let r := s.drawBytes 16
    (r.2, mbOk, (s.qp n).bytes n ++ r.1))

/-- QP_QUERY (R434, R465): bytes 112–127 are module state whose layout the spec does not give: free bytes. -/
def execQpQuery (sess : CtxId) (seq : Nat) (qpn : Nat) (s : State) : Answer :=
  .next (s.offer sess seq 1 (.qpQuery sess seq qpn) (doQpQuery sess seq qpn))

def doQpDestroy (sess seq qpn : Nat) (s : State) : State :=
  s.serve sess seq false (fun s =>
    let n := qpn % 2 ^ 20
    let q := s.qp n
    if !q.used then (s, mbOk, [])
    else if !q.holds.isEmpty then (s, mbBadState, [])
    else ((s.enterQp n { q with state := 0 } q.state).dropQps (fun m _ => m == n), mbOk, []))

/-- QP_DESTROY (R465): of any session, but for a queue pair with a parked SIG; one that is free already stays free (log entry 93). -/
def execQpDestroy (sess : CtxId) (seq : Nat) (qpn : Nat) (s : State) : Answer :=
  .next (s.offer sess seq 2 (.qpDestroy sess seq qpn) (doQpDestroy sess seq qpn))

/-! PORT_ADDR and BELL_SET. -/

def doPortAddr (sess seq port sub : Nat) (ipv4 : BitVec 32) (ipv6 : BitVec 128) (s : State) : State :=
  s.serve sess seq true (fun s =>
    (s.setSub (min 7 port) (min 3 sub) { s.sub (min 7 port) (min 3 sub) with ipv4 := ipv4, ipv6 := ipv6 }, mbOk, []))

/-- PORT_ADDR (R421, R465). -/
def execPortAddr (sess : CtxId) (seq : Nat) (port sub : Nat) (ipv4 : BitVec 32) (ipv6 : BitVec 128) (s : State) : Answer :=
  .next (s.offer sess seq 2 (.portAddr sess seq port sub ipv4 ipv6) (doPortAddr sess seq port sub ipv4 ipv6))

def doBellSet (sess seq epoch period : Nat) (s : State) : State :=
  s.serve sess seq true (fun s =>
    if s.tenants then (s, mbBadState, [])
    else ({ s with bellEpoch := epoch % 2 ^ 64, bellPeriod := clampTo 50 10000 period }.setPhase 5, mbOk, []))

/-- BELL_SET (R460). -/
def execBellSet (sess : CtxId) (seq : Nat) (epoch period : Nat) (s : State) : Answer :=
  .next (s.offer sess seq 1 (.bellSet sess seq epoch period) (doBellSet sess seq epoch period))

end Sys2Proof.Machine
end

