-- ==== Sys2Proof/Machine/Firmware.lean ====
section
/-! DEFINITION. Firmware cores: restarts alone, staging, activation, rollback and logs (R472–R495). -/

namespace Sys2Proof.Machine

/-! Cores (R474–R480). -/

/-- Restart reasons (FW_COREn.REASON). -/
def whyWatchdog : Nat := 1
def whyMemUe : Nat := 2
def whyActivation : Nat := 3
def whyHost : Nat := 4
def whyRollback : Nat := 5

def State.setCore (s : State) (k : Nat) (x : Core) : State := { s with fw := { s.fw with cores := Table.put s.fw.cores k x } }

/-- Has a time in ms passed since a Bell? -/
def State.msPast (s : State) (b ms : Nat) : Bool := ms * 1000 ≤ (s.bellNow - b) * s.bellPeriod

/-- The restarts of the last 600 s that R479 counts, with one for this reason at this Bell. -/
def State.recentWith (s : State) (x : Core) (why : Nat) : List Nat :=
  let old := x.recent.filter (fun b => (s.bellNow - b) * s.bellPeriod ≤ 600000000)
  if why = whyActivation ∨ why = whyHost then old else s.bellNow :: old

/-- The fourth such restart: the module reports itself failed, or parks its contexts when it is alone (R479). -/
def State.coreFatal (s : State) : State :=
  if s.grouped then s.askReport s.devid whySelfFailed
  else (s.contexts.filter (· != 0)).foldl (fun s c => s.parkCtx c) s

/-- The image a restart alone loads (R475): a copy in hub SRAM whose hash matches the record, or the active flash slot's when neither does. -/
def Firmware.matching (f : Firmware) (k : Nat) : Image :=
  ((Table.get [] f.copies k).find? (fun i => i.hash == Table.get 0 f.loads k)).getD (f.flashImage f.activeB k)

/-- The image a core loads (R473, R475, R489, R490): an activation's is the staged slot's, a rollback's the copy for the previous slot. -/
def Firmware.toLoad (f : Firmware) (k why : Nat) : Image :=
  if why = whyActivation then f.flashImage (!f.activeB) k
  else if why = whyRollback then Table.get (f.flashImage f.activeB k) f.prev k
  else f.matching k

/-- What hub SRAM holds for a core that loads an image: for an activation or a rollback two copies of it, and one of what the core ran
before. -/
def Firmware.keepImages (f : Firmware) (k why : Nat) (old new : Image) : Firmware :=
  if why = whyActivation ∨ why = whyRollback then
    { f with copies := Table.put f.copies k [new, new], prev := Table.put f.prev k old, loads := Table.put f.loads k new.hash }
  else f

/-- A restart alone begins: its registers' shadow copies stand (R458), the core loads its image (R475), and FW_RESTART says so (R494). -/
def State.beginRestart (s : State) (k why : Nat) : State :=
  let copies := s.shadowCopies k
  let x := s.core k
  let recent := s.recentWith x why
  let fatal := !(why == whyActivation || why == whyHost) && 4 ≤ recent.length
  let img := s.fw.toLoad k why
  let s := { s with fw := { s.fw.keepImages k why x.img img with frozen := Table.put s.fw.frozen k copies } }
  let s := s.setCore k {
    state := 1, reason := why, slot := img.slot, img := img, restarts := min 65535 (x.restarts + 1), since := s.bellNow, recent := recent }
  let s := s.eventAll 0x0100 [(k, 8), (why, 4), (if fatal then 1 else 0, 1), (min 65535 (x.restarts + 1), 16), ((s.coreVersion k).toNat, 64)]
  if fatal then s.coreFatal else s

/-- Is a core restarting? At most one is at a time (R477). -/
def State.restarting (s : State) : Bool := (List.range 8).any (fun k => (s.core k).state == 1)

/-- Ask for a restart: at once, or after the restart under way, or for FP7 after the emergency (R477, R478). -/
def State.askRestart (s : State) (k why : Nat) : State :=
  if s.restarting ∨ (k = 7 ∧ s.emergency) then
    (s.setCore k { s.core k with state := 2, why := why }).modPwr (fun p => { p with hold := p.hold || (k == 7 && s.emergency) })
  else s.beginRestart k why

/-- May a core that waits start now? FP7, held through an emergency, starts at a Bell after it has cleared (R478). -/
def State.mayStart (s : State) (atBell : Bool) (k : Nat) : Bool := k != 7 || (!s.emergency && (atBell || !s.pwr.hold))

/-- The next core that waits: those of a rollback in their order, and then the lowest number (R477, R490). -/
def State.nextWaiting (s : State) (atBell : Bool) : Option Nat :=
  match s.fw.undo with
  | k :: _ => if s.mayStart atBell k then some k else none
  | [] => (List.range 8).find? (fun k => (s.core k).state == 2 && s.mayStart atBell k)

/-- Begin the next restart that waits. -/
def State.startWaiting (s : State) (atBell : Bool) : State :=
  if s.restarting then s
  else match s.nextWaiting atBell with
    | none => s
    | some k =>
      if s.fw.undo.contains k then
        let undo := s.fw.undo.erase k
        let onS := s.fw.onStaged.filter (· != k)
        { s with fw := { s.fw with undo := undo, onStaged := onS } }.beginRestart k whyRollback
      else s.beginRestart k (s.core k).why

/-! Updates (R487–R494). -/

/-- FW_UPDATE to every C0 session (R494). -/
def State.fwEvent (s : State) : State :=
  s.event 0 0x0101 [(s.fw.updState, 4), (s.fw.updResult, 4), (coreMask s.fw.onStaged, 8), (s.fw.stg.toNat, 64)]

def State.setUpd (s : State) (st res : Nat) : State := { s with fw := { s.fw with updState := st, updResult := res } }

/-- Every core that runs the staged image goes back to the previous slot, in reverse order (R490). -/
def State.rollback (s : State) : State :=
  let undo := s.fw.current.toList ++ s.fw.onStaged.reverse
  let s := { s with fw := { s.fw with order := [], current := none, undo := undo } }
  ((s.setUpd (if s.fw.updState = 1 then 1 else 2) 9).fwEvent).startWaiting false

/-- Image entry i of a bundle's header: KIND, OFFSET, LEN and SHA-256 (R487). -/
def imageEntry (bs : List Byte) (i : Nat) : Nat × Nat × Nat × BitVec 256 :=
  let e := (bs.drop (32 + 48 * i)).take 48
  (leNat (e.take 1), leNat ((e.drop 8).take 4), leNat ((e.drop 12).take 4), digestOf ((e.drop 16).take 32))

def imageBytes (bs : List Byte) (e : Nat × Nat × Nat × BitVec 256) : List Byte := (bs.drop e.2.1).take e.2.2.1

def bundleImages (bs : List Byte) : List (Nat × Nat × Nat × BitVec 256) :=
  (List.range (min 10 (leNat ((bs.drop 7).take 1)))).map (imageEntry bs)

/-- Order 1 of R488. -/
def bundleFormOk (bs : List Byte) : Bool :=
  let nimg := leNat ((bs.drop 7).take 1)
  576 ≤ bs.length && bs.length ≤ 64 * 2 ^ 20 && leNat (bs.take 4) == 0x46584D49 && leNat ((bs.drop 4).take 2) == 1 &&
    1 ≤ nimg && nimg ≤ 10 && (bundleImages bs).all (fun e => e.1 ≤ 9 && 576 ≤ e.2.1 && e.2.1 + e.2.2.1 ≤ bs.length)

/-- The RESULT of the checks of R488, orders 1–5; 0 when all pass. -/
def bundleResult (bs : List Byte) (svn : Nat) : Nat :=
  if !bundleFormOk bs then 2
  else if leNat ((bs.drop 6).take 1) ≠ 0xB0 then 6
  else if !signatureValid 0 (bs.take 512) ((bs.drop 512).take 64) then 3
  else if !(bundleImages bs).all (fun e => sha256 (imageBytes bs e) == e.2.2.2) then 4
  else if leNat ((bs.drop 24).take 4) < svn then 5
  else 0

/-- What the flash slot of a bundle holds. -/
def readBundle (bs : List Byte) : Bundle :=
  { present := true, sigOk := true, fp0Ok := true, imagesOk := true, svn := leNat ((bs.drop 24).take 4)
    version := BitVec.ofNat 64 (leNat ((bs.drop 8).take 8)), minPrev := BitVec.ofNat 64 (leNat ((bs.drop 16).take 8))
    hashes := (bundleImages bs).map (fun e => (e.1, e.2.2.2))
    catalogue := match (bundleImages bs).find? (fun e => e.1 == 8) with | some e => imageBytes bs e | none => [] }

/-- FW_STAGE reads the bundle from HBM outside the system area; elsewhere there is no bundle. -/
def State.stagedBytes (s : State) (addr len : Nat) : List Byte :=
  let a := addr % 2 ^ 48 / 64 * 64
  if inHbm a len then Memory.readBytes s.mem a len else []

def doFwStage (sess seq addr len : Nat) (s : State) : State :=
  s.serve sess seq true (fun s =>
    if [1, 3, 4, 5].contains s.fw.updState then (s, mbBadState, [])
    else
      let bs := s.stagedBytes addr (len % 2 ^ 32)
      let b := (bundleResult bs s.sec.fwSvn, readBundle bs)
      (({ s with fw := { s.fw with staging := some b } }.setUpd 1 0), mbOk, []))

/-- FW_STAGE (R488, R493): it completes when its checks begin. -/
def execFwStage (sess : CtxId) (seq : Nat) (addr len : Nat) (s : State) : Answer :=
  .next (s.offer sess seq 6 (.fwStage sess seq addr len) (doFwStage sess seq addr len))

/-- Write the inactive flash slot. -/
def Firmware.putInactive (f : Firmware) (b : Bundle) : Firmware := if f.activeB then { f with slotA := b } else { f with slotB := b }

/-- STAGING_DONE (R488): the first failed check ends the staging and nothing is written; a flash write that fails leaves the
inactive slot invalid. It waits while FP6 restarts (R476). -/
def execStagingDone (flashOk : Bool) (s : State) : Answer :=
  .next (match s.fw.staging with
    | none => s
    | some (res, b) =>
      if !s.up 6 then s.hold 6 (.stagingDone flashOk)
      else
      let f := { s.fw with staging := none }
      let idle := if f.isStaged then 2 else 0
      if res ≠ 0 then ({ s with fw := f }.setUpd idle res).fwEvent
      else if !flashOk then ({ s with fw := { f.putInactive {} with isStaged := false, stg := 0 } }.setUpd 0 10).fwEvent
      else ({ s with fw := { f.putInactive b with isStaged := true, stg := b.version, onStaged := [] } }.setUpd 2 0).fwEvent)

/-- The order of an activation (R489). -/
def activationOrder : List Nat := [6, 5, 2, 4, 3, 1, 7]

def State.stagedBundle (s : State) : Bundle := s.fw.slot (!s.fw.activeB)

def doFwActivate (sess seq : Nat) (s : State) : State :=
  s.serve sess seq true (fun s =>
    if s.fw.updState ≠ 2 ∨ !s.fw.isStaged then (s, mbBadState, [])
    else if s.fwVersion < s.stagedBundle.minPrev.toNat then
      let f := { s.fw with activeB := !s.fw.activeB, isStaged := false, stg := 0 }
      (({ s with fw := f }.setUpd 0 7).fwEvent, mbOk, [])
    else
      let f := { s.fw with order := activationOrder.filter (fun k => !s.fw.onStaged.contains k), waitSince := s.bellNow }
      (({ s with fw := f }.setUpd 4 0).fwEvent, mbOk, []))

/-- FW_ACTIVATE (R489, R493). -/
def execFwActivate (sess : CtxId) (seq : Nat) (s : State) : Answer :=
  .next (s.offer sess seq 6 (.fwActivate sess seq) (doFwActivate sess seq))

/-- FP6's sequencing at a Bell (R489, R491, R495): the next core restarts, or the activation waits for an emergency to clear. -/
def State.activationTick (s : State) : State :=
  if !(s.fw.updState = 3 ∨ s.fw.updState = 4) ∨ s.fw.current.isSome ∨ !s.up 6 ∨ s.restarting then s
  else match s.fw.order with
    | [] => s
    | k :: ks =>
      if s.emergency then
        if s.fw.updState = 3 then s
        else ({ s with fw := { s.fw with waitSince := s.bellNow } }.setUpd 3 s.fw.updResult).fwEvent
      else
        let s := if s.fw.updState = 3 then s.setUpd 4 s.fw.updResult else s
        { s with fw := { s.fw with order := ks, current := some k } }.beginRestart k whyActivation

/-- ACTIVATION_LAPSE (R491): 10 s of waiting. -/
def execActivationLapse (s : State) : Answer :=
  .next (if s.fw.updState = 3 ∧ s.msPast s.fw.waitSince 10000 then
    if !s.up 6 then s.hold 6 .activationLapse
    else ({ s with fw := { s.fw with order := [] } }.setUpd 2 8).fwEvent
  else s)

/-- Has the restart of a core the limit of 50 ms: it is the one that an activation restarts, or FP6, restarting while it sequences an
activation (R490, R495)? -/
def State.limited (s : State) (k : Nat) : Bool :=
  s.fw.current == some k || (k == 6 && (s.fw.updState == 3 || s.fw.updState == 4) && (s.core 6).state == 1)

/-- RESTART_TIMEOUT (R490, R495). -/
def execRestartTimeout (core : Fin 8) (s : State) : Answer :=
  .next (if s.limited core.val ∧ s.msPast (s.core core).since 50 then
    (s.setCore core { s.core core with state := 2 }).rollback
  else s)

/-- CONFIRMATION (R492, R505): FW_SVN is raised first, and then the staged slot is the active one. -/
def execConfirmation (s : State) : Answer :=
  .next (if s.fw.updState = 5 ∧ s.msPast s.fw.confirmSince 60000 then
    if !s.up 6 then s.hold 6 .confirmation
    else
    let s := { s with sec := { s.sec with fwSvn := max s.sec.fwSvn s.stagedBundle.svn } }
    let s := { s with fw := { s.fw with activeB := !s.fw.activeB, onStaged := [], isStaged := false } }
    let s := (s.setUpd 0 1).fwEvent
    { s with fw := { s.fw with stg := 0 } }
  else s)

def doFwRestart (sess seq core : Nat) (s : State) : State :=
  s.serve sess seq true (fun s =>
    let k := min 7 (core % 256)
    if k = 0 ∨ (k = 7 ∧ s.emergency) ∨ [3, 4, 5].contains s.fw.updState then (s, mbBadState, [])
    else if (s.core k).state ≠ 0 then (s, mbOk, [])
    else (s.askRestart k whyHost, mbOk, []))

/-- FW_RESTART (R493, R495). -/
def execFwRestart (sess : CtxId) (seq : Nat) (core : Nat) (s : State) : Answer :=
  .next (s.offer sess seq 1 (.fwRestart sess seq core) (doFwRestart sess seq core))

/-- Write bytes to host memory over the session queue pair. -/
def State.toHost (s : State) (sess addr : Nat) (key : Reg) (data : List Byte) : State :=
  s.postHost (s.ctx sess).ses.modQpn [(addr, key, data)]

/-- The catalogue of the running bundle: the one that FP7's image came with, the last core that an activation restarts (R489; log entry
97). -/
def State.catalogue (s : State) : List Byte := (s.core 7).img.catalogue

def doFwCatalogue (sess seq addr len : Nat) (s : State) : State :=
  s.serve sess seq true (fun s =>
    let r := s.draw64
    (r.2.toHost sess addr (r.1.setWidth 32) (s.catalogue.take len), mbOk, []))

/-- FW_CATALOGUE (R493). Its arguments name no key: a free value. -/
def execFwCatalogue (sess : CtxId) (seq : Nat) (addr len : Nat) (s : State) : Answer :=
  .next (s.offer sess seq 6 (.fwCatalogue sess seq addr len) (doFwCatalogue sess seq addr len))

/-! Watchdogs (R474, R478, R490). -/

/-- A core fails: FP0 takes the module with it, and the straps are read anew, with what the row does not say: a free slot ID (R548; log entry
131); another is restarted alone, and one that runs a staged image nobody has confirmed takes the activation back (R490). -/
def State.coreFails (s : State) (k why : Nat) : State :=
  if (s.core k).state ≠ 0 then s
  else if k = 0 then
    if s.phase < 2 then (s.setCore 0 { s.core 0 with state := 3 }).bootFailed 5
    else
      let r := s.draw64
      r.2.moduleReset offWatchdog (bits r.1 2 0)
  else if s.phase < 2 ∨ s.phase = 7 then s
  else if why = whyWatchdog ∧ s.fw.onStaged.contains k then
    ((s.setCore k { s.core k with state := 2, why := whyRollback }).modPwr
      (fun p => { p with hold := p.hold || (k == 7 && s.emergency) })).rollback
  else
    let s := if s.fw.updState = 5 then { s with fw := { s.fw with confirmSince := s.bellNow } } else s
    s.askRestart k why

/-- WATCHDOG_EXPIRY (R474). -/
def execWatchdogExpiry (core : Fin 8) (s : State) : Answer := .next (s.coreFails core whyWatchdog)

/-! Logs and traces (R481–R486). -/

/-- A core's level in FW_LOGCFG (R483). -/
def State.logLevel (s : State) (k : Nat) : Nat := bits (s.regEff 0x140) (2 * k + 1) (2 * k)

def logQueueMax : Nat := 64

/-- A core stages one record whose presence, level, code and CTX are free: what the firmware logs is its own (log entry 18). -/
def State.stageLog (s : State) (k : Nat) : State :=
  let r := s.draw64
  let q := s.fw.logQueue
  let rec' : LogRec := ⟨s.bellNow, s.fw.logSeq, k, bits r.1 2 1, if bit r.1 3 then 0xFF else bits r.1 7 4, bits r.1 31 16⟩
  let wants := bit r.1 0 && Nat.ble (bits r.1 2 1) (s.logLevel k) && s.up k
  let full := Nat.ble logQueueMax (q.filter (fun e => e.src == k)).length
  let f := s.fw
  { r.2 with fw := { f with
    logQueue := if wants && !full then q ++ [rec'] else q
    logSeq := if wants && !full then f.logSeq + 1 else f.logSeq
    logLost := if wants && full then min (2 ^ 32 - 1) (f.logLost + 1) else f.logLost } }

/-- Does a trace group emit (R484, R486)? -/
def State.traceOn (s : State) (g : Nat) : Bool :=
  bit (s.regEff 0x150) 31 && g < 0xC0 && bit (s.regEff (0x160 + 4 * (g / 32))) (g % 32)

/-- A core that runs, or hub hardware (8), emits one trace point; its presence, its ID and whether its staging is full are free
(R484–R486; log entry 18). -/
def State.stageTrace (s : State) (k : Nat) : State :=
  let r := s.draw64
  let g := if k < 8 then 16 * k + bits r.1 3 0 else 0x80 + bits r.1 9 4 % 64
  let f := s.fw
  let stop := bit (s.regEff 0x150) 30 && Nat.ble traceSlots (f.trcSeq - f.trcBase)
  let wants := bit r.1 10 && s.traceOn g && !f.trcFull && (k == 8 || s.up k)
  let emit := wants && !stop && !bit r.1 11
  let t := if emit then r.2.unpoke (windowBase + 0x4000000 + f.trcSeq % traceSlots * 32) 32 else r.2
  { t with fw := { f with
    trcFull := f.trcFull || (wants && stop) || (emit && bit (s.regEff 0x150) 30 && Nat.ble traceSlots (f.trcSeq + 1 - f.trcBase))
    trcLost := if wants && !stop && bit r.1 11 then min (2 ^ 32 - 1) (f.trcLost + 1) else f.trcLost
    trcRing := if emit then (⟨f.trcSeq, s.bellNow, 256 * g + bits r.1 23 16, k⟩ :: f.trcRing).take traceSlots else f.trcRing
    trcSeq := if emit then f.trcSeq + 1 else f.trcSeq } }

/-- LOG_COPY (R481, R482): FP6 copies the staged records to the ring in SEQ order. While FP6 restarts they stay staged, and the
cores and the hub stage and trace on (R476). -/
def execLogCopy (s : State) : Answer :=
  .next (if s.phase < 2 then s
    else
      let s := (List.range 8).foldl State.stageLog s
      let s := (List.range 9).foldl State.stageTrace s
      let f := s.fw
      if !s.up 6 then s
      else
        let s := f.logQueue.foldl (fun s r => s.unpoke (windowBase + r.seq % logSlots * 64) 64) s
        { s with fw := { f with logRing := (f.logQueue.reverse ++ f.logRing).take logSlots, logQueue := [] } })

/-- EVENT_FLUSH (R467). -/
def execEventFlush (ctx : CtxId) (s : State) : Answer := .next (s.flushEvents ctx)

end Sys2Proof.Machine
end

