-- ==== Sys2Proof/Machine/Security.lean ====
section
/-! DEFINITION. The security commands (R496–R512) and HLTH_DUMP (R536). -/

namespace Sys2Proof.Machine

/-- A report without its signature (R506). -/
def State.reportBody (s : State) (nonce : BitVec 256) : List Byte :=
  let flags := flag s.sec.debug 0 + flag s.fwMixed 1 + flag s.sec.fallback 2 + flag (!s.sec.overlay.isEmpty) 3
  leBytes 4 0x54415458 ++ leBytes 2 1 ++ leBytes 2 0x4081 ++ leBytes 1 0xB0 ++ leBytes 1 flags ++ leBytes 2 s.devid ++
    leBytes 4 0 ++ leBytes 8 Config.serial.toNat ++ leBytes 8 s.bellNow ++ leBytes 8 s.fwVersion ++ leBytes 4 s.sec.fwSvn ++
    leBytes 4 s.sec.cfgSvn ++ digestBytes nonce ++ (List.range 11).flatMap (fun k => digestBytes (Table.get 0 s.sec.meas k)) ++
    leBytes 16 0

def doAttest (sess seq addr : Nat) (key : Reg) (nonce : BitVec 256) (s : State) : State :=
  s.serve sess seq false (fun s =>
    let body := s.reportBody nonce
    (s.toHost sess addr key (body ++ ecdsaSign (s.sec.idKey.getD 0) body), mbOk, []))

/-- ATTEST (R506, R509). -/
def execAttest (sess : CtxId) (seq : Nat) (addr : Nat) (key : Reg) (nonce : BitVec 256) (s : State) : Answer :=
  .next (s.offer sess seq 1 (.attest sess seq addr key nonce) (doAttest sess seq addr key nonce))

/-- The identity public key, X then Y, and the device certificate (R499, R509). -/
def Security.identityBytes (x : Security) : List Byte := publicKey (x.idKey.getD 0) ++ Config.certificate.take 2048

def doIdentity (sess seq addr : Nat) (key : Reg) (s : State) : State :=
  s.serve sess seq false (fun s => (s.toHost sess addr key s.sec.identityBytes, mbOk, []))

/-- IDENTITY (R509). -/
def execIdentity (sess : CtxId) (seq : Nat) (addr : Nat) (key : Reg) (s : State) : Answer :=
  .next (s.offer sess seq 1 (.identity sess seq addr key) (doIdentity sess seq addr key))

/-! CFG_UPDATE (R502, R503). -/

/-- RESULT codes of R509. -/
def resOk : Nat := 0
def resBadFormat : Nat := 1
def resBadSignature : Nat := 2
def resWrongSerial : Nat := 3
def resStaleNonce : Nat := 4
def resRollback : Nat := 5
def resFlash : Nat := 6

/-- A configuration record: its header as the checks read it, its digest, and what its body gives (R502). -/
def readCfg (bs : List Byte) : CfgRecord :=
  let len := leNat ((bs.drop 20).take 4)
  { formOk := leNat (bs.take 4) == 0x47464E43 && leNat ((bs.drop 4).take 2) == 1 && leNat ((bs.drop 6).take 1) == 0xB0 &&
      128 ≤ len && len ≤ 65536 && len == bs.length
    serialOk := BitVec.ofNat 64 (leNat ((bs.drop 8).take 8)) == Config.serial
    sigOk := signatureValid 1 (bs.take (len - 64)) ((bs.drop (len - 64)).take 64)
    svn := leNat ((bs.drop 16).take 4)
    digest := sha256 bs
    values := Config.recordValues ((bs.drop 64).take (len - 128)), mac := some (Config.recordMac ((bs.drop 64).take (len - 128))) }

/-- The RESULT of the checks of R502. -/
def CfgRecord.result (c : CfgRecord) (svn : Nat) (flashOk : Bool) : Nat :=
  if !c.formOk then resBadFormat
  else if !c.serialOk then resWrongSerial
  else if !c.sigOk then resBadSignature
  else if c.svn < svn then resRollback
  else if !flashOk then resFlash
  else resOk

/-- SEC_EVENT (R510). -/
def State.secEvent (s : State) (kind res : Nat) : State := s.eventAll 0x0110 [(kind, 8), (res, 8)]

def doCfgUpdate (sess seq : Nat) (data : List Byte) (flashOk : Bool) (s : State) : State :=
  s.serve sess seq true (fun s =>
    if s.fw.updState = 1 then (s, mbBadState, [])
    else
      let c := readCfg data
      let res := c.result s.sec.cfgSvn flashOk
      if res = resOk then (({ s with sec := { s.sec with cfgNext := some c } }.secEvent 2 res), mbOk, leBytes 1 res)
      else (s.secEvent 3 res, mbOk, leBytes 1 res))

/-- CFG_UPDATE (R503, R509): `data` is the record read from host memory. -/
def execCfgUpdate (sess : CtxId) (seq : Nat) (data : List Byte) (flashOk : Bool) (s : State) : Answer :=
  .next (s.offer sess seq 1 (.cfgUpdate sess seq data flashOk) (doCfgUpdate sess seq data flashOk))

/-! Debug (R508, R509). -/

def failedMax : Nat := 8

def doDbgChallenge (sess seq : Nat) (s : State) : State :=
  s.serve sess seq true (fun s =>
    if failedMax ≤ s.sec.dbgFail then (s, mbNoResource, [])
    else
      let n := Config.free256 s.fresh
      ({ s with fresh := s.fresh + 1, sec := { s.sec with nonce := some n } }, mbOk, digestBytes n ++ leBytes 8 Config.serial.toNat))

/-- DBG_CHALLENGE (R508). -/
def execDbgChallenge (sess : CtxId) (seq : Nat) (s : State) : Answer :=
  .next (s.offer sess seq 1 (.dbgChallenge sess seq) (doDbgChallenge sess seq))

/-- The RESULT of an unlock token (R508). -/
def State.tokenResult (s : State) (t : List Byte) : Nat :=
  if leNat (t.take 4) ≠ 0x4B474244 then resBadFormat
  else if BitVec.ofNat 64 (leNat ((t.drop 8).take 8)) ≠ Config.serial then resWrongSerial
  else if s.sec.nonce ≠ some (digestOf ((t.drop 16).take 32)) then resStaleNonce
  else if !signatureValid 2 (t.take 64) ((t.drop 64).take 64) then resBadSignature
  else resOk

/-- A successful unlock: every context key is erased, C0 gets a new key and token, and the scope is enabled; what an earlier token enabled
stays so until a module reset (R508). -/
def State.unlock (s : State) (t : List Byte) : State :=
  let scope := leNat ((t.drop 4).take 4)
  let s := { s with ctxs := s.ctxs.map (fun (e : Nat × Ctx) => (e.1, { e.2 with key := 0 })) }
  let key := Config.free256 s.fresh
  let s := { s with fresh := s.fresh + 1 }.modCtx 0 (fun x =>
    let token := Config.deriveToken key x.ses.draws
    { x with key := key, ses := { x.ses with token := token, draws := x.ses.draws + 1 } })
  { s with sec := { s.sec with debug := true, rdOn := s.sec.rdOn || scope.testBit 0, wrOn := s.sec.wrOn || scope.testBit 1 } }

/-- A failed unlock: it is counted, and UNLOCK_REFUSED goes out (R508, R510). -/
def State.unlockFailed (s : State) (res : Nat) : State :=
  { s with sec := { s.sec with dbgFail := min failedMax (s.sec.dbgFail + 1) } }.secEvent 1 res

def doDbgUnlock (sess seq : Nat) (token : List Byte) (s : State) : State :=
  s.serve sess seq true (fun s =>
    let t := token.take 128
    let res := s.tokenResult t
    let s := { s with sec := { s.sec with nonce := none } }
    if s.tenants then
      let r := s.draw64
      (r.2.unlockFailed (bits r.1 7 0), mbBadState, [])
    else if res = resOk then
      let s := (s.unlock t).secEvent 0 res
      (s, mbOk, leBytes 1 res ++ leBytes 7 0 ++ leBytes 8 (s.ctx 0).ses.token.toNat)
    else (s.unlockFailed res, mbOk, leBytes 1 res))

/-- DBG_UNLOCK (R508, R509): the nonce is consumed either way. While a context other than C0 exists the unlock fails with
BAD_STATE; RESULT of its event is a free value (log entry 118). -/
def execDbgUnlock (sess : CtxId) (seq : Nat) (token : List Byte) (s : State) : Answer :=
  .next (s.offer sess seq 1 (.dbgUnlock sess seq token) (doDbgUnlock sess seq token))

/-- A byte of a Tally save image (R266, R401): the counts of a context that the bank does not hold. Common indices, the images of
the context a bank holds or is about to hold, and of a context that does not exist have no bytes in the spec: free (log entry 14). -/
def State.imageByte (s : State) (c bank o : Nat) : Byte :=
  if !(s.ctx c).exist ∨ c = s.tally.holds ∨ (s.tally.busy.contains bank ∧ (c = s.tally.swapOut ∨ c = s.tally.swapIn)) ∨ o / 4 < 4096 then
    Config.windowByte (s.fresh * 2 ^ 100 + 2 ^ 72 + c * 2 ^ 24 + bank * 2 ^ 20 + o)
  else (leBytes 4 (signedField 32 (s.semCount c (bank * 2 ^ 22 + o / 4)))).getD (o % 4) 0

/-- A byte of a queue pair's context in HBM: bytes 0–111 of R434, the rest the module's own; zero where QPN names no queue pair. -/
def State.qpByte (s : State) (qpn o : Nat) : Byte :=
  if !(s.qp qpn).used ∨ o < 112 then (if (s.qp qpn).used then ((s.qp qpn).bytes qpn).getD o 0 else 0)
  else Config.windowByte (s.fresh * 2 ^ 100 + 2 ^ 88 + qpn * 256 + o)

/-- One byte of a part of the system areas (R401). The numerics stores, the firmware and what is reserved have no layout in the spec: free
(log entry 14). -/
def State.partByte (s : State) : AreaPart → Byte
  | .save c l o => s.saveByte c l o
  | .image c bank o => s.imageByte c bank o
  | .qp n o => s.qpByte n o
  | .stats _ w | .ledger _ w | .logs w => s.systemByte w
  | .numerics c o => Config.windowByte (s.fresh * 2 ^ 100 + 2 ^ 81 + c * 2 ^ 40 + o)
  | .firmware o => Config.windowByte (s.fresh * 2 ^ 100 + 2 ^ 82 + o)
  | .reserved d o => Config.windowByte (s.fresh * 2 ^ 100 + 2 ^ 80 + d * 2 ^ 40 + o)

/-- A byte of the module's own structures, unless another was put there. -/
def State.pokedOr (s : State) (a : Nat) (b : Byte) : Byte := if Table.has s.sec.poked a then Table.get 0 s.sec.poked a else b

/-- One byte of any mapped device address (R395), the system area included; unmapped addresses have none, and those of far memory are
another module's: free (log entry 129). -/
def State.deviceByte (s : State) (a : Nat) : Byte :=
  if a < hbmEnd then
    (match areaPart a with
    | some p => s.pokedOr (p.home a) (s.partByte p)
    | none => Memory.read s.mem a)
  else if inSomeStore a 1 then Memory.read s.mem a
  else if tallyBase ≤ a ∧ a < tallyBase + 0x4000000 then
    (leBytes 4 (s.tallyWord ((a - tallyBase) / 4))).getD (a % 4) 0
  else if regBase ≤ a ∧ a < regBase + 0x110000 then
    (leBytes 4 (s.readWord ((a - regBase) / 4 * 4)).toNat).getD (a % 4) 0
  else if windowBase ≤ a ∧ a < windowBase + 0x21000000 then s.pokedOr a (s.systemByte (a - windowBase))
  else if farBase ≤ a then Config.windowByte (s.fresh * 2 ^ 100 + 2 ^ 90 + a)
  else 0

def State.deviceBytes (s : State) (a n : Nat) : List Byte := (List.range n).map (fun i => s.deviceByte (a + i))

/-- Is a range mapped (R395)? Far memory is for a debug command what C0's windows map (log entry 129). -/
def State.mapped (s : State) (a n : Nat) : Bool :=
  a + n ≤ hbmEnd || inSomeStore a n || (tallyBase ≤ a && a + n ≤ tallyBase + 0x4000000) ||
    (regBase ≤ a && a + n ≤ regBase + 0x110000) || (windowBase ≤ a && a + n ≤ windowBase + 0x21000000) || (s.farPlaceOf 0 a n).isSome

/-- Block count of a debug copy. -/
def dbgBytes (blocks : Nat) : Nat := blocks % 2 ^ 32 * 64

def doDbgRead (sess seq dev host blocks : Nat) (s : State) : State :=
  s.serve sess seq true (fun s =>
    if !s.sec.rdOn ∨ !s.mapped (dev % 2 ^ 48) (dbgBytes blocks) then (s, mbBadState, [])
    else
      let r := s.draw64
      (r.2.toHost sess host (r.1.setWidth 32) (s.deviceBytes (dev % 2 ^ 48) (dbgBytes blocks)), mbOk, []))

/-- DBG_READ (R509). Its arguments name no key: a free value. An unmapped range is BAD_STATE: there is nothing to copy. -/
def execDbgRead (sess : CtxId) (seq : Nat) (dev host blocks : Nat) (s : State) : Answer :=
  .next (s.offer sess seq 1 (.dbgRead sess seq dev host blocks) (doDbgRead sess seq dev host blocks))

/-! HLTH_DUMP (R536). -/

/-- The daily values of an indicator (R536): those of the health update, and of the power cycles and matings their counts. -/
def Health.dailyOf (h : Health) (k : Nat) : List Int :=
  if k = 5 then (h.cycleLog.take 30).map (fun e => Int.ofNat e.2)
  else if k = 6 then (h.matingLog.take 30).map (fun e => Int.ofNat e.2)
  else Table.get [] h.daily k

/-- The dump: per-lane eye margins, per-stack corrected-error counts and the daily values of the six indicators (log entry 14). -/
def Health.dump (h : Health) : List Byte :=
  Config.dumpBytes h.eyeLanes h.ceStacks ([1, 2, 3, 4, 5, 6].map h.dailyOf)

def doHlthDump (sess seq addr : Nat) (key : Reg) (s : State) : State :=
  s.serve sess seq false (fun s => (s.toHost sess addr key s.hlth.dump, mbOk, []))

/-- HLTH_DUMP (R536). -/
def execHlthDump (sess : CtxId) (seq : Nat) (addr : Nat) (key : Reg) (s : State) : Answer :=
  .next (s.offer sess seq 6 (.hlthDump sess seq addr key) (doHlthDump sess seq addr key))

end Sys2Proof.Machine
end

