-- ==== Sys2Proof/Machine/Registers.lean ====
section
/-! DEFINITION. Writes of registers (R8–R10, R456–R458 and the chapters of each register), GO, and the rows that stand for one
register's write. -/

namespace Sys2Proof.Machine

/-! Context pages. -/

def Ctx.putReg (x : Ctx) (o v : Nat) : Ctx := { x with shadow := Table.put x.shadow o (BitVec.ofNat 32 v) }

/-- An RWL register whose fields share a block (R8): a write of the value in effect does nothing; while the block runs another
value is ignored and noted. -/
def Ctx.putRwl (x : Ctx) (o v : Nat) (running : Bool) (note : Ctx → Ctx) : Ctx :=
  if (x.reg o).toNat = v then x else if running then note x else x.putReg o v

def Ctx.noteSes (x : Ctx) : Ctx := { x with sesIgnored := true }
def Ctx.noteMill (x : Ctx) : Ctx := { x with millIgnored := true }
def Ctx.noteLed (x : Ctx) : Ctx := { x with ledIgnored := true }

/-- Bits hi to lo of a written value, kept in place. -/
def keepBits (v hi lo : Nat) : Nat := (v >>> lo) % 2 ^ (hi + 1 - lo) * 2 ^ lo

/-- NUM_RCPn_A as written (R10, R279, R281, R284): FMT is the nearest one the kind accepts (R46); a field that the kind uses takes the
nearest value it accepts (R57, R73, R88), which reads back, and one that it ignores stays as written. -/
def recipeA (v : Nat) : Nat :=
  let kind := v / 2 ^ 29 % 8
  let w := putBits (keepBits v 31 3) 28 25 (nearest (kindFmts kind) (v / 2 ^ 25 % 16))
  if 4 ≤ kind then w
  else
    let w := putBits w 24 23 (min (if kind = 0 then 2 else if kind = 3 then 0 else 1) (v / 2 ^ 23 % 4))
    let w := putBits w 22 21 (clampTo (if kind = 3 then 1 else 0) 2 (v / 2 ^ 21 % 4))
    let w := putBits w 20 16 (clampTo 1 16 (v / 2 ^ 16 % 32))
    let w := putBits w 5 3 (min (if kind = 3 then 0 else 4) (v / 2 ^ 3 % 8))
    if v / 2 ^ 8 % 256 = 0x80 then putBits w 15 8 0x81 else w

/-- NUM_RCPn_B as written (R10, R80, R81, R280, R281): the Comet fields clamp for the kinds that use them (`a`: the entry's A register). -/
def recipeB (a v : Nat) : Nat :=
  let kind := a / 2 ^ 29 % 8
  let w := putBits (keepBits v 31 13) 21 15 (clampTo 1 64 (v / 2 ^ 15 % 128))
  if 4 ≤ kind then w
  else
    let w := putBits w 31 30 (min (if kind = 3 then 0 else 2) (v / 2 ^ 30 % 4))
    let w := putBits w 29 26 (clampTo 1 8 (v / 2 ^ 26 % 16))
    putBits w 25 22 (min 8 (v / 2 ^ 22 % 16))

/-- COUNT of NET_XSLOT (R333): the largest, not above the value written, that overlaps no other context's range. -/
def State.slotClamp (s : State) (c first count : Nat) : Nat :=
  ((s.contexts.filter (· != c)).map s.ctx).foldl (fun (k : Nat) (y : Ctx) =>
    if y.slotCount = 0 ∨ y.slotFirst + y.slotCount ≤ first then k
    else if y.slotFirst ≤ first then 0
    else min k (y.slotFirst - first)) (min count (6144 - first))

/-- NET_FWINn and NET_FWLENn as written (R413). -/
def farReg (o v : Nat) : Nat :=
  if o % 8 = 0 then putBits (keepBits v 31 24 + keepBits v 19 0) 30 24 (max 1 (v / 2 ^ 24 % 128)) else clampTo 1 8192 (v % 2 ^ 14)

/-- LED_CFG (R368, R403). -/
def State.writeLedCfg (s : State) (c v : Nat) : State :=
  let x := s.ctx c
  let g := clampTo 1 64 (v / 2 ^ 8 % 256)
  let w := keepBits v 31 16 + g * 2 ^ 8 + clampTo 1 4 (v % 8)
  if (x.reg 0x050).toNat = w then s
  else if !x.steps.isEmpty then s.modCtx c Ctx.noteLed
  else (s.modCtx c (fun x => x.putReg 0x050 (putBits w 15 8 x.regionGib))).newRegion c g

/-- A write of NUM_APPLY (R286, R287): a request for what its bits select, decided at the next Bell. -/
def Ctx.ask (x : Ctx) (v : Nat) : Ctx := { x.putReg 0x078 (v % 8) with applyAsk := v % 8 }

/-- Does any step of the context count as held? -/
def Ctx.anyHeld (x : Ctx) : Bool := !x.steps.isEmpty

/-- A write of a register of a context page with no effect outside the page. -/
def Ctx.write (x : Ctx) (o v : Nat) : Ctx :=
  let clr := fun (w : Nat) => w - (w &&& v)
  if 0x100 ≤ o ∧ o < 0x180 then
    x.putReg o (if o % 8 = 0 then recipeA v else recipeB (x.reg (o - 4)).toNat v)
  else if 0x180 ≤ o ∧ o < 0x200 then x.putReg o v
  else if 0x300 ≤ o ∧ o < 0x380 then (if (x.reg o).toNat = v then x else x.putRwl o (farReg o v) x.anyOpen Ctx.noteSes)
  else match o with
    | 0x000 => if v.testBit 2 then { x with sesIgnored := false } else x
    | 0x004 => x.putReg o (clampTo 100 60000 (v % 65536))
    | 0x010 => x.putRwl o (v % 64) x.anyHeld Ctx.noteSes
    | 0x01C => x.putReg o v
    | 0x030 => { x with ovrF := clr x.ovrF }
    | 0x034 => { x with ovrB := clr x.ovrB }
    | 0x038 => { x with ovrU := clr x.ovrU }
    | 0x040 => if v.testBit 31 then { x with satSeen := false } else x
    | 0x048 => x.putReg o (v % 65536)
    | 0x054 => { x with stuck := x.stuck && !v.testBit 31, ledIgnored := x.ledIgnored && !v.testBit 30 }
    | 0x070 => x.putReg o (putBits v 31 12 (min 1000000 (v / 2 ^ 12)))
    | 0x074 => x.putReg o (max 16 (v / 2 ^ 24) * 2 ^ 24 + keepBits v 7 1)
    | 0x078 => x.ask v
    | 0x07C => x.putReg o v
    | 0x080 => x.putReg o v
    | 0x084 => x.putRwl o v x.anyOpen Ctx.noteSes
    | 0x088 => { x with skips := clr x.skips }
    | 0x280 => x.putRwl o (keepBits v 31 24 + clampTo 1 65536 (v % 2 ^ 17)) x.anyOpen Ctx.noteSes
    | 0x288 => x.putRwl o v x.anyOpen Ctx.noteSes
    | 0x28C => x.putRwl o v x.anyOpen Ctx.noteSes
    | 0x290 => x.putRwl o (v % 2 ^ 20) x.anyOpen Ctx.noteSes
    | 0x294 => x.putRwl o (v % 2 ^ 24) x.anyOpen Ctx.noteSes
    | 0x29C => { x with xerr := clr x.xerr }
    | 0x384 => x.putRwl o (keepBits v 31 31 + v % 2 ^ 20) x.anyOpen Ctx.noteMill
    | 0x388 => x.putRwl o v x.anyOpen Ctx.noteMill
    | 0x38C => x.putRwl o v x.anyOpen Ctx.noteMill
    | 0x390 => x.putRwl o v x.anyOpen Ctx.noteMill
    | 0x39C => if v.testBit 31 then { x with millIgnored := false } else x
    | _ => x

/-- A write of a register of a context page other than GO, or of its mailbox bytes. -/
def State.putPage (s : State) (c : CtxId) (o v : Nat) : State :=
  if 0x1000 ≤ o then
    (if o < 0x1200 then
      s.modCtx c (fun x => { x with ses := { x.ses with mbox := Memory.writeBytes x.ses.mbox (o - 0x1000) (leBytes 4 v) } })
    else s)
  else match o with
    | 0x008 => s.renew c
    | 0x050 => s.writeLedCfg c v
    | 0x284 =>
      let first := v / 65536
      let w := first * 65536 + s.slotClamp c first (v % 65536)
      s.modCtx c (fun x => x.putRwl 0x284 w x.anyOpen Ctx.noteSes)
    | _ => s.modCtx c (fun x => x.write o v)

/-! The global page. -/

def State.putGlb (s : State) (o v : Nat) : State := { s with shadow := Table.put s.shadow o (BitVec.ofNat 32 v) }

def State.putGlbRwl (s : State) (o v : Nat) : State :=
  if (s.reg o).toNat = v then s else if s.tenants then { s with glbIgnored := true } else s.putGlb o v

/-- GLB_HBMCFG as written (R398). -/
def hbmCfg (v : Nat) : Nat :=
  let pool := clampTo 1 64 (v / 2 ^ 16 % 256)
  let top := (240 - pool) / 4
  pool * 2 ^ 16 + min top (v / 2 ^ 8 % 256) * 2 ^ 8 + min top (v % 256)

/-- NET_PORTn as written, without EN (R429). -/
def portCfg (v : Nat) : Nat :=
  let two := fun (lo : Nat) => min 2 (v / 2 ^ lo % 4) * 2 ^ lo
  two 29 + two 27 + keepBits v 26 26 + keepBits v 23 16 + two 14 + two 12 + two 10 + two 8 + v % 256

/-- A port starts training, or loses its links, as EN changes (R418, R429). -/
def State.enablePort (s : State) (n : Nat) (was now : Bool) : State :=
  if now && !was then (if 3 ≤ s.phase then (List.range (s.subports n)).foldl (fun s k => s.train n k) s else s)
  else if was && !now then
    (List.range 4).foldl (fun s k => s.setSub n k { s.sub n k with up := false, paused := [] }) s
  else s

/-- NET_PORTn (R429): every field but EN counts as running while EN is 1. -/
def State.writePort (s : State) (n v : Nat) : State :=
  let old := (s.portReg n).toNat
  let was := s.portEn n
  let rest := old % 2 ^ 31
  let cfg := portCfg v
  let note := was && cfg != rest
  let s := if note then s.modNet (fun t => { t with ignored := insertNat n t.ignored }) else s
  let s := s.putGlb (0x040 + 8 * n) (keepBits v 31 31 + (if was then rest else cfg))
  s.enablePort n was (v.testBit 31)

/-- NET_PSTATn (R429). -/
def State.clearPort (s : State) (n v : Nat) : State :=
  s.modNet (fun t => { t with
    ignored := if v.testBit 31 then t.ignored.filter (· != n) else t.ignored
    storm := if v.testBit 30 then t.storm.filter (· != n) else t.storm })

/-- A write of a register of the global page (R459). -/
def State.writeGlobal (s : State) (o v : Nat) : State :=
  if 0x040 ≤ o ∧ o < 0x080 then
    (if o % 8 = 0 then s.writePort ((o - 0x040) / 8) v else if o % 8 = 4 then s.clearPort ((o - 0x044) / 8) v else s)
  else if 0x160 ≤ o ∧ o < 0x178 then s.putGlb o v
  else match o with
    | 0x004 => if s.devid = v % 65536 then s else if s.tenants then { s with glbIgnored := true } else { s with devid := v % 65536 }
    | 0x008 => if v.testBit 31 then { s with glbIgnored := false } else s
    | 0x018 => s.putGlbRwl o (hbmCfg v)
    | 0x080 => s.putGlbRwl o (keepBits v 31 29 + min 2 (v / 2 ^ 27 % 4) * 2 ^ 27 + keepBits v 26 26 + v % 2 ^ 24)
    | 0x140 => s.putGlb o (v % 65536)
    | 0x150 =>
      let s := s.putGlb o (keepBits v 31 30)
      if v.testBit 29 then { s with fw := { s.fw with trcFull := false, trcBase := s.fw.trcSeq } } else s
    | 0x300 => s.putGlb o (min 11 (v / 2 ^ 20 % 16) * 2 ^ 20 + clampTo 600 1400 (v % 2 ^ 11))
    | 0x304 => if v.testBit 23 then s.modPwr (fun p => { p with unmet := false }) else s
    | 0x310 => s.putGlb o (clampTo 70 100 (v % 256))
    | _ => s

/-! DBG_WRITE (R509; log entry 129). -/

/-- One byte into HBM, a store or a part of a system area. What the hub's cache or a bank holds in the place of its HBM bytes stays, and
so do the structures the spec gives no layout: their bytes hold what was written. -/
def State.dbgByte (s : State) (a : Nat) (b : Byte) : State :=
  match areaPart a with
  | none => { s with mem := Memory.writeBytes s.mem a [b] }
  | some p =>
    match p with
    | .save _ _ o => if o < 0x420000 then s.putSaved a [b] else s.poke a [b]
    | .image c bank o =>
      if !(s.ctx c).exist ∨ c = s.tally.holds ∨ o / 4 < 4096 then s.poke a [b]
      else
        let k := bank * 2 ^ 22 + o / 4
        s.modCtx c (fun x => { x with
          image := Table.put x.image k (signed 32 (putByte (signedField 32 (Table.get 0 x.image k)) (o % 4) b)) })
    | .qp n o =>
      let q := s.qp n
      if q.used ∧ o < 112 ∧ !s.cached n then s.setQp n (q.setFields ((q.bytes n).set o b)) else s.poke a [b]
    | p => s.poke (p.home a) [b]

/-- Bytes from an address on. -/
def State.dbgBytesTo (s : State) (a : Nat) : List Byte → State
  | [] => s
  | b :: bs => (s.dbgByte a b).dbgBytesTo (a + 1) bs

/-- The word at a device address, once bytes are put over the window it lies in. -/
def State.dbgWord (s : State) (base : Nat) (data : List Byte) (w : Nat) : Nat :=
  leNat ((List.range 4).map (fun i =>
    if base ≤ w + i ∧ w + i < base + data.length then data.getD (w + i - base) 0 else s.deviceByte (w + i)))

/-- Addresses of the words that bytes from an address on meet, in ascending order. -/
def wordsMet (a n : Nat) : List Nat := (List.range ((a + n + 3) / 4 - a / 4)).map (fun i => 4 * (a / 4 + i))

/-- A semaphore's count takes a value, and what waits for it is tested (R253, R257). -/
def State.dbgCount (s : State) (k v : Nat) : State :=
  let last := if k / 2 ^ 22 = 2 then 16383 else 65535
  if k / 2 ^ 22 < 3 ∧ k % 2 ^ 22 ≤ last then { s with tally := (s.tally.setCount k (signed 32 v)).test k } else s

/-- A word that no session writes, of a DBG_WRITE or of an image record (R388, R509): a register takes it, and no command starts, for GO is a
session's own (R464). -/
def State.putWord (s : State) (off v : Nat) : State :=
  if off < 0x10000 then (if off < 0x1000 then s.writeGlobal off v else s)
  else if off % 0x10000 = 0x00C ∨ !(s.ctx (off / 0x10000 - 1)).exist then s
  else s.putPage (Fin.ofNat 16 (off / 0x10000 - 1)) (off % 0x10000) v

/-- The bytes of a DBG_WRITE land in a mapped range. -/
def State.dbgPut (s : State) (a : Nat) (data : List Byte) : State :=
  if a < tallyBase then
    let s := s.dbgBytesTo a data
    (s.contexts.filter (fun c =>
      let o := numericsAddr c
      o < a + data.length && a < o + 66 * 2 ^ 20)).foldl (fun s c => s.spoilStore c) s
  else if a < regBase then
    (wordsMet a data.length).foldl (fun s w => s.dbgCount ((w - tallyBase) / 4) (s.dbgWord a data w)) s
  else if a < windowBase then (wordsMet a data.length).foldl (fun s w => s.putWord (w - regBase) (s.dbgWord a data w)) s
  else if a < farBase then s.poke a data
  else match s.farPlaceOf 0 a data.length with
    | some (.far n r _) => s.post n .control ((s.qp n).packets data.length) true (fun p => .rdmaWriteData n p r data)
    | _ => s

def doDbgWrite (sess seq dev blocks : Nat) (data : List Byte) (s : State) : State :=
  s.serve sess seq true (fun s =>
    let a := dev % 2 ^ 48
    let n := dbgBytes blocks
    if !s.sec.wrOn ∨ !s.mapped a n then (s, mbBadState, []) else (s.dbgPut a (data.take n), mbOk, []))

/-- DBG_WRITE (R508, R509): into any mapped range. -/
def execDbgWrite (sess : CtxId) (seq : Nat) (dev blocks : Nat) (data : List Byte) (s : State) : Answer :=
  .next (s.offer sess seq 1 (.dbgWrite sess seq dev blocks data) (doDbgWrite sess seq dev blocks data))

/-! Who may write a register (R456). -/

/-- May a session of context `c` write an offset (R456)? -/
def mayWrite (c off : Nat) : Bool := match pageOf off with | none => c == 0 | some d => c == d

/-- May it read it? -/
def mayRead (c off : Nat) : Bool := match pageOf off with | none => true | some d => c == d || c == 0

/-! GO (R464). -/

/-- Argument field of a command: `size` bytes at argument offset `off`. -/
def argOf (a : List Byte) (off size : Nat) : Nat := leNat ((a.drop off).take size)

/-- A step descriptor in memory (R367). -/
def descOf (bs : List Byte) : StepDesc :=
  { step := argOf bs 0 8, pcF := BitVec.ofNat 48 (argOf bs 8 6), pcB := BitVec.ofNat 48 (argOf bs 16 6)
    pcU := BitVec.ofNat 48 (argOf bs 24 6), batch := argOf bs 32 6, batchLen := argOf bs 40 5, ballots := argOf bs 48 2
    upcmts := argOf bs 50 2, progVer := BitVec.ofNat 64 (argOf bs 56 8) }

/-- Execute a command that the mailbox holds (R465, R493, R509, R536): the core it needs and what it does. CFG_UPDATE and DBG_WRITE
read host memory, which a word of the mailbox does not carry: their own rows are their form (log entry 19). -/
def mailboxRun (sess seq : Nat) (c : CtxId) (op len : Nat) (a : List Byte) : Option (Nat × Instr × (State → State)) :=
  match op with
  | 0x0001 => some (1, .renew c seq, doRenew sess seq)
  | 0x0002 => if argOf a 0 1 % 2 = 0 then some (1, .closeDetach c seq, doCloseDetach sess seq)
              else some (1, .closeRelease c seq, doCloseRelease sess seq)
  | 0x0010 => some (3, .launch c seq, doLaunch sess seq)
  | 0x0012 => some (1, .switch c seq (argOf a 0 1) (argOf a 1 8), doSwitch sess seq (argOf a 0 1) (argOf a 1 8))
  | 0x0020 =>
    let ds := (List.range (clampTo 1 3 (len / 64))).map (fun i => descOf ((a.drop (64 * i)).take 64))
    some (3, .submit c seq ds, doSubmit sess seq ds)
  | 0x0021 => some (1, .semAdd c seq (argOf a 0 3) (BitVec.ofNat 32 (argOf a 3 4)),
      doSemAdd sess seq (argOf a 0 3) (BitVec.ofNat 32 (argOf a 3 4)))
  | 0x0030 => some (2, .qpCreate c seq (a.take 112), doQpCreate sess seq (a.take 112))
  | 0x0031 => some (2, .qpModify c seq (argOf a 0 4) ((a.drop 4).take 112), doQpModify sess seq (argOf a 0 4) ((a.drop 4).take 112))
  | 0x0032 => some (1, .qpQuery c seq (argOf a 0 4), doQpQuery sess seq (argOf a 0 4))
  | 0x0033 => some (2, .qpDestroy c seq (argOf a 0 4), doQpDestroy sess seq (argOf a 0 4))
  | 0x0040 =>
    let p := argOf a 0 1; let k := argOf a 1 1
    let v4 := BitVec.ofNat 32 (argOf a 2 4); let v6 := BitVec.ofNat 128 (argOf a 6 16)
    some (2, .portAddr c seq p k v4 v6, doPortAddr sess seq p k v4 v6)
  | 0x0041 => some (1, .bellSet c seq (argOf a 0 8) (argOf a 8 4), doBellSet sess seq (argOf a 0 8) (argOf a 8 4))
  | 0x0080 => some (6, .fwStage c seq (argOf a 0 8) (argOf a 8 4), doFwStage sess seq (argOf a 0 8) (argOf a 8 4))
  | 0x0081 => some (6, .fwActivate c seq, doFwActivate sess seq)
  | 0x0082 => some (1, .fwRestart c seq (argOf a 0 1), doFwRestart sess seq (argOf a 0 1))
  | 0x0083 => some (6, .fwCatalogue c seq (argOf a 0 8) (argOf a 8 4), doFwCatalogue sess seq (argOf a 0 8) (argOf a 8 4))
  | 0x0090 =>
    let k := BitVec.ofNat 32 (argOf a 8 4); let n := digestOf ((a.drop 12).take 32)
    some (1, .attest c seq (argOf a 0 8) k n, doAttest sess seq (argOf a 0 8) k n)
  | 0x0091 => some (1, .identity c seq (argOf a 0 8) (BitVec.ofNat 32 (argOf a 8 4)),
      doIdentity sess seq (argOf a 0 8) (BitVec.ofNat 32 (argOf a 8 4)))
  | 0x0093 => some (1, .dbgChallenge c seq, doDbgChallenge sess seq)
  | 0x0094 => some (1, .dbgUnlock c seq (a.take 128), doDbgUnlock sess seq (a.take 128))
  | 0x0095 => some (1, .dbgRead c seq (argOf a 0 8) (argOf a 8 8) (argOf a 16 4),
      doDbgRead sess seq (argOf a 0 8) (argOf a 8 8) (argOf a 16 4))
  | 0x00A0 => some (6, .hlthDump c seq (argOf a 0 8) (BitVec.ofNat 32 (argOf a 8 4)),
      doHlthDump sess seq (argOf a 0 8) (BitVec.ofNat 32 (argOf a 8 4)))
  | _ => none

/-- A GO write: discarded while a command executes; a value that differs from the header's SEQ completes with BAD_SEQ (R464). CFG_UPDATE
and DBG_WRITE read host memory, which a GO does not bring (their own rows do): the bytes they read are free ones, and so is the outcome of the
flash write (log entry 19). -/
def State.go (s : State) (c : CtxId) (v : Nat) : State :=
  let x := (s.ctx c).ses
  let seq := v % 65536
  let m := Memory.readBytes x.mbox 0 256
  let right := leNat ((m.drop 2).take 2) == seq
  if x.state ≠ .opened ∨ x.busy then s
  else
    let s := s.modCtx c (fun x => { x with ses := { x.ses with lastGo := seq } })
    let a := m.drop 8
    if !right then s.finish c seq (mbBadSeq, [])
    else if leNat (m.take 2) = 0x0092 then
      let r := s.drawBytes (if c.val = 0 then min 65536 (argOf a 8 4) else 0)
      let f := r.2.draw64
      f.2.takeIn 1 (.cfgUpdate c seq r.1 (bit f.1 0)) (doCfgUpdate c seq r.1 (bit f.1 0))
    else if leNat (m.take 2) = 0x0096 then
      let r := s.drawBytes (if c.val = 0 then dbgBytes (argOf a 16 4) else 0)
      r.2.takeIn 1 (.dbgWrite c seq (argOf a 0 8) (argOf a 16 4) r.1) (doDbgWrite c seq (argOf a 0 8) (argOf a 16 4) r.1)
    else match mailboxRun c seq c (leNat (m.take 2)) (leNat ((m.drop 4).take 2)) (m.drop 8) with
      | some r => s.takeIn r.1 r.2.1 r.2.2
      | none => s.finish c seq (mbBadOpcode, [])

/-- A write of a register of a context page, or of its mailbox bytes; GO starts a command (R464). -/
def State.writeCtxReg (s : State) (c : CtxId) (o v : Nat) : State := if o = 0x00C then s.go c v else s.putPage c o v

/-- Apply one 32-bit word of a write (R457). -/
def State.applyWord (s : State) (c : CtxId) (off v : Nat) : State :=
  if off < 0x10000 then (if off < 0x1000 then s.writeGlobal off v else s) else s.writeCtxReg c (off % 0x10000) v

/-- A word of a write: held while FP1 or its owner restarts (R458, R476), discarded by a fenced module (R471). -/
def State.writeWord (s : State) (c : CtxId) (off v : Nat) : State :=
  if s.group.fenced || !mayWrite c off then s
  else if !s.up 1 then s.hold 1 (.registerWrite c off (BitVec.ofNat 32 v))
  else if !s.up (ownerOf off) then s.hold (ownerOf off) (.registerWrite c off (BitVec.ofNat 32 v))
  else s.applyWord c off v

/-- Is the session's window served? -/
def State.serves (s : State) (c : Nat) : Bool := (s.ctx c).exist && (s.ctx c).ses.state == .opened

/-- REGISTER_WRITE (R8, R457, R468). -/
def execRegisterWrite (sess : CtxId) (off : Nat) (v : Reg) (s : State) : Answer :=
  .next (if s.serves sess then (s.renew sess).writeWord sess off v.toNat else s)

/-! Rows that stand for a write of NUM_APPLY (R286, R287). -/

/-- A write of NUM_APPLY with one bit set. -/
def State.askApply (s : State) (c : CtxId) (v : Nat) : State :=
  if s.serves c then (s.renew c).writeWord c ((c.val + 1) * 0x10000 + 0x078) v else s

/-- APPLY_RCP (R287). -/
def execApplyRcp (sess : CtxId) (s : State) : Answer := .next (s.askApply sess 1)

/-- APPLY_THR (R287). -/
def execApplyThr (sess : CtxId) (s : State) : Answer := .next (s.askApply sess 2)

/-- APPLY_RUNG (R287). -/
def execApplyRung (sess : CtxId) (s : State) : Answer := .next (s.askApply sess 4)

end Sys2Proof.Machine
end

