-- ==== Sys2Proof/Machine/Rdma.lean ====
section
/-! DEFINITION. Packets on queue pairs: the responder and the requester of RoCE v2 and the Agbel extensions (R224, R269–R271,
R319–R321, R427, R430–R441, R451, R456). -/

namespace Sys2Proof.Machine

/-! The responder. -/

/-- How a request is answered: done, with what goes back; RNR; a NAK; or a NAK that puts the queue pair into ERROR. -/
inductive Verdict where
  | done (outs : List Output)
  | rnr
  | nak (syndrome : Nat)
  | fatal
deriving DecidableEq, Repr

/-- Acknowledge the packets up to a PSN. An acknowledgment covers everything before it, so while a SIG is parked it waits. -/
def State.ackTo (s : State) (n psn : Nat) : State :=
  if (s.qp n).holds.isEmpty then s.transmit n (.ack n psn) else s

/-- Send what goes back; a done request that answers nothing itself is acknowledged. -/
def State.answer (s : State) (n last : Nat) (outs : List Output) : State :=
  if outs.isEmpty then s.ackTo n last else outs.foldl (fun s o => s.transmit n o) s

/-- The queue pair takes packets: in RTR or RTS, and not a training or system queue pair of a fenced module (R381). -/
def State.listens (s : State) (n : Nat) : Bool :=
  let q := s.qp n
  q.used && (q.state == 2 || q.state == 3) && (q.session || !s.group.fenced)

/-- It can receive the rows' packets: it is an RC queue pair. -/
def State.receives (s : State) (n : Nat) : Bool := s.listens n && !(s.qp n).ud

/-- A packet for a context that is being fetched waits in the port buffer, or meets an RNR NAK (R438). On a priority without PFC it is
dropped and counted when the buffer is full (R426). -/
def State.awaitFetch (s : State) (n psn : Nat) (fr : Frame) (i : Instr) : State :=
  let q := s.qp n
  let k := 4 * q.port + q.sub
  if !s.cacheRoom then s.enqueue n (.rnr n psn q.minRnr)
  else if s.rxTight k fr.priority && !s.portPfc q.port fr.priority then { s with net := { s.net with dropFull := s.net.dropFull + 1 } }
  else (s.modQp n (fun q => { q with portBuf := q.portBuf ++ [i] })).pauseIn k fr.priority

/-- The receiver moves on by `count` PSNs. -/
def Qp.took (q : Qp) (count : Nat) : Qp := { q with rqPsn := psnAdd q.rqPsn count, macKnown := true }

/-- What a verdict does; a write of a register can free the queue pair it came by. Queue-pair errors wait while FP2 restarts (R451), and
the NAK that brings one waits with it. -/
def State.settle (s : State) (n psn count : Nat) (i : Instr) (r : State × Verdict) : State :=
  match r.2 with
  | .done outs =>
    if (r.1.qp n).used then (r.1.modQp n (fun q => q.took count)).answer n (psnAdd psn (count - 1)) outs else r.1
  | .rnr => r.1.transmit n (.rnr n psn (r.1.qp n).minRnr)
  | .nak syn => r.1.transmit n (.nak n psn syn)
  | .fatal => if s.up 2 then (s.transmit n (.nak n psn nakInvalid)).failQp n false else s.hold 2 i

/-- A request of `count` packets from PSN `psn`: the expected one is acted on; one behind it has been taken already and is answered
again; one ahead of it shows a loss (R437; log entry 20). A reserved Agbel opcode, or an Agbel packet on a UD queue pair, is an invalid
request that brings ERROR (R440); an operation that is not the row's is refused (R430; log entry 128). `i` is the row for a frame: when it
waits, its mark has been heard. -/
def State.arrive (s : State) (n psn count : Nat) (fr : Frame) (i : Frame → Instr)
    (act : State → State × Verdict) (again : State → State) : State :=
  let heard := i { fr with ce := false }
  if !s.listens n then s
  else if (s.qp n).ud then (if fr.agbel then s.admitFrame fr (fun s => (s.marked n fr.ce).settle n psn count heard (s, .fatal)) else s)
  else s.admitFrame fr (fun s =>
    if !s.cached n then s.awaitFetch n psn fr (i fr)
    else
    let s := s.marked n fr.ce
    if psn = (s.qp n).rqPsn then s.settle n psn count heard
      (if fr.reserved then (s, .fatal) else if !takesOpcode heard fr.opcode then (s, .nak nakInvalid) else act s)
    else if psnLe psn (s.qp n).rqPsn then again s
    else s.transmit n (.nak n (s.qp n).rqPsn nakSequence))

/-- A repeated request that only needs its acknowledgment. -/
def ackAgain (n psn count : Nat) (s : State) : State := s.ackTo n (psnAdd psn (count - 1))

/-! Local windows (R432). -/

/-- LACC bits. -/
def accRead : Nat := 0
def accWrite : Nat := 1
def accAtomic : Nat := 2

/-- Is the access within the local window, with the right key, and allowed? -/
def Qp.admits (q : Qp) (va len : Nat) (key : Reg) (acc : Nat) : Bool :=
  q.lwinBase ≤ va && va + len ≤ q.lwinBase + q.lwinLen && key == q.lkey && q.lacc.testBit acc

/-- Is the range in a Ledger region of another context (R403)? -/
def State.foreignRegion (s : State) (c va len : Nat) : Bool :=
  (List.range 16).any (fun d =>
    let x := s.ctx d
    d != c && x.regionGib != 0 && x.region < va + len && va < x.region + x.regionGib * gibBytes)

/-- Is it a whole number of words of the register window, by the session's own queue pair (R456)? -/
def State.regAccess (s : State) (n va len : Nat) : Bool :=
  let q := s.qp n
  q.session && (s.ctx q.ctx).ses.modQpn == n && s.serves q.ctx && va % 4 == 0 && len % 4 == 0 &&
    regBase ≤ va && va + len ≤ regBase + 0x110000

/-- Offsets of the words that an access covers. -/
def wordsOf (va len : Nat) : List Nat := (List.range (len / 4)).map (fun i => va - regBase + 4 * i)

/-- The words of written data, in ascending order. -/
def dataWords (data : List Byte) : List Nat := (List.range (data.length / 4)).map (fun i => leNat ((data.drop (4 * i)).take 4))

def ctxOf (c : Nat) : CtxId := Fin.ofNat 16 c

/-- Write register words in ascending offset order (R457). -/
def State.writeRegs (s : State) (c : CtxId) (va : Nat) (data : List Byte) : State :=
  (List.zip (wordsOf va data.length) (dataWords data)).foldl (fun (s : State) (e : Nat × Nat) => s.writeWord c e.1 e.2) (s.renew c)

/-- An inbound WRITE (R395, R396, R403, R432, R456). -/
def State.inWrite (s : State) (n va : Nat) (key : Reg) (data : List Byte) : State × Verdict :=
  let q := s.qp n
  if !q.admits va data.length key accWrite then (s, .nak nakAccess)
  else if s.regAccess n va data.length ∧ (wordsOf va data.length).all (mayWrite q.ctx) then
    (s.writeRegs (ctxOf q.ctx) va data, .done [])
  else if inHbm va data.length ∧ !s.foreignRegion q.ctx va data.length then
    ({ s with mem := Memory.writeBytes s.mem va data }, .done [])
  else (s, .nak nakAccess)

/-- Does a range lie in save areas that the queue pair may read: of its own context, or any for C0's, while the context is not resident
(R402)? -/
def State.saveReadable (s : State) (ctx va len : Nat) : Bool :=
  let size := 4352 * 1024
  let o := va % dieBytes - systemOffset
  0 < len && va + len ≤ hbmEnd && systemOffset ≤ va % dieBytes && o + len ≤ 16 * 612 * 2 ^ 20 &&
    (List.range ((o + len - 1) / size + 1 - o / size)).all (fun i =>
      let c := (o / size + i) / 144
      (ctx == 0 || ctx == c) && s.resident != c)

/-- May it read the range of main memory: HBM, save areas that are not in use, or HBM up to a system area and the save areas behind it
(R401, R402)? -/
def State.hbmReadable (s : State) (ctx va len : Nat) : Bool :=
  let edge := va / dieBytes * dieBytes + systemOffset
  inHbm va len || s.saveReadable ctx va len ||
    (va < edge && edge < va + len && inHbm va (edge - va) && s.saveReadable ctx edge (va + len - edge))

/-- May a queue pair read the range: main memory (R402), the Tally window (R253), the log window (R404,
R463), or registers (R456)? -/
def State.readable (s : State) (n va len : Nat) : Bool :=
  let q := s.qp n
  s.hbmReadable q.ctx va len ||
  (tallyBase ≤ va && va + len ≤ tallyBase + 0x4000000) ||
  (windowBase ≤ va && va + len ≤ windowBase + 0x21000000 && (s.ctx q.ctx).feat 4) ||
  (s.regAccess n va len && (wordsOf va len).all (mayRead q.ctx))

/-- An inbound READ (R432); a read of the register window renews the lease (R468). -/
def State.inRead (s : State) (n psn va : Nat) (key : Reg) (len : Nat) : State × Verdict :=
  let q := s.qp n
  if q.admits va len key accRead ∧ s.readable n va len then
    let s := if s.regAccess n va len then s.renew q.ctx else s
    (s, .done [.readResponse n psn (s.deviceBytes va len)])
  else (s, .nak nakAccess)

/-- An inbound atomic: 8 aligned bytes of HBM (R432); the answer carries the old value. -/
def State.inAtomic (s : State) (n psn va : Nat) (key : Reg) (f : Word → Word) : State × Verdict :=
  let q := s.qp n
  if q.admits va 8 key accAtomic ∧ va % 8 = 0 ∧ inHbm va 8 then
    let old := BitVec.ofNat 64 (leNat (Memory.readBytes s.mem va 8))
    let s := { s with mem := Memory.writeBytes s.mem va (leBytes 8 (f old).toNat) }
    (s.modQp n (fun q => { q with atomics := ((psn, old) :: q.atomics).take q.respRes }), .done [.atomicResponse n psn old])
  else (s, .nak nakAccess)

/-- A repeated atomic gets its first answer, while it is kept (log entry 20). -/
def State.atomicAgain (s : State) (n psn : Nat) : State :=
  match (s.qp n).atomics.find? (fun e => e.1 == psn) with
  | some e => s.transmit n (.atomicResponse n psn e.2)
  | none => s

/-- A repeated READ is answered again. -/
def State.readAgain (s : State) (n psn va : Nat) (key : Reg) (len : Nat) : State :=
  let r := s.inRead n psn va key len
  match r.2 with
  | .done outs => r.1.answer n psn outs
  | _ => s.transmit n (.nak n psn nakAccess)

/-! Agbel packets (R440). -/

/-- May the queue pair take Agbel packets: AGBEL set, on a PEER or FABRIC subport? -/
def State.agbelOk (s : State) (n : Nat) : Bool :=
  let q := s.qp n
  q.agbel && !q.ud && s.portRole q.port q.sub != 0

/-- How a REDUCE_WRITE is answered (R319–R321, R440, R441). -/
def State.inReduce (s : State) (n : Nat) (h : ReduceHdr) (recs : List (List Byte)) : State × Verdict :=
  if !s.agbelOk n then (s, .fatal)
  else
    let r := s.reducePacket (s.qp n).ctx h recs
    (r.1, match r.2 with | .ack => .done [] | .rnr => .rnr | .nak syn => .nak syn)

/-- Entries of a hold buffer. -/
def holdMax : Nat := 64

/-- A refused SIG is counted (R273). -/
def Ctx.countNak (x : Ctx) : Ctx := { x with holdNaks := min 65535 (x.holdNaks + 1) }

/-- Has everything up to a watermark arrived: it lies before the next expected PSN, modulo 2^24 (R437)? -/
def Qp.arrived (q : Qp) (mark : Nat) : Bool := psnLe mark (psnAdd q.rqPsn (2 ^ 24 - 1))

/-- How a SIG is answered (R269–R271, R385 step 1, R437): applied when its watermark is reached, which is when it has arrived and its data
can be seen (`seen`), and no SIG is parked before it; else parked, or refused. One that its bank defers counts as applied (log entry
103). -/
def State.inSig (s : State) (n psn : Nat) (h : SigHdr) (seen : Bool) : State × Verdict :=
  let q := s.qp n
  let a := semAddr h.addr
  if !s.agbelOk n then (s, .fatal)
  else if (s.ctx q.ctx).quietWait then (s, .rnr)
  else if seen ∧ q.arrived (h.watermark % 2 ^ 24) ∧ q.holds.isEmpty then
    if s.semAccepts a ∨ semDiscarded q.ctx a then (s.change q.ctx a h.amount.toInt none, .done [])
    else (s.modCtx q.ctx Ctx.countNak, .rnr)
  else if q.holds.length < holdMax then
    let s := s.setQp n { q with holds := q.holds ++ [⟨psn, h.watermark % 2 ^ 24, h.amount, a⟩] }
    (s.modCtx q.ctx (fun x => { x with holdPeak := max x.holdPeak (q.holds.length + 1) }), .done [])
  else (s.modCtx q.ctx Ctx.countNak, .rnr)

/-- The last PSN that can be acknowledged while SIGs are parked. -/
def Qp.ackable (q : Qp) : Nat :=
  match q.holds with
  | e :: _ => psnAdd e.sigPsn (2 ^ 24 - 1)
  | [] => psnAdd q.rqPsn (2 ^ 24 - 1)

/-- HOLD_SIG_APPLY (R269, R272, R437): the oldest parked SIG is applied once its watermark has arrived, never before, and acknowledged while
the queue pair works. One whose packets arrived before its queue pair left RTS is still applied, unacknowledged (R272, R451). -/
def execHoldSigApply (qpn : Nat) (s : State) : Answer :=
  .next (match (s.qp qpn).holds with
    | [] => s
    | e :: es =>
      let c := (s.qp qpn).ctx
      if (s.qp qpn).arrived e.watermark ∧ (s.semAccepts e.addr ∨ semDiscarded c e.addr) then
        let s := (s.modQp qpn (fun q => { q with holds := es })).change c e.addr e.amount.toInt none
        if s.receives qpn then s.transmit qpn (.ack qpn (s.qp qpn).ackable) else s
      else s)

/-! The inbound rows. -/

def arriveReduce (n psn : Nat) (fr : Frame) (h : ReduceHdr) (recs : List (List Byte)) (s : State) : State :=
  s.arrive n psn 1 fr (fun fr => .reduceWrite n psn fr h recs) (fun s => s.inReduce n h recs) (ackAgain n psn 1)

/-- REDUCE_WRITE (R319–R321, R440). -/
def execReduceWrite (qpn psn : Nat) (fr : Frame) (h : ReduceHdr) (records : List (List Byte)) (s : State) : Answer :=
  .next (arriveReduce qpn psn fr h records s)

def arriveSig (n psn : Nat) (fr : Frame) (h : SigHdr) (seen : Bool) (s : State) : State :=
  s.arrive n psn 1 fr (fun fr => .sig n psn fr h seen) (fun s => s.inSig n psn h seen) (ackAgain n psn 1)

/-- SIG (R269). -/
def execSig (qpn psn : Nat) (fr : Frame) (h : SigHdr) (seen : Bool) (s : State) : Answer := .next (arriveSig qpn psn fr h seen s)

def arriveWrite (n psn : Nat) (fr : Frame) (va : Nat) (key : Reg) (data : List Byte) (s : State) : State :=
  let k := (s.qp n).packets data.length
  s.arrive n psn k fr (fun fr => .rdmaWriteInbound n psn fr va key data) (fun s => s.inWrite n va key data) (ackAgain n psn k)

/-- RDMA_WRITE_INBOUND (R432). -/
def execRdmaWriteInbound (qpn psn : Nat) (fr : Frame) (va : Nat) (key : Reg) (data : List Byte) (s : State) : Answer :=
  .next (arriveWrite qpn psn fr va key data s)

def arriveRead (n psn : Nat) (fr : Frame) (va : Nat) (key : Reg) (len : Nat) (s : State) : State :=
  s.arrive n psn ((s.qp n).packets len) fr (fun fr => .rdmaReadInbound n psn fr va key len) (fun s => s.inRead n psn va key len)
    (fun s => s.readAgain n psn va key len)

/-- RDMA_READ_INBOUND (R432). -/
def execRdmaReadInbound (qpn psn : Nat) (fr : Frame) (va : Nat) (key : Reg) (len : Nat) (s : State) : Answer :=
  .next (arriveRead qpn psn fr va key len s)

def arriveAdd (n psn : Nat) (fr : Frame) (va : Nat) (key : Reg) (add : Word) (s : State) : State :=
  s.arrive n psn 1 fr (fun fr => .fetchAndAdd n psn fr va key add) (fun s => s.inAtomic n psn va key (fun v => v + add))
    (fun s => s.atomicAgain n psn)

/-- FETCH_AND_ADD (R432). -/
def execFetchAndAdd (qpn psn : Nat) (fr : Frame) (va : Nat) (key : Reg) (add : Word) (s : State) : Answer := .next (arriveAdd qpn psn fr va key add s)

def arriveSwap (n psn : Nat) (fr : Frame) (va : Nat) (key : Reg) (cmp swap : Word) (s : State) : State :=
  s.arrive n psn 1 fr (fun fr => .compareAndSwap n psn fr va key cmp swap)
    (fun s => s.inAtomic n psn va key (fun v => if v = cmp then swap else v)) (fun s => s.atomicAgain n psn)

/-- COMPARE_AND_SWAP (R432). -/
def execCompareAndSwap (qpn psn : Nat) (fr : Frame) (va : Nat) (key : Reg) (cmp swap : Word) (s : State) : Answer :=
  .next (arriveSwap qpn psn fr va key cmp swap s)

/-- IMM_SEM takes its 1 when IMMSEM_V is set (R433). -/
def State.immSignal (s : State) (n : Nat) (r : State × Verdict) : State × Verdict :=
  match r.2 with
  | .done _ => (if (s.qp n).immV then r.1.change (s.qp n).ctx (s.qp n).immSem 1 none else r.1, r.2)
  | _ => r

def arriveImm (n psn : Nat) (fr : Frame) (va : Nat) (key : Reg) (data : List Byte) (imm : Reg) (s : State) : State :=
  let k := (s.qp n).packets data.length
  s.arrive n psn k fr (fun fr => .writeWithImmediate n psn fr va key data imm) (fun s => s.immSignal n (s.inWrite n va key data)) (ackAgain n psn k)

/-- WRITE_WITH_IMMEDIATE (R433): the immediate value is discarded. -/
def execWriteWithImmediate (qpn psn : Nat) (fr : Frame) (va : Nat) (key : Reg) (data : List Byte) (imm : Reg) (s : State) : Answer :=
  .next (arriveImm qpn psn fr va key data imm s)

/-- A SEND: session and system queue pairs take it, a training one answers NAK invalid request (R430, R433). -/
def State.inSend (s : State) (n : Nat) : State × Verdict :=
  if (s.qp n).session ∨ (s.qp n).ctx = 0 then (s, .done []) else (s, .nak nakInvalid)

def arriveSend (n psn : Nat) (fr : Frame) (data : List Byte) (s : State) : State :=
  let k := (s.qp n).packets data.length
  s.arrive n psn k fr (fun fr => .sendInbound n psn fr data) (fun s => s.inSend n) (ackAgain n psn k)

/-- SEND_INBOUND (R433). -/
def execSendInbound (qpn psn : Nat) (fr : Frame) (data : List Byte) (s : State) : Answer := .next (arriveSend qpn psn fr data s)

/-! Group-control messages (R439–R441, R444, R445). -/

/-- How a VOTE message of a row's kind is answered: acknowledged, and acted on; on another queue pair or subport, or of another kind, it is
an invalid request. A message from the vote-tree parent is heard (R381). -/
def State.inVote (s : State) (n kind : Nat) (h : VoteHdr) (act : State → State) : State × Verdict :=
  if !s.agbelOk n || h.kind != kind then (s, .fatal)
  else (act (if s.parent = some (s.peerOf n) then s.hearParent else s), .done [])

/-- The group tag of a message: its header's (R444, R445). -/
def Via.tag (v : Via) (g : Nat) : Nat :=
  match v with
  | .packet _ _ _ h => h.gtag
  | .taken => g

/-- A group-control message: it arrives on a queue pair, or has waited for a firmware core. -/
def State.voteIn (s : State) (v : Via) (kind : Nat) (i : Via → Instr) (act : State → State) : State :=
  match v with
  | .taken => act s
  | .packet n psn fr h =>
    let k := voteCount (s.qp n).mtu h.len
    s.arrive n psn k fr (fun fr => i (.packet n psn fr h)) (fun s => s.inVote n kind h act) (ackAgain n psn k)

def arriveBallot (v : Via) (src : Nat) (b : Ballot) (s : State) : State := s.voteIn v 0 (fun v => .ballot v src b) (fun s => s.takeBallot src b)
def arriveDecision (v : Via) (d : Decision) (s : State) : State := s.voteIn v 1 (fun v => .decision v d) (fun s => s.decisionIn d)
def arriveHeartbeat (v : Via) (src : Nat) (r : Bool) (m : BitVec 16) (s : State) : State :=
  s.voteIn v 2 (fun v => .heartbeat v src r m) (fun s => s.takeHeartbeat src m)
def arriveReport (v : Via) (g r x b why : Nat) (s : State) : State := s.voteIn v 3 (fun v => .report v g r x b why) (fun s => s.takeReport g r x b why)
def arriveNotice (v : Via) (x k : Nat) (s : State) : State := s.voteIn v 4 (fun v => .notice v x k) (fun s => s.takeNotice x k)
def arriveProbe (v : Via) (src x : Nat) (s : State) : State := s.voteIn v 5 (fun v => .probe v src x) (fun s => s.takeProbe src x)
def arriveProbeReply (v : Via) (d : Nat) (s : State) : State := s.voteIn v 6 (fun v => .probeReply v d) (fun s => s.clearSuspect d)
def arriveState (v : Via) (src : Nat) (d : Option Decision) (s : State) : State :=
  s.voteIn v 7 (fun v => .state v src d) (fun s => s.takeState (v.tag (match d with | some e => e.gtag | none => s.groupTag)) src d)
def arriveResume (v : Via) (g b : Nat) (m : BitVec 16) (s : State) : State := s.voteIn v 8 (fun v => .resume v g b m) (fun s => s.resumeIn g b m)
def arriveTakeover (v : Via) (d t : Nat) (as : List PortAddr) (s : State) : State :=
  s.voteIn v 9 (fun v => .takeover v d t as) (fun s => s.takeOver d t as)
def arriveLoss (v : Via) (d : Nat) (m : BitVec 16) (s : State) : State := s.voteIn v 10 (fun v => .groupLoss v d m) (fun s => s.lossIn (v.tag s.groupTag) d m)

/-- BALLOT: a child's ballot (R371). -/
def execBallot (v : Via) (src : Nat) (b : Ballot) (s : State) : Answer := .next (arriveBallot v src b s)

/-- DECISION (R372–R374). -/
def execDecision (v : Via) (d : Decision) (s : State) : Answer := .next (arriveDecision v d s)

/-- HEARTBEAT (R376, R378, R381, R384). -/
def execHeartbeat (v : Via) (src : Nat) (restart : Bool) (quiet : BitVec 16) (s : State) : Answer :=
  .next (arriveHeartbeat v src restart quiet s)

/-- REPORT (R377–R379). -/
def execReport (v : Via) (gtag reporter suspect bell reason : Nat) (s : State) : Answer :=
  .next (arriveReport v gtag reporter suspect bell reason s)

/-- NOTICE (R378, R381, R561). -/
def execNotice (v : Via) (suspect kind : Nat) (s : State) : Answer := .next (arriveNotice v suspect kind s)

/-- PROBE (R378). -/
def execProbe (v : Via) (src suspect : Nat) (s : State) : Answer := .next (arriveProbe v src suspect s)

/-- PROBE_REPLY (R378). -/
def execProbeReply (v : Via) (dev : Nat) (s : State) : Answer := .next (arriveProbeReply v dev s)

/-- STATE (R374, R375). -/
def execState (v : Via) (src : Nat) (d : Option Decision) (s : State) : Answer := .next (arriveState v src d s)

/-- RESUME (R384, R385). -/
def execResume (v : Via) (gtag bell : Nat) (mask : BitVec 16) (s : State) : Answer := .next (arriveResume v gtag bell mask s)

/-- TAKEOVER (R389, R422). -/
def execTakeover (v : Via) (dev twin : Nat) (addrs : List PortAddr) (s : State) : Answer := .next (arriveTakeover v dev twin addrs s)

/-- GROUP_LOSS (R390). -/
def execGroupLoss (v : Via) (dev : Nat) (mask : BitVec 16) (s : State) : Answer := .next (arriveLoss v dev mask s)

/-! The cache (R438). -/

/-- Replay of a packet that waited in the port buffer, or of a message that waited for a core. -/
def State.runPacket (s : State) (i : Instr) : State :=
  match i with
  | .reduceWrite n p fr h rs => arriveReduce n p fr h rs s
  | .sig n p fr h seen => arriveSig n p fr h seen s
  | .rdmaWriteInbound n p fr va k d => arriveWrite n p fr va k d s
  | .rdmaReadInbound n p fr va k len => arriveRead n p fr va k len s
  | .fetchAndAdd n p fr va k v => arriveAdd n p fr va k v s
  | .compareAndSwap n p fr va k c w => arriveSwap n p fr va k c w s
  | .writeWithImmediate n p fr va k d imm => arriveImm n p fr va k d imm s
  | .sendInbound n p fr d => arriveSend n p fr d s
  | .ballot v a b => arriveBallot v a b s
  | .decision v d => arriveDecision v d s
  | .heartbeat v a r m => arriveHeartbeat v a r m s
  | .report v g r x b why => arriveReport v g r x b why s
  | .notice v x k => arriveNotice v x k s
  | .probe v a x => arriveProbe v a x s
  | .probeReply v d => arriveProbeReply v d s
  | .state v a d => arriveState v a d s
  | .resume v g b m => arriveResume v g b m s
  | .takeover v d t as => arriveTakeover v d t as s
  | .groupLoss v d m => arriveLoss v d m s
  | _ => s

/-- CONTEXT_FETCH_DONE: what the context held back is sent, and what waited in the port buffer is taken, which may make room for XON (R426,
R438). -/
def execContextFetchDone (qpn : Nat) (s : State) : Answer :=
  .next (if !(s.qp qpn).used || s.cached qpn then s
    else
      let s := s.cacheIn qpn
      if !s.cached qpn then s
      else
        let q := s.qp qpn
        let s := s.setQp qpn { q with held := [], portBuf := [] }
        let s := q.held.foldl (fun s o => s.transmit qpn o) s
        (q.portBuf.foldl State.runPacket s).unpause)

/-! The requester (R224, R435, R436). -/

/-- Does it wait for an acknowledgment? -/
def Qp.awaits (q : Qp) : Bool := q.used && q.state == 3 && !q.work.isEmpty

/-- Are requests left that were outstanding before the one that put it into ERROR? -/
def Qp.leftOver (q : Qp) : Bool := q.used && q.state == 4 && !q.work.isEmpty

/-- PSN of the oldest unacknowledged request. -/
def Qp.oldestPsn (q : Qp) : Nat := match q.work with | w :: _ => w.psn | [] => q.sqPsn

/-- Errors of a queue pair wait while FP2 restarts (R451). -/
def State.exhaustOr (s : State) (n : Nat) (i : Instr) : State := if s.up 2 then s.exhaust n else s.hold 2 i

def ackExpired (qpn : Nat) (s : State) : State :=
  let q := s.qp qpn
  if q.leftOver then (if s.up 2 then s.failRest qpn false else s.hold 2 (.ackTimeout qpn))
  else if !q.awaits || q.rnrWait then s
  else if q.tries < q.retry then (s.setQp qpn { q with tries := q.tries + 1 }).transmit qpn (.retransmit qpn q.oldestPsn)
  else s.exhaustOr qpn (.ackTimeout qpn)

/-- ACK_TIMEOUT (R224, R436): RETRY + 1 expired timeouts end in ERROR. On a queue pair in ERROR, what is still outstanding ends with
NET_TIMEOUT. -/
def execAckTimeout (qpn : Nat) (s : State) : Answer := .next (ackExpired qpn s)

def rnrArrives (qpn psn : Nat) (timer : Marked) (s : State) : State :=
  let q := s.qp qpn
  if !q.awaits || q.rnrWait then s
  else if q.rnrRetry = 7 ∨ q.rnrTries < q.rnrRetry then s.setQp qpn { q with rnrWait := true, rnrTries := q.rnrTries + 1, rnrPsn := psn }
  else s.exhaustOr qpn (.rnrNak qpn psn { timer with ce := false })

/-- RNR_NAK (R436): up to RNR_RETRY waits, and without limit at 7. How long the timer runs is time alone. -/
def execRnrNak (qpn psn : Nat) (timer : Marked) (s : State) : Answer := .next (rnrArrives qpn psn timer (s.marked qpn timer.ce))

/-- RNR_TIMER (R271, R436): retransmission from the PSN that the RNR NAK named. -/
def execRnrTimer (qpn : Nat) (s : State) : Answer :=
  .next (let q := s.qp qpn
    if !q.rnrWait then s else (s.setQp qpn { q with rnrWait := false }).transmit qpn (.retransmit qpn q.rnrPsn))

def accessFails (qpn psn : Nat) (syndrome : Marked) (s : State) : State :=
  let q := s.qp qpn
  if !q.awaits then s
  else match q.before psn with
    | none => s
    | some k =>
      if !s.up 2 then s.hold 2 (.remoteAccessError qpn psn { syndrome with ce := false })
      else (s.rdmaException qpn syndrome.val psn).failFrom qpn false k

/-- REMOTE_ACCESS_ERROR (R224): the request and those after it end with NET_TIMEOUT; those before it are acknowledged by it. -/
def execRemoteAccessError (qpn psn : Nat) (syndrome : Marked) (s : State) : Answer :=
  .next (accessFails qpn psn syndrome (s.marked qpn syndrome.ce))

def resolutionFails (qpn : Nat) (s : State) : State :=
  let q := s.qp qpn
  if !q.used || !(q.state == 2 || q.state == 3) || q.macKnown then s
  else if !s.up 2 then s.hold 2 (.macResolutionTimeout qpn)
  else
    let r := s.draw64
    (r.2.failQp qpn false).rdmaException qpn (bits r.1 7 0) (bits r.1 31 8)

/-- MAC_RESOLUTION_TIMEOUT (R435). The spec gives the event no syndrome and no PSN: free values. -/
def execMacResolutionTimeout (qpn : Nat) (s : State) : Answer := .next (resolutionFails qpn s)

/-! Rates (R427), in Mb/s × 2^16; α × 2^16. Fractions below these units are dropped. -/

def rateMin : Nat := 100 * 65536

/-- CNP arrives. -/
def Qp.cut (q : Qp) : Qp :=
  { q with target := q.rate, rate := max rateMin (q.rate - q.rate * q.alpha / 131072), alpha := (15 * q.alpha + 65536) / 16, recover := 0 }

/-- CNP (R427): on a priority that NET_PORTn.ECN marks (R429). -/
def execCnp (qpn : Nat) (s : State) : Answer :=
  .next (if (s.qp qpn).used ∧ s.portEcn (s.qp qpn).port (s.qp qpn).pcp then s.modQp qpn Qp.cut else s)

/-- ALPHA_DECAY (R427). -/
def execAlphaDecay (qpn : Nat) (s : State) : Answer :=
  .next (if (s.qp qpn).used then s.modQp qpn (fun q => { q with alpha := 15 * q.alpha / 16 }) else s)

/-- A period of 300 µs without a CNP, on a subport of rate `top`. -/
def Qp.recovered (q : Qp) (top : Nat) : Qp :=
  if q.recover < 5 then { q with rate := (q.rate + q.target) / 2, recover := q.recover + 1 }
  else
    let t := min top (q.target + 40 * 65536)
    { q with target := t, rate := (q.rate + t) / 2 }

/-- RATE_RECOVERY (R427). -/
def execRateRecovery (qpn : Nat) (s : State) : Answer :=
  .next (if (s.qp qpn).used then s.modQp qpn (fun q => q.recovered (s.subportRate q.port)) else s)

end Sys2Proof.Machine
end

