-- ==== Sys2Proof/Machine/Sync.lean ====
section
/-! DEFINITION. The sync class (R216–R220) and the events of the Tally (R257–R267). -/

namespace Sys2Proof.Machine

/-- The semaphore address of a sync instruction: IMM24, or S[SRC2][23:0] under REGA. -/
def syncAddr (y : Stream) (w : Word) : Nat :=
  semAddr (if bit w 48 then bits (y.sreg (fSrc2 w)) 23 0 else fImm w)

/-- The amount: SRC1 as an unsigned byte under IMMN, or S[SRC1][31:0], signed. -/
def syncAmount (y : Stream) (w : Word) : Int :=
  if bit w 49 then (fSrc1 w : Int) else signed 32 (bits (y.sreg (fSrc1 w)) 31 0)

/-- The registers a sync instruction reads. -/
def syncReads (w : Word) : List Res :=
  (if bit w 49 then [] else sRes (fSrc1 w)) ++ (if bit w 48 then sRes (fSrc2 w) else [])

/-- The lowest-numbered free wake wire (R260). -/
def Croft.freeWire? (x : Croft) : Option Nat := (List.range 16).find? (fun i => !x.wires.contains i)

/-- WAIT (R218, R257, R260): completes at once when the count is at least N, and otherwise waits on a wire. -/
def execWait (c : CroftId) (t : Strm) (w : Word) (s : State) : Answer :=
  shortForm c t { reads := syncReads w } (fun s =>
    match (s.croft c).freeWire? with
    | none => s
    | some wire =>
      let y := s.strm c t
      let a := syncAddr y w
      let n := syncAmount y w
      if n ≤ s.semCount s.resident a then s.modStrm c t (fun y => y.resume)
      else
        let s := s.modStrm c t (fun y => { y with run := .waiting, waiting := .sem a n wire false })
        s.setCroft c { s.croft c with wires := wire :: (s.croft c).wires }) s

/-- SADD and SSUB: ready once every earlier instruction of the stream has completed, and every block of its
PREFETCHes has moved (R152, R202). -/
def syncChange (sub : Bool) (c : Nat) (t : Strm) (w : Word) (s : State) : State :=
  if (s.ownFlights c t).isEmpty then
    let y := s.strm c t
    let n := syncAmount y w
    s.issue c t 8 { reads := syncReads w, units := [.tallyPort] }
      (.semAdd (syncAddr y w) (if sub then -n else n)) 0 0 none false
  else s

/-- SADD (R216, R217). -/
def execSadd (c : CroftId) (t : Strm) (w : Word) (s : State) : Answer :=
  shortForm c t { reads := syncReads w, units := [.tallyPort] } (syncChange false c t w) s

/-- SSUB (R216, R217). -/
def execSsub (c : CroftId) (t : Strm) (w : Word) (s : State) : Answer :=
  shortForm c t { reads := syncReads w, units := [.tallyPort] } (syncChange true c t w) s

/-- Is it an SADD or an SSUB? -/
def FlightOp.isSemAdd : FlightOp → Bool
  | .semAdd _ _ => true
  | _ => false

/-- SREAD (R219): not ready while an SADD or SSUB of its stream is outstanding. -/
def execSread (c : CroftId) (t : Strm) (w : Word) (s : State) : Answer :=
  let n : Need := { reads := if bit w 48 then sRes (fSrc2 w) else [], writes := sRes (fDst w), units := [.tallyPort] }
  shortForm c t n (fun s =>
    if (s.ownFlights c t).any (fun f => f.op.isSemAdd) then s
    else s.issue c t 8 n (.semRead (syncAddr (s.strm c t) w) (sNo (fDst w))) 0 0 none false) s

/-- SEMAPHORE_CHANGE_APPLIED: the bank serves an SADD, SSUB or SREAD (R216, R219); while the bank holds the
change back (R267) it goes to the deferred queue, or waits in the Tally port when that is full. -/
def execSemaphoreChangeApplied (id : Nat) (s : State) : Answer :=
  .next (match s.flight? id with
    | some f =>
      match f.op with
      | .semAdd a n =>
        if !semDiscarded f.ctx a ∧ !s.semAccepts a then s
        else if !semDiscarded f.ctx a ∧ s.semHeld f.ctx a then
          (if (Table.get [] s.tally.deferred (semBank a)).any (fun d => d.flight == some id) then s
           else s.change f.ctx a n (some id))
        else (s.change f.ctx a n none).complete f stOk
      | .semRead a r =>
        let v := BitVec.ofInt 64 (s.semCount f.ctx a)
        let s := s.setStrmOf f.ctx f.croft f.strm ((s.strmOf f.ctx f.croft f.strm).setS r v)
        s.complete f stOk
      | _ => s
    | none => s)

/-- WAIT_REGISTRATION: the registration of a WAIT reaches the bank, which tests it (R257). -/
def execWaitRegistration (c : CroftId) (t : Strm) (s : State) : Answer :=
  .next (match (s.strm c t).waiting with
    | .sem a n wire false =>
      if s.switching then s
      else if n ≤ s.semCount s.resident a then
        let s := s.modStrm c t (fun y => y.resume)
        s.setCroft c ((s.croft c).freeWire wire)
      else
        let s := s.modStrm c t (fun y => { y with waiting := .sem a n wire true })
        { s with tally := { s.tally with watches := s.tally.watches ++ [⟨a, n, c, wire⟩] } }
    | _ => s)

/-- WAKE_NOTICE: a notice pulses a wire (R258, R260). -/
def execWakeNotice (c : CroftId) (wire : Nat) (s : State) : Answer :=
  .next (if s.tally.notices.contains ((c : Nat), wire) then
    let s := { s with tally := { s.tally with notices := s.tally.notices.erase ((c : Nat), wire) } }
    if s.tally.withdrawn.contains ((c : Nat), wire) then s
    else match (s.croft c).waiter wire with
      | some t =>
        let s := s.modStrm c t (fun y => y.resume)
        s.setCroft c ((s.croft c).freeWire wire)
      | none => s
  else s)

/-- WITHDRAWAL_CONFIRM: the bank confirms a withdrawal and the wire is free again (R260). -/
def execWithdrawalConfirm (c : CroftId) (wire : Nat) (s : State) : Answer :=
  .next (if s.tally.withdrawn.contains ((c : Nat), wire) then
    let s := { s with tally := { s.tally with
      withdrawn := s.tally.withdrawn.erase ((c : Nat), wire),
      notices := s.tally.notices.filter (· != ((c : Nat), wire)) } }
    s.setCroft c ((s.croft c).freeWire wire)
  else s)

/-- Apply one held change, and complete the SADD or SSUB it came from. -/
def State.applyDeferred (s : State) (d : Deferred) : State :=
  let s := s.applyChange d.ctx d.addr d.amount
  match d.flight.bind s.flight? with
  | some f => s.complete f stOk
  | none => s

/-- TALLY_DEFERRED_APPLY: a bank's save and restore ends, and its held changes apply in arrival order, then
the completion signals that waited in the hub (R267). -/
def execTallyDeferredApply (bank : Nat) (s : State) : Answer :=
  .next (if s.tally.busy.contains bank then
    let q := Table.get [] s.tally.deferred bank
    let late := s.tally.hubWait.filter (fun d => semBank d.addr == bank)
    let s := { s with tally := { s.tally with
      busy := s.tally.busy.filter (· != bank),
      deferred := Table.put s.tally.deferred bank [],
      hubWait := s.tally.hubWait.filter (fun d => semBank d.addr != bank) } }
    (q ++ late).foldl State.applyDeferred s
  else s)

end Sys2Proof.Machine
end

