-- ==== Sys2Proof/Machine/Bell.lean ====
section
/-! DEFINITION. The Bell (R32) and the context switch it starts (R159–R162, R248, R249, R266). -/

namespace Sys2Proof.Machine

/-! Action 1: the Bell number. -/

/-- The first Bell after BELL_ALIGN has the number that PTP time gives (R450, R527); it makes the module READY. Every other Bell
counts on. -/
def State.countBell (s : State) (time : Nat) : State :=
  if s.phase = 5 then { s with bellNow := (time - s.bellEpoch) / (s.bellPeriod * 1000) % 2 ^ 64, net := { s.net with wasReady := true } }.setPhase 6
  else { s with bellNow := (s.bellNow + 1) % 2 ^ 64 }

/-! Action 3: RWT fields (R8, R9). -/

/-- What was written since the last Bell takes effect, and FP5 decides requests of NUM_APPLY (R287). -/
def Ctx.latch (fp5 : Bool) (x : Ctx) : Ctx :=
  let x := { x with eff := x.shadow }
  if fp5 then x.decideApply else x

/-- A context at action 3; an accepted request of NUM_APPLY goes to the twin (R387). -/
def State.latchCtx (s : State) (c : Nat) : State :=
  let asked := (s.ctx c).applyAsk
  let s := s.modCtx c (Ctx.latch (s.up 5))
  if asked ≠ 0 ∧ (s.ctx c).applyAsk = 0 ∧ (s.ctx c).applyResult = 1 then s.sendNumerics c else s

def State.latch (s : State) : State :=
  let s := { s with eff := s.shadow }
  s.contexts.foldl (fun s c => s.latchCtx c) s

/-! Action 4: flips, resumes and openings (R364, R372–R376, R385). -/

/-- FP3's part; a fenced module does nothing of it, and a restart of FP3 puts it off (R476). -/
def State.flipActions (s : State) : State :=
  if s.group.fenced || !s.up 3 then s
  else
    let s := s.contexts.foldl (fun s c => s.flipDue c) s
    let s := s.joinDue
    let s := s.contexts.foldl (fun s c => s.resumeDue c) s
    if s.up 5 then s.contexts.foldl (fun s c => s.openEntries c) s else s

/-! Action 5: context switches. -/

/-- A BELLW whose Bell has come completes (R212). -/
def Stream.wakeBell (y : Stream) (now : Nat) : Stream :=
  match y.waiting with
  | .bell b => if b ≤ now then y.resume else y
  | _ => y

def State.wakeBells (s : State) : State :=
  if s.switching then s else s.mapCrofts s.resident (fun x => x.mapStrms (fun y => y.wakeBell s.bellNow))

/-- Does a WAIT's condition hold at a switch: its count is at N, or its wake notice is under way (R159 step 2, R258)? -/
def State.waitHolds (s : State) (l a wire : Nat) (n : Int) : Bool :=
  n ≤ s.semCount s.resident a || (s.tally.notices.contains (l, wire) && !s.tally.withdrawn.contains (l, wire))

/-- A WAIT whose condition holds completes, as by its wire's pulse, and the bank knows of it no more. -/
def State.endWait (s : State) (l : Nat) (t : Strm) (wire : Nat) : State :=
  let s := { s with tally := { s.tally with
    notices := s.tally.notices.erase (l, wire), watches := s.tally.watches.filter (fun w => !(w.croft == l && w.wire == wire)) } }
  let s := s.modStrm l t (fun y => y.resume)
  s.setCroft l ((s.croft l).freeWire wire)

/-- A WAIT of a stream that is to be saved completes if its condition holds, and gives its registration up if not (R159 step 2). -/
def State.parkWait (s : State) (l : Nat) (t : Strm) : State :=
  match (s.strm l t).waiting with
  | .sem a n wire _ =>
    if s.waitHolds l a wire n then s.endWait l t wire
    else (s.withdraw l t).modStrm l t (fun y => { y with waiting := .sem a n noWire false })
  | _ => s

/-- The earliest switch that is due (R248). -/
def State.dueSwitch (s : State) : Option (Nat × Nat) :=
  (s.switches.filter (fun e => e.1 ≤ s.bellNow)).foldl
    (fun (b : Option (Nat × Nat)) (e : Nat × Nat) =>
      match b with
      | none => some e
      | some d => if e.1 < d.1 then some e else b) none

/-- A switch begins: the streams stop issuing, their registrations are withdrawn, and the banks change context (R159, R266). -/
def State.beginSwitch (s : State) (target : Nat) : State :=
  let s := (s.croftIds s.resident).foldl (fun s l => allStrms.foldl (fun s t => s.parkWait l t) s) s
  { s.swapSemaphores s.tally.holds target with switching := true }

/-- At most one switch takes place at a Bell; while FP1 restarts, or a switch still runs, it waits (R248, R476; log entry 76). One to the
resident context has no effect (log entry 111). -/
def State.switchActions (s : State) : State :=
  if !s.up 1 || s.switching then s
  else match s.dueSwitch with
    | none => s
    | some e =>
      let s := { s with switches := s.switches.filter (fun d => d != e) }
      if e.2 = s.resident ∨ !(s.ctx e.2).exist then s else s.beginSwitch e.2

/-! Action 6: heartbeats, votes and reports. -/

def State.sendActions (s : State) : State :=
  if s.group.fenced then s
  else
    let s := s.countSilence.sendHeartbeats
    let s := if s.up 3 then s.contexts.foldl (fun s c => s.castBallots c) s else s
    let s := if s.up 4 then s.declareWaiting.sendReports else s
    s.tryResume

/-! What is counted by Bells. -/

/-- A Bell more that a WAIT is unsatisfied (R274). -/
def Stream.countStall (y : Stream) : Stream :=
  match y.waiting with
  | .sem .. => { y with stallBells := y.stallBells + 1 }
  | _ => y

def State.countStalls (s : State) : State :=
  if s.switching then s else s.mapCrofts s.resident (fun x => x.mapStrms Stream.countStall)

/-- The Bell interval that has passed, in µs, counts for a lease and for the time a session is DETACHED; lease time stands still while FP1
restarts (R468, R471). -/
def Session.grow (x : Session) (fp1 : Bool) (us : Nat) : Session :=
  if x.state == .detached || (x.state == .opened && fp1) then { x with age := x.age + us } else x

def State.growLeases (s : State) : State :=
  s.contexts.foldl (fun s c => s.modCtx c (fun x => { x with ses := x.ses.grow (s.up 1) s.bellPeriod })) s

/-- The uncorrectable FEC codewords that the enabled ports have met since the last Bell (R429; log entry 100). -/
def State.countFec (s : State) : State :=
  let k := s.fresh
  { s with
    fresh := k + 1
    net := { s.net with fecUncorr := (List.range 8).map (fun p =>
      let old := Table.get 0 s.net.fecUncorr p
      (p, if s.portEn p then min 65535 (old + Config.fecCount k p) else old)) } }

/-- BELL (R32): the six actions in order, and what the firmware does once in a Bell. Bells begin in BELL_ALIGN. -/
def execBell (m : PowerMeas) (time : Nat) (s : State) : Answer :=
  .next (if s.phase = 5 ∨ s.phase = 6 ∨ s.phase = 8 then
    let old := s.pwr.clk
    let cap := s.pwr.inEffect
    let s := (s.countBell time).applyClock.latch.flipActions
    let s := s.wakeBells.switchActions.sendActions
    let s := ((s.powerTick m old cap).activationTick.startWaiting true).firmwareTick
    s.growLeases.countStalls.countFec.ptpTick
  else s)

/-- WAIT_STALL (R274): one event for each WAIT. -/
def execWaitStall (c : CroftId) (t : Strm) (s : State) : Answer :=
  .next (let y := s.strm c t
    let warn := (s.ctx s.resident).waitWarn
    match y.waiting with
    | .sem a n _ _ =>
      if s.switching ∨ warn = 0 ∨ y.stallBells < warn ∨ y.stallSent then s
      else (s.setStrm c t { y with stallSent := true }).event s.resident 0x0002
        [(c, 16), (t.num, 8), (y.pc.toNat, 48), (a, 24), (signedField 32 n, 32), (signedField 32 (s.semCount s.resident a), 32)]
    | _ => s)

/-! The end of a switch. -/

/-- Is it a network instruction (class 0x6)? -/
def FlightOp.isNet : FlightOp → Bool
  | .put _ => true
  | .get .. => true
  | .redw .. => true
  | .nsig _ => true
  | .vote _ => true
  | _ => false

/-- Does a resource lie in a croft's store? -/
def Res.inStore : Res → Bool
  | .mem block _ => storeBase ≤ 64 * block && 64 * block < storeBase + 288 * storeStride
  | _ => false

/-- Must an instruction complete before the crofts can save their state (R159 steps 2 and 3)? -/
def Flight.blocks (f : Flight) (c : Nat) : Bool := f.ctx == c && (!f.op.isNet || (f.reads ++ f.writes).any Res.inStore)

/-- A stream as it is saved: the instruction buffer is not, nor the croft's operand buffer, which the switch leaves empty (R162). -/
def Stream.saved (y : Stream) : Stream := { y with windows := [] }

def Croft.saved (x : Croft) : Croft := { x.mapStrms Stream.saved with wires := [], operands := [] }

def storeOf (l : Nat) : Nat := storeBase + l * storeStride

/-- A croft saves one context's state to its save area and restores another's; the wake wires stay with the croft (R159, R260). -/
def State.swapCroft (s : State) (out inn l : Nat) : State :=
  let x := s.croft l
  let kept : SaveArea := { croft := x.saved, store := Memory.copy [] 0 s.mem (storeOf l) storeBytes }
  let s := if out = nobody then s else { s.unpoke (saveAddr out l) (4352 * 1024) with saved := Table.put s.saved (out * 288 + l) kept }
  let a := s.area inn l
  { s with
    mem := Memory.copy s.mem (storeOf l) a.store 0 storeBytes
    crofts := Table.put s.crofts l { a.croft with wires := x.wires, operands := [] } }

/-- A restored stream that was WAITING tests its condition again (R162, R249): a WAIT completes, or takes a wire, or issues again
when none is free; a BELLW whose Bell has passed counts an overrun and completes. -/
def State.retest (s : State) (l : Nat) (t : Strm) : State :=
  match (s.strm l t).waiting with
  | .sem a n _ _ =>
    if n ≤ s.semCount s.resident a then s.modStrm l t (fun y => y.resume)
    else (match (s.croft l).freeWire? with
      | some w =>
        let s := s.modStrm l t (fun y => { y with waiting := .sem a n w false })
        s.setCroft l { s.croft l with wires := w :: (s.croft l).wires }
      | none => s.modStrm l t (fun y => { y with run := .running, waiting := .none }))
  | .bell b =>
    if b ≤ s.bellNow then
      (s.modStrm l t (fun y => y.resume)).modCtx s.resident (fun x => x.overrun t (1 + (s.bellNow - b)))
    else s
  | .none => s

/-- CONTEXT_RESTORE_DONE (R159–R162): the crofts have saved the outgoing context and restored the incoming one. A context released
meanwhile leaves the crofts empty. -/
def execContextRestoreDone (s : State) : Answer :=
  .next (if !s.switching || s.flights.any (fun f => f.blocks s.resident) then s
    else
      let inn := s.tally.swapIn
      let s := (List.range 288).foldl (fun (s : State) (l : Nat) => s.swapCroft s.resident inn l) s
      let s := { s with resident := if (s.ctx inn).exist then inn else nobody, switching := false }
      (List.range 288).foldl (fun (s : State) (l : Nat) => allStrms.foldl (fun s t => s.retest l t) s) s)

end Sys2Proof.Machine
end

