-- ==== Sys2Proof/Machine/Cores.lean ====
section
/-! DEFINITION. A core runs again, and the commands that waited for it (R458, R475–R477, R489, R492, R501). -/

namespace Sys2Proof.Machine

/-- The state a meaning leaves. -/
def State.after (s : State) (a : Answer) : State :=
  match a with
  | .next t => t
  | _ => s

/-- A command that waited for a core goes on; it can find another core that restarts. -/
def State.runLate (s : State) (i : Instr) : State :=
  match i with
  | .registerWrite c off v => s.writeWord c off v.toNat
  | .renew c q => s.takeIn 1 i (doRenew c q)
  | .closeDetach c q => s.takeIn 1 i (doCloseDetach c q)
  | .closeRelease c q => s.takeIn 1 i (doCloseRelease c q)
  | .launch c q => s.takeIn 3 i (doLaunch c q)
  | .switch c q x b => s.takeIn 1 i (doSwitch c q x b)
  | .submit c q ds => s.takeIn 3 i (doSubmit c q ds)
  | .semAdd c q a n => s.takeIn 1 i (doSemAdd c q a n)
  | .qpCreate c q bs => s.takeIn 2 i (doQpCreate c q bs)
  | .qpModify c q n bs => s.takeIn 2 i (doQpModify c q n bs)
  | .qpQuery c q n => s.takeIn 1 i (doQpQuery c q n)
  | .qpDestroy c q n => s.takeIn 2 i (doQpDestroy c q n)
  | .portAddr c q p k v4 v6 => s.takeIn 2 i (doPortAddr c q p k v4 v6)
  | .bellSet c q e p => s.takeIn 1 i (doBellSet c q e p)
  | .fwStage c q a n => s.takeIn 6 i (doFwStage c q a n)
  | .fwActivate c q => s.takeIn 6 i (doFwActivate c q)
  | .fwRestart c q k => s.takeIn 1 i (doFwRestart c q k)
  | .fwCatalogue c q a n => s.takeIn 6 i (doFwCatalogue c q a n)
  | .attest c q a k n => s.takeIn 1 i (doAttest c q a k n)
  | .identity c q a k => s.takeIn 1 i (doIdentity c q a k)
  | .cfgUpdate c q d ok => s.takeIn 1 i (doCfgUpdate c q d ok)
  | .dbgChallenge c q => s.takeIn 1 i (doDbgChallenge c q)
  | .dbgUnlock c q t => s.takeIn 1 i (doDbgUnlock c q t)
  | .dbgRead c q d h n => s.takeIn 1 i (doDbgRead c q d h n)
  | .dbgWrite c q d n bs => s.takeIn 1 i (doDbgWrite c q d n bs)
  | .hlthDump c q a k => s.takeIn 6 i (doHlthDump c q a k)
  | .sesOpen p k q m => s.after (execSesOpen p k q m s)
  | .stagingDone ok => s.after (execStagingDone ok s)
  | .activationLapse => s.after (execActivationLapse s)
  | .confirmation => s.after (execConfirmation s)
  | .gatherEntryComplete c e => s.after (execGatherEntryComplete c e s)
  | .ackTimeout n => s.after (execAckTimeout n s)
  | .rnrNak n p k => s.after (execRnrNak n p k s)
  | .remoteAccessError n p y => s.after (execRemoteAccessError n p y s)
  | .macResolutionTimeout n => s.after (execMacResolutionTimeout n s)
  | _ => s.runPacket i

/-- Everything that waits for a core, in the order of its arrival (R458). -/
def State.replayLate (s : State) (k : Nat) : State :=
  let mine := s.fw.late.filter (fun e => e.1 == k)
  let s := { s with fw := { s.fw with late := s.fw.late.filter (fun e => e.1 != k) } }
  mine.foldl (fun s e => s.runLate e.2) s

/-- FP0 replaces the measurement of the core (R501). -/
def State.measureCore (s : State) (k : Nat) : State :=
  { s with sec := { s.sec with meas := Table.put s.sec.meas (k + 1) (s.core k).img.hash } }

/-- An activation goes on: the core runs the staged image, and after the last one the confirmation begins (R489, R492). -/
def State.activated (s : State) (k : Nat) : State :=
  if s.fw.current ≠ some k then s
  else
    let f := { s.fw with current := none, onStaged := s.fw.onStaged ++ [k] }
    if f.order.isEmpty then ({ s with fw := { f with confirmSince := s.bellNow } }.setUpd 5 s.fw.updResult).fwEvent
    else { s with fw := f }

/-- CORE_RUNNING (R475, R477). -/
def execCoreRunning (core : Fin 8) (s : State) : Answer :=
  .next (if (s.core core).state ≠ 1 then s
    else
      let s := (s.setCore core { s.core core with state := 0 }).measureCore core
      let s := if core.val = 2 then s.resumeFp2 else s
      let s := if core.val = 7 then s.modPwr (fun p => { p with hold := false }) else s
      ((s.activated core).replayLate core).startWaiting false)

end Sys2Proof.Machine
end

