-- ==== Sys2Proof/Machine/Faults.lean ====
section
/-! DEFINITION. Faults of memory and crofts (R25, R26, R326, R393, R407–R412). -/

namespace Sys2Proof.Machine

/-! Croft faults (R25, R26, R393). -/

/-- Overlay entries of a die (R25). -/
def overlayMax : Nat := 8

def Security.used (x : Security) (die : Nat) : Nat := (x.overlay.filter (fun e => e.1 == die)).length

/-- A spare position for a croft of a die, while the overlay has room. -/
def Security.spare? (x : Security) (die : Nat) : Option Nat :=
  if x.used die < overlayMax then (Table.get [] x.spares die).head? else none

def dieOf (l : Nat) : Nat := l / 144

/-- The physical position of a logical croft on its die: its newest overlay entry, else the harvest map's (R23, R25). -/
def Security.posOf (x : Security) (l : Nat) : Option Nat :=
  match (x.overlay.filter (fun e => e.2.1 == l)).getLast? with
  | some e => some e.2.2
  | none => (Table.get [] x.harvest (dieOf l))[l % 144]?

/-- Spares that crofts still under test will take. -/
def Security.claimed (x : Security) (die : Nat) : Nat := (x.testing.filter (fun l => dieOf l == die)).length

/-- Can one more croft of a die be remapped? -/
def Security.hasRoom (x : Security) (die : Nat) : Bool :=
  x.claimed die + x.used die < overlayMax && x.claimed die < (Table.get [] x.spares die).length

/-- A croft has failed: the module asks for an abort and will remap it in quiet, or it has no spare left and fails. -/
def State.croftFails (s : State) (l : Nat) : State :=
  if s.sec.testing.contains l then s
  else if s.sec.hasRoom (dieOf l) then
    { s with sec := { s.sec with testing := s.sec.testing ++ [l] } }.askReport s.devid whySelfRemap
  else s.askReport s.devid whySelfFailed

/-- CROFT_FAULT (R25, R26, R393). -/
def execCroftFault (c : CroftId) (s : State) : Answer := .next (s.croftFails c)

/-- Contents of a physical croft that nothing has written: free values (log entry 10). -/
def freeA40s (k n : Nat) : List A40 := (List.range n).map (fun i => (Config.free64 (k + i)).setWidth 40)

def freeSet (k : Nat) : AccSet :=
  { totals := freeA40s k 1024, ovf := bit (Config.free64 (k + 1024)) 0, count := bits (Config.free64 (k + 1025)) 15 0 }

def freeArray (k : Nat) : ArrayState :=
  { active := bits (Config.free64 k) 0 0, set0 := freeSet (k + 1), set1 := freeSet (k + 2000)
    chunk := (List.range 1024).map (fun i => (Config.free64 (k + 4000 + i)).setWidth 32), comet := [] }

/-- The failed logical croft lies on another physical croft: its streams' registers and its wires stay, its memories hold what
the new one happens to hold. -/
def State.newCroft (s : State) (l : Nat) : State :=
  let k := s.fresh
  let x := s.croft l
  let tiles := Memory.cells 0 ((List.range (256 * 1024)).map (fun i => Config.freeByte (k + i)))
  let arrays := (List.range 64).map (fun a => (a, freeArray (k + 6000 * a)))
  let s := { s with fresh := k + 6000 * 64 }.setCroft l { x with tiles := tiles, arrays := arrays, stats := [] }
  s.spoil (storeOf l) storeBytes

/-- The overlay takes an entry, and FP0 measures it (R25, R501). -/
def State.remap (s : State) (l pos : Nat) : State :=
  let d := dieOf l
  let o := s.sec.overlay ++ [(d, l, pos)]
  let sec := { s.sec with
    overlay := o, spares := Table.put s.sec.spares d ((Table.get [] s.sec.spares d).filter (· != pos))
    meas := Table.put s.sec.meas 10 (overlayDigest o) }
  ({ s with sec := sec }).newCroft l

/-- Is the module in quiet: no step runs and nothing of any context is under way (R384, R393)? -/
def State.allQuiet (s : State) : Bool := s.contexts.all (fun c => !(s.ctx c).running && s.quiet c)

/-- REMAP_SELF_TEST_DONE (R25, R393): the remap is made in quiet, before the test; a croft that fails its test fails the module. -/
def execRemapSelfTestDone (c : CroftId) (ok : Bool) (s : State) : Answer :=
  .next (if !s.sec.testing.contains c.val || !s.allQuiet then s
    else match s.sec.spare? (dieOf c) with
      | none => s.askReport s.devid whySelfFailed
      | some pos =>
        let s := s.remap c pos
        let s := { s with sec := { s.sec with testing := s.sec.testing.filter (· != c.val) } }
        if ok then s else s.askReport s.devid whySelfFailed)

/-! Uncorrectable errors (R408–R412). -/

/-- Contexts a block serves: the one whose part of the system area it lies in, or those in whose mirrored range or Ledger region, and
every context where the block belongs to none of them (R401; log entry 21). -/
def State.servedBy (s : State) (row addr : Nat) : List Nat :=
  match (areaPart addr).bind s.partOwner with
  | some c => s.contexts.filter (· == c)
  | none =>
    let cs := s.contexts.filter (fun c =>
      let x := s.ctx c
      (row == 0 && x.mirBase ≤ addr && addr < x.mirBase + x.mirSize) ||
      (row == 1 && x.region ≤ addr && addr < x.region + x.regionGib * gibBytes))
    if cs.isEmpty then s.contexts else cs

/-- MEM_UE (R412). -/
def State.memUe (s : State) (cs : List Nat) (addr row : Nat) (repaired : Bool) : State :=
  let now := s.bellNow
  cs.foldl (fun s c => s.event c 0x0005 [(addr, 48), (row, 4), (now, 64), (if repaired then 1 else 0, 1)]) s

/-- The attempts that run now have met an uncorrectable error (R411). -/
def State.markUe (s : State) : State :=
  s.contexts.foldl (fun s c => s.modCtx c (fun x =>
    { x with steps := x.steps.map (fun h =>
        if x.liveAttempts.contains (h.desc.step, h.tries) then { h with ueTries := h.tries :: h.ueTries } else h) })) s

/-- Rows of R409 that are restored from a copy on the twin. -/
def rowFromTwin (row : Nat) : Bool := row < 4
def rowFirmware : Nat := 6
def rowPartner : Nat := 7
def rowElse : Nat := 8

/-- Has a context a twin that lives (R409)? -/
def State.twinLives (s : State) (c : Nat) : Bool :=
  (s.ctx c).twinEn && (match s.twin with | some d => s.members.contains d | none => false)

/-- Rows of R409 whose copy lies in the twin's image area. -/
def rowImage : Nat := 3

/-- Is there a twin copy of the block (R409)? An image record is of a context that has an image area, and the block's own bytes do not say
of which (R388, R405; log entry 21). -/
def State.twinHas (s : State) (row addr : Nat) : Bool :=
  if row = rowImage then s.contexts.any (fun c => c != 0 && (s.ctx c).imgSize != 0 && s.twinLives c)
  else (s.servedBy row addr).all s.twinLives

/-- The core whose code or data a 64-byte block of the firmware area holds: FP1–FP7 in turn (log entry 21). -/
def firmwareCore (addr : Nat) : Nat := 1 + addr / 64 % 7

/-- Wrong bits in the numerics store of a context; a twin that lives holds what it was. -/
def State.breakStore (s : State) (c : Nat) : State :=
  let n := (s.ctx c).store
  { s.spoilStore c with badStores := if s.twinLives c then s.badStores ++ [(c, n)] else s.badStores }

/-- Wrong bits in a 64-byte block of a queue pair's context (R401), while the hub's cache does not hold it; FP2 knows what they were. -/
def State.breakQp (s : State) (n o : Nat) : State :=
  let q := s.qp n
  if !q.used then s
  else
    let s := { s with badQps := s.badQps ++ [(n, q)] }
    if s.cached n then s
    else
      let r := s.drawBytes 64
      let bs := q.bytes n
      r.2.setQp n (q.setFields (bs.take (o / 64 * 64) ++ r.1 ++ bs.drop (o / 64 * 64 + 64)))

/-- Wrong bits in a copy of a core's firmware in hub memory: the core then loads another (R475, R495; log entry 21). -/
def State.breakImageCopy (s : State) (o : Nat) : State :=
  let k := firmwareCore o
  { s with fw := { s.fw with copies := Table.put s.fw.copies k ((Table.get [] s.fw.copies k).eraseIdx (o / 512 % 2)) } }

/-- Wrong bits in a 64-byte block of a system area, by what R401 places there. -/
def State.breakPart (s : State) (a : Nat) (p : AreaPart) : State :=
  match p with
  | .qp n o => s.breakQp n o
  | .numerics c _ => s.breakStore c
  | .firmware o => s.breakImageCopy o
  | _ =>
    let r := s.drawBytes 64
    r.2.dbgBytesTo a r.1

/-- The bits of a block are wrong, and are what they happen to be (R408); what its row of R409 restores is kept as its source holds
it. -/
def State.breakBlock (s : State) (row addr : Nat) : State :=
  let a := addr / 64 * 64
  match areaPart a with
  | some p => s.breakPart a p
  | none =>
    if hbmEnd ≤ a then s
    else
      let old := Memory.readBytes s.mem a 64
      let s := if rowFromTwin row && s.twinHas row addr then { s with badBlocks := s.badBlocks ++ [(row, a, old)] } else s
      s.spoil a 64

/-- An error in an HBM block, with what its row of R409 asks for. -/
def State.hbmError (s : State) (row addr : Nat) (repaired : Bool) : State :=
  let s := (s.memUe (s.servedBy row addr) (addr / 64 * 64) row repaired).breakBlock row addr
  if row = rowFirmware then s.coreFails (firmwareCore addr) whyMemUe else s

/-- The loss of the group when a needed copy does not exist (R409). The coordinator knows it of a block of its own; no message of R445 tells
it of another module's (log entry 21). -/
def State.lossWithout (s : State) (row addr : Nat) : State :=
  if rowFromTwin row ∧ !s.twinHas row addr ∧ s.isCoordinator then s.orderLoss s.devid else s

/-- The error is recorded with the attempts that run (R408, R411); the abort request at the next Bell, and the loss of the group (R408,
R409). A twin area's block needs no abort: its partner sends the range again, a WRITE of R432. -/
def State.ueAbort (s : State) (row addr : Nat) : State :=
  let s := s.markUe
  if row = rowPartner then s else (s.askReport s.devid whySelfRemap).lossWithout row addr

/-- Does any context hold a step? -/
def State.anyHeld (s : State) : Bool := s.contexts.any (fun c => (s.ctx c).anyHeld)

/-- PATROL_SCRUB (R407–R409): an error found while no step is held is restored with no abort. -/
def execPatrolScrub (ue : Option (Fin 9 × Nat)) (s : State) : Answer :=
  .next (match ue with
    | none => s
    | some e =>
      let r := s.draw64
      let s := r.2.hbmError e.1 e.2 (bit r.1 0)
      if s.anyHeld then s.ueAbort e.1 e.2 else (s.lossWithout e.1 e.2).restoreBlocks)

/-- The attempts that run on the crofts, with their context. -/
def State.runningAttempts (s : State) : List (Nat × Nat × Nat) :=
  (s.ctx s.resident).liveAttempts.map (fun e => (s.resident, e.1, e.2))

/-- Attempts of one step with SRAM errors that fail a croft (R412). -/
def sramAttempts : Nat := 3

/-- Wrong bits in a croft's SRAM that is no store: in one of its tiles, sets or chunk registers, which one by a free value (R408). -/
def State.breakCroft (s : State) (l : Nat) : State :=
  let k := s.fresh
  let v := Config.free64 k
  let s := { s with fresh := k + 8192 }
  let x := s.croft l
  let a := bits v 7 2 % 64
  let y := x.array a
  let z := freeArray (k + 1)
  let put := fun (y : ArrayState) => s.setCroft l { x with arrays := Table.put x.arrays a y }
  match bits v 1 0 with
  | 0 => s.setCroft l (x.putTile (bits v 14 8) ((List.range 2048).map (fun i => Config.freeByte (k + i))))
  | 1 => put { y with set0 := z.set0 }
  | 2 => put { y with set1 := z.set1 }
  | _ => put { y with chunk := z.chunk }

/-- An error in a croft's SRAM (R408, R412). -/
def State.sramError (s : State) (l addr : Nat) (repaired : Bool) : State :=
  let s := s.memUe s.contexts addr rowElse repaired
  let s := if inStoreOf l (addr / 64 * 64) 64 then s.spoil (addr / 64 * 64) 64 else s.breakCroft l
  let old := Table.get [] s.sramErrors l
  let now := old ++ s.runningAttempts.filter (fun e => !old.contains e)
  let s := { s with sramErrors := Table.put s.sramErrors l now }
  if now.any (fun e => sramAttempts ≤ (now.filter (fun d => d.1 == e.1 && d.2.1 == e.2.1)).length) then
    { s.markUe with sramErrors := Table.drop s.sramErrors l }.croftFails l
  else s.ueAbort rowElse addr

/-- An error in a slot position (R326): its sums are what they happen to be. -/
def State.slotError (s : State) (pos : Nat) (repaired : Bool) : State :=
  let s := s.memUe s.contexts 0 rowElse repaired
  let sums := (List.range 1024).map (fun i => signed 32 (bits (Config.free64 (s.fresh + i)) 31 0))
  let s := if (s.slot pos).state = .free then s else { s with fresh := s.fresh + 1024 }.setSlot pos { s.slot pos with sums := sums }
  s.ueAbort rowElse 0

/-- UNCORRECTABLE_ERROR (R326, R408, R409, R412). -/
def execUncorrectableError (place : UeWhere) (addr : Nat) (repaired : Bool) (s : State) : Answer :=
  .next (match place with
    | .row n => (s.hbmError n addr repaired).ueAbort n addr
    | .croftSram c => s.sramError c addr repaired
    | .slot pos => s.slotError pos repaired)

end Sys2Proof.Machine
end

