-- ==== Sys2Proof/Machine/Standin.lean ====
section
/-! DEFINITION. A stand-in takes the failed module's copies (R387–R389 orders 5 to 7, R406). -/

namespace Sys2Proof.Machine

/-- Where an image record goes, its data, and what follows it (R406): a 64-byte header with DEST and LEN blocks of data; LEN 0 ends. -/
def nextImage (bs : List Byte) : Option (Nat × List Byte × List Byte) :=
  let n := 64 * leNat ((bs.drop 8).take 4)
  if n = 0 then none else some (leNat (bs.take 6), (bs.drop 64).take n, bs.drop (64 + n))

/-- Is an address in a context's register page? -/
def inPage (c a : Nat) : Bool := regBase + (c + 1) * 0x10000 ≤ a && a < regBase + (c + 2) * 0x10000

/-- One image record of a context: register writes in ascending order where DEST lies in its register page, bytes elsewhere. -/
def State.putImage (s : State) (c dest : Nat) (data : List Byte) : State :=
  if inPage c dest then
    (List.zip (wordsOf dest data.length) (dataWords data)).foldl
      (fun (s : State) (e : Nat × Nat) => s.putWord e.1 e.2) s
  else if inHbm dest data.length || inSomeStore dest data.length then { s with mem := Memory.writeBytes s.mem dest data }
  else s

/-- The records of an image area in order; each has a header of 64 bytes at least, which bounds their number. -/
def imageGo : Nat → State → Nat → List Byte → State
  | 0, s, _, _ => s
  | n + 1, s, c, bs =>
    match nextImage bs with
    | none => s
    | some r => imageGo n (s.putImage c r.1 r.2.1) c r.2.2

def State.loadImage (s : State) (c : Nat) (bs : List Byte) : State := imageGo (bs.length / 64 + 1) s c bs

/-- A held step as the copy has it: an opened one is ABORTED at its attempt, to be replayed (R31, R389). -/
def HeldCopy.step (h : HeldCopy) : HeldStep :=
  { desc := h.desc, attempt := h.attempt, tries := h.attempt, opened := h.opened
    state := if h.opened then .aborted else .prepared }

/-- Generations, the last committed step, the held steps and the numerics of a copy (R387). -/
def Ctx.loadCopy (x : Ctx) (t : TwinCopy) : Ctx :=
  { x.loadStore t.store with
    genState := t.genState % 2, genMap := t.genMap % 2
    lastCmt := t.lastCmt.getD x.lastCmt, cmtSeen := t.lastCmt.isSome || x.cmtSeen
    newest := t.lastCmt, steps := t.held.map HeldCopy.step
    first := match t.lastCmt, t.held with | some n, _ => some n | none, h :: _ => some h.desc.step | none, [] => x.first
    lastSub := match t.held.reverse, t.lastCmt with | h :: _, _ => some h.desc.step | [], some n => some n | [], none => x.lastSub
    faulted := true, resumeAt := none, quietWait := false }

/-- One context's copies come into the stand-in: its register-page image and data first (R388), then what the module itself mirrors; the
snapshots, rungs and pages of the steps that had opened are formed again (R364, R389 order 5). -/
def State.loadTwin (s : State) (t : TwinCopy) : State :=
  let s := (s.loadImage t.ctx t.image).modCtx t.ctx (fun x => x.loadCopy t)
  (t.held.filter (·.opened)).foldl (fun s h => s.openNumerics t.ctx h.desc.step) s

/-- The mirrors that the stand-in will hold for its partners stand at its own contexts' generations: every module of a group flips them
with the same decisions (R341, R372, R389 order 6; log entry 125). -/
def State.adoptMirrors (s : State) : State :=
  s.partners.foldl (fun s p => s.contexts.foldl (fun s c => s.modGroup (fun g => { g with
    mirrorGen := Table.put g.mirrorGen (16 * p + c) ((s.ctx c).genState, (s.ctx c).genMap) })) s) s

/-- STATE_TRANSFER_DONE: the copies are in the stand-in, which reports quiet from now on (R389 orders 5 to 7). Contexts that exist here take
them; the others have no firmware settings on this stand-in (R388). -/
def execStateTransferDone (copies : List TwinCopy) (s : State) : Answer :=
  .next (match s.group.takingOver with
    | none => s
    | some _ =>
      let s := (copies.filter (fun t => s.contexts.contains t.ctx)).foldl State.loadTwin s
      (s.adoptMirrors.modGroup (fun g => { g with takingOver := none })))

end Sys2Proof.Machine
end

