-- ==== Sys2Proof/Machine/VecMath.lean ====
section
/-! DEFINITION. The functions 2–13 of VUN (R193), correctly rounded: an enclosure of the exact value in fixed
point, narrow enough that both its ends round to one code. -/

namespace Sys2Proof.Machine

/-- Fraction bits of the fixed point. -/
def fpBits : Nat := 512

/-- The number 1 in fixed point. -/
def fpOne : Int := (2 ^ fpBits : Nat)

/-- An enclosure: the exact value lies from lo to hi, both times 2^(−fpBits). -/
structure Iv where
  lo : Int
  hi : Int
deriving DecidableEq, Repr

/-- Quotient of integers rounded up; `/` rounds down for a positive divisor. -/
def ceilDiv (a b : Int) : Int := -((-a) / b)

def Iv.ofInt (i : Int) : Iv := ⟨i * fpOne, i * fpOne⟩

/-- An exact dyadic in fixed point. -/
def Iv.ofVal : Val → Iv
  | .fin s m e =>
    let k := e + (fpBits : Int)
    let lo : Int := if 0 ≤ k then (m : Int) * (2 ^ k.toNat : Nat) else (m : Int) / (2 ^ (-k).toNat : Nat)
    let hi : Int := if 0 ≤ k then lo else ceilDiv m (2 ^ (-k).toNat : Nat)
    if s then ⟨-hi, -lo⟩ else ⟨lo, hi⟩
  | _ => ⟨0, 0⟩

def Iv.add (a b : Iv) : Iv := ⟨a.lo + b.lo, a.hi + b.hi⟩
def Iv.neg (a : Iv) : Iv := ⟨-a.hi, -a.lo⟩
def Iv.sub (a b : Iv) : Iv := a.add b.neg

/-- Product of enclosures of any signs. -/
def Iv.mul (a b : Iv) : Iv :=
  let ps := [a.lo * b.lo, a.lo * b.hi, a.hi * b.lo, a.hi * b.hi]
  let mn := ps.foldl min (a.lo * b.lo)
  let mx := ps.foldl max (a.lo * b.lo)
  ⟨mn / fpOne, ceilDiv mx fpOne⟩

/-- Quotient of non-negative enclosures, the divisor positive. -/
def Iv.div (a b : Iv) : Iv := ⟨a.lo * fpOne / b.hi, ceilDiv (a.hi * fpOne) b.lo⟩

/-- Quotient by a positive number. -/
def Iv.divNat (a : Iv) (n : Nat) : Iv := ⟨a.lo / (n : Int), ceilDiv a.hi n⟩

/-- Square root of a non-negative enclosure. -/
def Iv.sqrt (a : Iv) : Iv := ⟨isqrt (a.lo * fpOne).toNat, isqrt (a.hi * fpOne).toNat + 1⟩

/-- e^x for 0 ≤ x < 512: forty Taylor terms of x / 2^20, then twenty squarings. -/
def Iv.exp (x : Iv) : Iv :=
  let r := x.divNat (2 ^ 20)
  let p := (List.range 40).foldl (fun (acc : Iv × Iv) i =>
    let term := (acc.1.mul r).divNat (i + 1)
    (term, acc.2.add term)) (Iv.ofInt 1, Iv.ofInt 1)
  let s : Iv := ⟨p.2.lo, p.2.hi + 2 * p.1.hi⟩
  (List.range 20).foldl (fun (y : Iv) _ => y.mul y) s

/-- artanh z = z + z³/3 + … for 0 ≤ z ≤ 1/3. -/
def Iv.artanh (z : Iv) : Iv :=
  let z2 := z.mul z
  let p := (List.range 170).foldl (fun (acc : Iv × Iv) i =>
    let pw := acc.1.mul z2
    (pw, acc.2.add (pw.divNat (2 * i + 3)))) (z, z)
  ⟨p.2.lo, p.2.hi + 2 * p.1.hi⟩

/-- ln 2 = 2 artanh (1/3). -/
def ln2 : Iv := let a := ((Iv.ofInt 1).divNat 3).artanh; a.add a

/-- arctan (1/n). -/
def arctanInv (n : Nat) : Iv :=
  let p := (List.range 120).foldl (fun (acc : Iv × Iv) i =>
    let pw := acc.1.divNat (n * n)
    let term := pw.divNat (2 * i + 3)
    (pw, if i % 2 = 0 then acc.2.sub term else acc.2.add term)) ((Iv.ofInt 1).divNat n, (Iv.ofInt 1).divNat n)
  ⟨p.2.lo - p.1.hi, p.2.hi + p.1.hi⟩

/-- π = 16 arctan (1/5) − 4 arctan (1/239). -/
def piIv : Iv := ((Iv.ofInt 16).mul (arctanInv 5)).sub ((Iv.ofInt 4).mul (arctanInv 239))

/-- ln a for a > 0: k ln 2 + 2 artanh ((f − 1) / (f + 1)) with a = f · 2^k and 2/3 ≤ f < 4/3. -/
def lnMag (m : Nat) (e : Int) : Iv :=
  let l := log2 m
  -- f = m / 2^l in [1, 2), halved when it is 4/3 or more
  let half := 4 * 2 ^ l ≤ 3 * m
  let d := if half then 2 ^ (l + 1) else 2 ^ l
  let k : Int := e + (l : Int) + (if half then 1 else 0)
  let z := ((Iv.ofInt (if d ≤ m then m - d else d - m)).div (Iv.ofInt ((m : Int) + d))).artanh
  let t := z.add z
  ((Iv.ofInt k).mul ln2).add (if d ≤ m then t else t.neg)

/-- Σ (−v)^n / (n! (2n + 1)) for 0 ≤ v < 200. -/
def erfSeries (v : Iv) : Iv :=
  let p := (List.range 900).foldl (fun (acc : Iv × Iv) i =>
    let pw := (acc.1.mul v).divNat (i + 1)
    let term := pw.divNat (2 * i + 3)
    (pw, if i % 2 = 0 then acc.2.sub term else acc.2.add term)) (Iv.ofInt 1, Iv.ofInt 1)
  ⟨p.2.lo - p.1.hi, p.2.hi + p.1.hi⟩

/-- Just below 1, for arguments so large that only the rounding can tell. -/
def nearOne : Iv := ⟨fpOne - (2 ^ (fpBits - 180) : Nat), fpOne⟩

/-- From 0 to 2^−140, which both 16-bit formats round to 0. -/
def nearZero : Iv := ⟨0, (2 ^ (fpBits - 140) : Nat)⟩

/-- Is |a| at least n? -/
def magGe (n : Nat) (a : Val) : Bool := !Val.absLt a (.fin false n 0)

/-- 1 / (1 + e^(−a)). -/
def sigmoidIv (a : Val) : Iv :=
  if magGe 512 a then (if a.isNeg then nearZero else nearOne)
  else
    let e := (Iv.ofVal (Val.abs a)).exp
    let d := e.add (Iv.ofInt 1)
    if a.isNeg then (Iv.ofInt 1).div d else e.div d

/-- tanh |a|. -/
def tanhIv (a : Val) : Iv :=
  if magGe 256 a then nearOne
  else
    let e := (Iv.ofVal (Val.scale 1 (Val.abs a))).exp
    (e.sub (Iv.ofInt 1)).div (e.add (Iv.ofInt 1))

/-- erf |a|. -/
def erfIv (a : Val) : Iv :=
  if magGe 14 a then nearOne
  else
    let x := Iv.ofVal (Val.abs a)
    let c := (Iv.ofInt 2).div piIv.sqrt
    (c.mul x).mul (erfSeries (Iv.ofVal (Val.mul a a)))

/-- |a| Φ(a). -/
def geluIv (a : Val) : Iv :=
  let x := Iv.ofVal (Val.abs a)
  if magGe 15 a ∧ a.isNeg then nearZero
  else if magGe 20 a then x.mul nearOne
  else
    let c := (Iv.ofInt 1).div (((Iv.ofInt 2).mul piIv).sqrt)
    let t := (c.mul x).mul (erfSeries (Iv.ofVal (Val.scale (-1) (Val.mul a a))))
    let half : Iv := (Iv.ofInt 1).divNat 2
    x.mul (if a.isNeg then half.sub t else half.add t)

/-- |a| / (1 + e^(−a)). -/
def siluIv (a : Val) : Iv :=
  if magGe 512 a ∧ a.isNeg then nearZero else (Iv.ofVal (Val.abs a)).mul (sigmoidIv a)

/-- The value an enclosure stands for, one end of it, with a sign. -/
def ivVal (neg : Bool) (i : Int) : Val := .fin (neg != decide (i < 0)) i.natAbs (-(fpBits : Int))

/-- The code both ends of an enclosure round to. -/
def ivCode (fmt : Nat) (neg : Bool) (x : Iv) : Nat := (encode fmt .rne (ivVal neg x.lo)).1

/-- e^a (R193). -/
def expCode (fmt : Nat) (a : Val) : Nat :=
  if a.isZero then (encode fmt .rne (.fin false 1 0)).1
  else if magGe 512 a then (if a.isNeg then 0 else infCode fmt false)
  else
    let e := (Iv.ofVal (Val.abs a)).exp
    ivCode fmt false (if a.isNeg then (Iv.ofInt 1).div e else e)

/-- Is a value an integer, and which? -/
def intOf : Val → Option Int
  | .fin s m e =>
    if 0 ≤ e ∨ m % 2 ^ (-e).toNat = 0 then some (Val.atExp (min e 0) (.fin s m e) / (2 ^ (-(min e 0)).toNat : Nat)) else none
  | _ => none

/-- 2^a (R193). -/
def exp2Code (fmt : Nat) (a : Val) : Nat :=
  if magGe 512 a then (if a.isNeg then 0 else infCode fmt false)
  else match intOf a with
    | some i => (encode fmt .rne (.fin false 1 i)).1
    | none =>
      let e := ((Iv.ofVal (Val.abs a)).mul ln2).exp
      ivCode fmt false (if a.isNeg then (Iv.ofInt 1).div e else e)

/-- ln a and log₂ a (R193). -/
def logCode (fmt : Nat) (base2 : Bool) (a : Val) : Nat :=
  match a with
  | .fin s m e =>
    if m = 0 then infCode fmt true
    else if s then canonNan fmt
    else if m = 2 ^ log2 m ∧ (base2 ∨ e + (log2 m : Int) = 0) then
      (encode fmt .rne (intv (e + (log2 m : Int)))).1
    else
      let x := lnMag m e
      let x := if base2 then (if x.lo < 0 then (x.neg.div ln2).neg else x.div ln2) else x
      ivCode fmt false x
  | .inf s => if s then canonNan fmt else infCode fmt false
  | .nan => canonNan fmt
where intv (i : Int) : Val := .fin (i < 0) i.natAbs 0

/-- The code of ±1. -/
def oneCode (fmt : Nat) (neg : Bool) : Nat := (encode fmt .rne (.fin neg 1 0)).1

/-- The code of ±0. -/
def zeroCode (fmt : Nat) (neg : Bool) : Nat := (encode fmt .rne (.fin neg 0 0)).1

/-- f(a) of VUN in BF16 or FP16 (R193). -/
def vunCode (fmt f : Nat) (a : Val) : Nat :=
  match f, a with
  | _, .nan => canonNan fmt
  | 0, v => (encode fmt .rne (Val.neg v)).1
  | 1, v => (encode fmt .rne (Val.abs v)).1
  | 2, v => (encode fmt .rne (Val.sqrt v)).1
  | 3, .fin s m e =>
    if m = 0 then infCode fmt s else if s then canonNan fmt
    else (encode fmt .rne (let r := rsqrtMag m e; .fin false r.1 r.2)).1
  | 3, .inf s => if s then canonNan fmt else zeroCode fmt false
  | 4, v => (encode fmt .rne (Val.div (.fin false 1 0) v)).1
  | 5, .inf s => if s then zeroCode fmt false else infCode fmt false
  | 5, v => expCode fmt v
  | 6, .inf s => if s then zeroCode fmt false else infCode fmt false
  | 6, v => exp2Code fmt v
  | 7, v => logCode fmt false v
  | 8, v => logCode fmt true v
  | 9, .inf s => oneCode fmt s
  | 9, v => if v.isZero then zeroCode fmt v.isNeg else ivCode fmt v.isNeg (tanhIv v)
  | 10, .inf s => if s then zeroCode fmt false else oneCode fmt false
  | 10, v => if v.isZero then (encode fmt .rne (.fin false 1 (-1))).1 else ivCode fmt false (sigmoidIv v)
  | 11, .inf s => if s then zeroCode fmt true else infCode fmt false
  | 11, v => if v.isZero then zeroCode fmt v.isNeg else ivCode fmt v.isNeg (geluIv v)
  | 12, .inf s => if s then zeroCode fmt true else infCode fmt false
  | 12, v => if v.isZero then zeroCode fmt v.isNeg else ivCode fmt v.isNeg (siluIv v)
  | 13, .inf s => oneCode fmt s
  | 13, v => if v.isZero then zeroCode fmt v.isNeg else ivCode fmt v.isNeg (erfIv v)
  | _, v => (encode fmt .rne (Val.mul v v)).1
where
  /-- 1 / √(m · 2^e) with a sticky last bit. -/
  rsqrtMag (m : Nat) (e : Int) : Nat × Int :=
    let (m, e) := if e % 2 = 0 then (m, e) else (2 * m, e - 1)
    -- 1/√m = √(2^(2s) / m) / 2^s
    let s : Nat := 64 + log2 m
    let q := 2 ^ (2 * s) / m
    let r := isqrt q
    (2 * r + (if r * r * m = 2 ^ (2 * s) then 0 else 1), -(e / 2) - (s : Int) - 1)

end Sys2Proof.Machine
end

