-- ==== Sys2Proof/Machine/Vector.lean ====
section
/-! DEFINITION. The vector class (R191–R196). An instruction's operands are read and its results written as one effect, when it
completes (R128, R151). -/

namespace Sys2Proof.Machine

def VecReg.res : VecReg → Res
  | .tile n => .tile n
  | .set a i => .set a i

/-- The register an operand byte names (R140). -/
def vecReg (x : Croft) (acc : Bool) (b : Nat) : VecReg :=
  if acc then .set (accNo b) ((x.array (accNo b)).named (accShd b)) else .tile (tileNo b)

/-- The operand format: BF16 or FP16 from TAG, or A40. -/
def vecTagFmt (w : Word) : Nat := if tagFmt (fTag w) ≤ 8 then 8 else 9

def vecFmt (w : Word) : Nat := if bit w 48 then 11 else vecTagFmt w

/-- The 1,024 codes of an operand. -/
def Croft.vecCodes (x : Croft) (fmt : Nat) : VecReg → List Nat
  | .tile n => codes fmt (x.tile n)
  | .set a i => (allCells ((x.array a).set i).totals).map (·.toNat)

/-- Block counter 0 and no queued Comet products (R192). -/
def Croft.vecClean (x : Croft) : VecReg → Bool
  | .tile _ => true
  | .set a i => ((x.array a).set i).count == 0 && !(x.array a).comet.any (fun q => q.set == i)

/-- A result with its code: rounded once, or copied (R191); whether it is NaN, and whether it saturated. -/
def vecCode (fmt : Nat) (v : Val) : Nat × Bool × Bool :=
  if fmt = 11 then (let (c, o) := toA40 v; (c.toNat, v.isNan, o)) else ((encode fmt .rne v).1, v.isNan, false)

/-- A copied code. -/
def vecCopy (fmt c : Nat) : Nat × Bool × Bool := (c, (decode fmt c).isNan, false)

/-- What a vector instruction reads, writes and occupies. -/
def vecNeed (srcs : List VecReg) (dst : VecReg) (extra : List Res) : Need :=
  { reads := srcs.map VecReg.res ++ extra, writes := [dst.res], units := [.vector] }

/-- Is an MMA still landing in one of the sets? -/
def State.vecBusy (s : State) (l : Nat) (rs : List VecReg) : Bool :=
  rs.any (fun r => match r with | .set a i => s.setBusy l a i | _ => false)

/-- A vector instruction issues: its sets must be clean (R192). -/
def vecIssue (l : Nat) (t : Strm) (fn : VecFn) (fmt : Nat) (srcs : List VecReg) (dst : VecReg) (extra : List Res) (s : State) :
    State :=
  let need := vecNeed srcs dst extra
  if !s.ready l t 8 need || s.vecBusy l (dst :: srcs) then s
  else if !((dst :: srcs).all (s.croft l).vecClean) then s.faultAt l t stOperand
  else s.issue l t 8 need (.vector fn fmt srcs dst) 0 0 none false

/-- The larger and the smaller of two values; +0 is larger than −0 (R191). -/
def maxVal (a b : Val) : Val :=
  if a.isNan || b.isNan then .nan
  else if Val.lt a b then b else if Val.lt b a then a else if a.isNeg then b else a

def minVal (a b : Val) : Val :=
  if a.isNan || b.isNan then .nan
  else if Val.lt a b then a else if Val.lt b a then b else if a.isNeg then a else b

/-- A result of VUN, and whether it is NaN (R193). -/
def vunResult (fmt f : Nat) (v : Val) : Nat × Bool × Bool :=
  if fmt = 11 then vecCode 11 (if f = 0 then Val.neg v else Val.abs v)
  else let r := vunCode fmt f v; (r, (decode fmt r).isNan, false)

/-- Fold a reduction from its first element. -/
def foldVals (f : Val → Val → Val) : List Val → Val
  | [] => Val.zero
  | v :: vs => vs.foldl f v

/-- The exact reduction of 32 values (R194). -/
def reduceVals (op : Nat) (vs : List Val) : Val :=
  match op with
  | 0 => foldVals Val.add vs
  | 1 => foldVals maxVal vs
  | _ => foldVals Val.add (vs.map (fun v => Val.mul v v))

/-- VRED: the reductions in row or column 0, and 0 elsewhere (R194). -/
def reduceTile (fmt op : Nat) (cols : Bool) (vs : List Val) : List (Nat × Bool × Bool) :=
  let lines := pieces 32 32 (if cols then transpose Val.zero vs else vs)
  let rs := lines.map (fun r => vecCode fmt (reduceVals op r))
  (List.range 1024).map (fun k =>
    if cols then (if k < 32 then rs.getD k (0, false, false) else (0, false, false))
    else (if k % 32 = 0 then rs.getD (k / 32) (0, false, false) else (0, false, false)))

/-- The comparisons of VCMPSEL (R195). -/
def cmpHolds (op : Nat) (a b : Val) : Bool :=
  let un := a.isNan || b.isNan
  match op with
  | 0 => !un && Val.eqv a b
  | 1 => un || !Val.eqv a b
  | 2 => !un && Val.lt a b
  | 3 => !un && !Val.lt b a
  | 4 => !un && Val.lt b a
  | 5 => !un && !Val.lt a b
  | _ => un

/-- Elementwise arithmetic on the values of a, b and d. -/
def vecArith (fmt : Nat) (f : Val → Val → Val → Val) (a b d : List Val) : List (Nat × Bool × Bool) :=
  (List.range 1024).map (fun k => vecCode fmt (f (a.getD k Val.zero) (b.getD k Val.zero) (d.getD k Val.zero)))

/-- Elementwise operation on the codes of one operand. -/
def vecEach (f : Nat → Nat × Bool × Bool) (a : List Nat) : List (Nat × Bool × Bool) :=
  (List.range 1024).map (fun k => f (a.getD k 0))

/-- Source number i of a vector instruction, its codes in a format. -/
def Croft.vecSrc (x : Croft) (fmt : Nat) (srcs : List VecReg) (i : Nat) : List Nat :=
  x.vecCodes fmt (srcs.getD i (.tile 0))

/-- The 1,024 results of a vector function: code, whether it is NaN, whether it saturated (R191–R196). -/
def Croft.vecResults (x : Croft) (fn : VecFn) (fmt : Nat) (srcs : List VecReg) : List (Nat × Bool × Bool) :=
  let c := x.vecSrc fmt srcs
  let v := fun i => (c i).map (decode fmt)
  match fn with
  | .add => vecArith fmt (fun a b _ => Val.add a b) (v 0) (v 1) []
  | .sub => vecArith fmt (fun a b _ => Val.add a (Val.neg b)) (v 0) (v 1) []
  | .mul => vecArith fmt (fun a b _ => Val.mul a b) (v 0) (v 1) []
  | .fma => vecArith fmt (fun a b d => Val.add (Val.mul a b) d) (v 0) (v 1) (v 2)
  | .max => vecArith fmt (fun a b _ => maxVal a b) (v 0) (v 1) []
  | .min => vecArith fmt (fun a b _ => minVal a b) (v 0) (v 1) []
  | .scale k => vecEach (fun e => vecCode fmt (Val.mul (decode fmt e) (decode 11 k.toNat))) (c 0)
  | .un f => vecEach (fun e => vunResult fmt f (decode fmt e)) (c 0)
  | .red op cols => reduceTile fmt op cols (v 0)
  | .bcast cols => (List.range 1024).map (fun k => vecCopy fmt ((c 0).getD (if cols then k % 32 else k / 32 * 32) 0))
  | .select op => (List.range 1024).map (fun k => vecCopy fmt
      (if cmpHolds op (decode fmt ((c 0).getD k 0)) (decode fmt ((c 1).getD k 0)) then (c 2).getD k 0 else (c 3).getD k 0))
  | .widen f => vecEach (fun e => vecCode 11 (decode f e)) (x.vecSrc f srcs 0)
  | .bytes => []
  | .copy => vecEach (vecCopy fmt) (c 0)

/-- The OVF a vector function leaves in a set when nothing saturates: that of the source of a copy, or the set's own (R191,
R196). -/
def Croft.vecOvf (x : Croft) (fn : VecFn) (srcs : List VecReg) (own : Bool) : Bool :=
  match fn, srcs with
  | .copy, .set a i :: _ => ((x.array a).set i).ovf
  | _, _ => own

/-- A vector instruction's effect on the croft, and whether it ends with NUMERIC_FLAG (R191). -/
def Croft.vecApply (x : Croft) (fn : VecFn) (fmt : Nat) (srcs : List VecReg) (dst : VecReg) : Croft × Bool :=
  let rs := x.vecResults fn fmt srcs
  let sat := rs.any (·.2.2)
  let flag := sat || rs.any (·.2.1)
  match fn, srcs, dst with
  | .bytes, .tile a :: _, .tile n => (x.putTile n (x.tile a), false)
  | _, _, .tile n => (x.putTile n (packRecord fmt (rs.map (·.1)) []), flag)
  | _, _, .set a i =>
    let st := (x.array a).set i
    let clear := match fn with | .widen _ => true | _ => false
    let st : AccSet :=
      { totals := trimCells (rs.map (fun r => BitVec.ofNat 40 r.1)), ovf := sat || x.vecOvf fn srcs st.ovf
        count := if clear then 0 else st.count }
    (x.putArray a ((x.array a).putSet i st), flag)

/-- VECTOR_COMPLETE: operands are read and the result tile or set is written as one effect (R128, R151, R191). -/
def execVectorComplete (id : Nat) (s : State) : Answer :=
  .next (match s.flight? id with
    | some f =>
      match f.op with
      | .vector fn fmt srcs dst =>
        let r := (s.croftOf f.ctx f.croft).vecApply fn fmt srcs dst
        (s.setCroftOf f.ctx f.croft r.1).complete f (if r.2 then stNumeric else stOk)
      | _ => s
    | none => s)

/-! The instructions. -/

/-- Elementwise arithmetic: SRC1, SRC2 and, where `useD`, DST. -/
def vecBinary (fn : VecFn) (useD : Bool) (c : Nat) (t : Strm) (w : Word) (s : State) : Answer :=
  .next (
    let r := vecReg (s.croft c) (bit w 48)
    let d := r (fDst w)
    vecIssue c t fn (vecFmt w) (if useD then [r (fSrc1 w), r (fSrc2 w), d] else [r (fSrc1 w), r (fSrc2 w)]) d [] s)

/-- VADD. -/
def execVadd (c : CroftId) (t : Strm) (w : Word) (s : State) : Answer := vecBinary .add false c t w s

/-- VSUB. -/
def execVsub (c : CroftId) (t : Strm) (w : Word) (s : State) : Answer := vecBinary .sub false c t w s

/-- VMUL. -/
def execVmul (c : CroftId) (t : Strm) (w : Word) (s : State) : Answer := vecBinary .mul false c t w s

/-- VFMA: a single rounding. -/
def execVfma (c : CroftId) (t : Strm) (w : Word) (s : State) : Answer := vecBinary .fma true c t w s

/-- VMAX. -/
def execVmax (c : CroftId) (t : Strm) (w : Word) (s : State) : Answer := vecBinary .max false c t w s

/-- VMIN. -/
def execVmin (c : CroftId) (t : Strm) (w : Word) (s : State) : Answer := vecBinary .min false c t w s

/-- One source and a destination. -/
def vecUnary (fn : VecFn) (extra : List Res) (c : Nat) (t : Strm) (w : Word) (s : State) : Answer :=
  .next (
    let r := vecReg (s.croft c) (bit w 48)
    vecIssue c t fn (vecFmt w) [r (fSrc1 w)] (r (fDst w)) extra s)

/-- VSCL: the scalar is an A40 value in S[SRC2][39:0]. -/
def execVscl (c : CroftId) (t : Strm) (w : Word) (s : State) : Answer :=
  vecUnary (.scale (BitVec.ofNat 40 (bits ((s.strm c t).sreg (fSrc2 w)) 39 0))) (sRes (fSrc2 w)) c t w s

/-- The function of VUN: with ACC only 0 and 1, otherwise 0–14 (R193). -/
def vunFn (w : Word) : Nat := if bit w 48 then min 1 (fImm w % 32) else min 14 (fImm w % 32)

/-- VUN (R193). -/
def execVun (c : CroftId) (t : Strm) (w : Word) (s : State) : Answer := vecUnary (.un (vunFn w)) [] c t w s

/-- VRED (R194). -/
def execVred (c : CroftId) (t : Strm) (w : Word) (s : State) : Answer :=
  vecUnary (.red (min 2 (fImm w % 4)) (bit w 49)) [] c t w s

/-- VBCAST: bit for bit. -/
def execVbcast (c : CroftId) (t : Strm) (w : Word) (s : State) : Answer := vecUnary (.bcast (bit w 49)) [] c t w s

/-- VCMPSEL (R195). -/
def execVcmpsel (c : CroftId) (t : Strm) (w : Word) (s : State) : Answer :=
  .next (
    let r := vecReg (s.croft c) (bit w 48)
    vecIssue c t (.select (min 6 (fImm w / 2 ^ 16 % 8))) (vecFmt w)
      [r (fSrc1 w), r (fSrc2 w), r (fImm w % 128), r (fImm w / 256 % 128)] (r (fDst w)) [] s)

/-- VMOV (R196): a tile's bytes, a tile widened into a set, or a set with its OVF. -/
def execVmov (c : CroftId) (t : Strm) (w : Word) (s : State) : Answer :=
  .next (
    let r := vecReg (s.croft c)
    match bits w 49 48 with
    | 0 => vecIssue c t .bytes 8 [r false (fSrc1 w)] (r false (fDst w)) [] s
    | 1 => vecIssue c t (.widen (vecTagFmt w)) 11 [r false (fSrc1 w)] (r true (fDst w)) [] s
    | _ => vecIssue c t .copy 11 [r true (fSrc1 w)] (r true (fDst w)) [] s)

end Sys2Proof.Machine
end

