-- ==== Sys2Proof/Machine/Dispatch.lean ====
section
/-! DEFINITION. One arm for each command: the meaning it calls. -/

namespace Sys2Proof.Machine

/-- The effect of a command on everything but the queue. -/
def exec (i : Instr) (s : State) : Host.Outcome State Fault Refusal :=
  match i with
  | .nop c t w => Sys2Proof.Machine.execNop c t w s
  | .jmp c t w => Sys2Proof.Machine.execJmp c t w s
  | .br c t w => Sys2Proof.Machine.execBr c t w s
  | .loop c t w => Sys2Proof.Machine.execLoop c t w s
  | .call c t w => Sys2Proof.Machine.execCall c t w s
  | .ret c t w => Sys2Proof.Machine.execRet c t w s
  | .sli c t w => Sys2Proof.Machine.execSli c t w s
  | .salu c t w => Sys2Proof.Machine.execSalu c t w s
  | .pset c t w => Sys2Proof.Machine.execPset c t w s
  | .bellw c t w => Sys2Proof.Machine.execBellw c t w s
  | .rdstat c t w => Sys2Proof.Machine.execRdstat c t w s
  | .rdctx c t w => Sys2Proof.Machine.execRdctx c t w s
  | .halt c t w => Sys2Proof.Machine.execHalt c t w s
  | .reservedOpcode c t w => Sys2Proof.Machine.execReservedOpcode c t w s
  | .mma c t w => Sys2Proof.Machine.execMma c t w s
  | .mmat c t w => Sys2Proof.Machine.execMmat c t w s
  | .drain c t w => Sys2Proof.Machine.execDrain c t w s
  | .accld c t w => Sys2Proof.Machine.execAccld c t w s
  | .accst c t w => Sys2Proof.Machine.execAccst c t w s
  | .comet c t w => Sys2Proof.Machine.execComet c t w s
  | .cvt c t w => Sys2Proof.Machine.execCvt c t w s
  | .cvtt c t w => Sys2Proof.Machine.execCvtt c t w s
  | .rot c t w => Sys2Proof.Machine.execRot c t w s
  | .stat c t w => Sys2Proof.Machine.execStat c t w s
  | .vadd c t w => Sys2Proof.Machine.execVadd c t w s
  | .vsub c t w => Sys2Proof.Machine.execVsub c t w s
  | .vmul c t w => Sys2Proof.Machine.execVmul c t w s
  | .vfma c t w => Sys2Proof.Machine.execVfma c t w s
  | .vmax c t w => Sys2Proof.Machine.execVmax c t w s
  | .vmin c t w => Sys2Proof.Machine.execVmin c t w s
  | .vscl c t w => Sys2Proof.Machine.execVscl c t w s
  | .vun c t w => Sys2Proof.Machine.execVun c t w s
  | .vred c t w => Sys2Proof.Machine.execVred c t w s
  | .vbcast c t w => Sys2Proof.Machine.execVbcast c t w s
  | .vcmpsel c t w => Sys2Proof.Machine.execVcmpsel c t w s
  | .vmov c t w => Sys2Proof.Machine.execVmov c t w s
  | .ld c t w => Sys2Proof.Machine.execLd c t w s
  | .st c t w => Sys2Proof.Machine.execSt c t w s
  | .ldt c t w => Sys2Proof.Machine.execLdt c t w s
  | .stt c t w => Sys2Proof.Machine.execStt c t w s
  | .gather c t w => Sys2Proof.Machine.execGather c t w s
  | .prefetch c t w => Sys2Proof.Machine.execPrefetch c t w s
  | .wait c t w => Sys2Proof.Machine.execWait c t w s
  | .sadd c t w => Sys2Proof.Machine.execSadd c t w s
  | .ssub c t w => Sys2Proof.Machine.execSsub c t w s
  | .sread c t w => Sys2Proof.Machine.execSread c t w s
  | .put c t w => Sys2Proof.Machine.execPut c t w s
  | .get c t w => Sys2Proof.Machine.execGet c t w s
  | .redw c t w => Sys2Proof.Machine.execRedw c t w s
  | .nsig c t w => Sys2Proof.Machine.execNsig c t w s
  | .vote c t w => Sys2Proof.Machine.execVote c t w s
  | .upel c t w => Sys2Proof.Machine.execUpel c t w s
  | .uplw c t w => Sys2Proof.Machine.execUplw c t w s
  | .upskip c t w => Sys2Proof.Machine.execUpskip c t w s
  | .upcmt c t w => Sys2Proof.Machine.execUpcmt c t w s
  | .instructionWindowArrival c t window => Sys2Proof.Machine.execInstructionWindowArrival c t window s
  | .mmaBlockLanding id => Sys2Proof.Machine.execMmaBlockLanding id s
  | .conversionComplete id => Sys2Proof.Machine.execConversionComplete id s
  | .statRingWrite id => Sys2Proof.Machine.execStatRingWrite id s
  | .dataMoveComplete id farData => Sys2Proof.Machine.execDataMoveComplete id farData s
  | .prefetchBlockLanding id farData => Sys2Proof.Machine.execPrefetchBlockLanding id farData s
  | .farMemoryTimeout id => Sys2Proof.Machine.execFarMemoryTimeout id s
  | .putAck id => Sys2Proof.Machine.execPutAck id s
  | .getResponse id data => Sys2Proof.Machine.execGetResponse id data s
  | .redwAck id => Sys2Proof.Machine.execRedwAck id s
  | .nsigAck id => Sys2Proof.Machine.execNsigAck id s
  | .voteRecorded id => Sys2Proof.Machine.execVoteRecorded id s
  | .upelComplete id => Sys2Proof.Machine.execUpelComplete id s
  | .uplwComplete id => Sys2Proof.Machine.execUplwComplete id s
  | .waitRegistration c t => Sys2Proof.Machine.execWaitRegistration c t s
  | .wakeNotice c wire => Sys2Proof.Machine.execWakeNotice c wire s
  | .withdrawalConfirm c wire => Sys2Proof.Machine.execWithdrawalConfirm c wire s
  | .tallyDeferredApply bank => Sys2Proof.Machine.execTallyDeferredApply bank s
  | .contextRestoreDone => Sys2Proof.Machine.execContextRestoreDone s
  | .bell m time => Sys2Proof.Machine.execBell m time s
  | .leaseLapse ctx => Sys2Proof.Machine.execLeaseLapse ctx s
  | .releaseTimeout ctx => Sys2Proof.Machine.execReleaseTimeout ctx s
  | .heartbeatTimeout dev => Sys2Proof.Machine.execHeartbeatTimeout dev s
  | .parentSilence => Sys2Proof.Machine.execParentSilence s
  | .suspectDeclare dev => Sys2Proof.Machine.execSuspectDeclare dev s
  | .waitStall c t => Sys2Proof.Machine.execWaitStall c t s
  | .heartbeat v src restart quiet => Sys2Proof.Machine.execHeartbeat v src restart quiet s
  | .report v gtag reporter suspect bell reason => Sys2Proof.Machine.execReport v gtag reporter suspect bell reason s
  | .notice v suspect kind => Sys2Proof.Machine.execNotice v suspect kind s
  | .probe v src suspect => Sys2Proof.Machine.execProbe v src suspect s
  | .probeReply v dev => Sys2Proof.Machine.execProbeReply v dev s
  | .ballot v src b => Sys2Proof.Machine.execBallot v src b s
  | .decision v d => Sys2Proof.Machine.execDecision v d s
  | .state v src d => Sys2Proof.Machine.execState v src d s
  | .resume v gtag bell mask => Sys2Proof.Machine.execResume v gtag bell mask s
  | .quietReached ctx => Sys2Proof.Machine.execQuietReached ctx s
  | .takeover v dev twin addrs => Sys2Proof.Machine.execTakeover v dev twin addrs s
  | .gratuitousArp => Sys2Proof.Machine.execGratuitousArp s
  | .groupLoss v dev mask => Sys2Proof.Machine.execGroupLoss v dev mask s
  | .sesOpen port sub src m => Sys2Proof.Machine.execSesOpen port sub src m s
  | .reduceWrite qpn psn fr h records => Sys2Proof.Machine.execReduceWrite qpn psn fr h records s
  | .sig qpn psn fr h seen => Sys2Proof.Machine.execSig qpn psn fr h seen s
  | .holdSigApply qpn => Sys2Proof.Machine.execHoldSigApply qpn s
  | .rdmaWriteInbound qpn psn fr va key data => Sys2Proof.Machine.execRdmaWriteInbound qpn psn fr va key data s
  | .rdmaReadInbound qpn psn fr va key len => Sys2Proof.Machine.execRdmaReadInbound qpn psn fr va key len s
  | .fetchAndAdd qpn psn fr va key add => Sys2Proof.Machine.execFetchAndAdd qpn psn fr va key add s
  | .compareAndSwap qpn psn fr va key cmp swap => Sys2Proof.Machine.execCompareAndSwap qpn psn fr va key cmp swap s
  | .writeWithImmediate qpn psn fr va key data imm => Sys2Proof.Machine.execWriteWithImmediate qpn psn fr va key data imm s
  | .sendInbound qpn psn fr data => Sys2Proof.Machine.execSendInbound qpn psn fr data s
  | .rnrNak qpn psn timer => Sys2Proof.Machine.execRnrNak qpn psn timer s
  | .ackTimeout qpn => Sys2Proof.Machine.execAckTimeout qpn s
  | .rnrTimer qpn => Sys2Proof.Machine.execRnrTimer qpn s
  | .cnp qpn => Sys2Proof.Machine.execCnp qpn s
  | .alphaDecay qpn => Sys2Proof.Machine.execAlphaDecay qpn s
  | .rateRecovery qpn => Sys2Proof.Machine.execRateRecovery qpn s
  | .pfcFrame port sub prio xoff => Sys2Proof.Machine.execPfcFrame port sub prio xoff s
  | .pfcStorm port sub prio => Sys2Proof.Machine.execPfcStorm port sub prio s
  | .arpRequest port sub target => Sys2Proof.Machine.execArpRequest port sub target s
  | .neighborSolicitation port sub target => Sys2Proof.Machine.execNeighborSolicitation port sub target s
  | .echoRequest port sub target echo => Sys2Proof.Machine.execEchoRequest port sub target echo s
  | .macResolutionTimeout qpn => Sys2Proof.Machine.execMacResolutionTimeout qpn s
  | .contextFetchDone qpn => Sys2Proof.Machine.execContextFetchDone qpn s
  | .linkDown port sub => Sys2Proof.Machine.execLinkDown port sub s
  | .linkUp port sub => Sys2Proof.Machine.execLinkUp port sub s
  | .ptpSync port offset => Sys2Proof.Machine.execPtpSync port offset s
  | .syncTimeout => Sys2Proof.Machine.execSyncTimeout s
  | .ppsEdge delta => Sys2Proof.Machine.execPpsEdge delta s
  | .registerWrite sess off v => Sys2Proof.Machine.execRegisterWrite sess off v s
  | .sesRenew sess v => Sys2Proof.Machine.execSesRenew sess v s
  | .applyRcp sess => Sys2Proof.Machine.execApplyRcp sess s
  | .applyThr sess => Sys2Proof.Machine.execApplyThr sess s
  | .applyRung sess => Sys2Proof.Machine.execApplyRung sess s
  | .ledgerRegionAllocate ctx gib => Sys2Proof.Machine.execLedgerRegionAllocate ctx gib s
  | .renew sess seq => Sys2Proof.Machine.execRenew sess seq s
  | .closeDetach sess seq => Sys2Proof.Machine.execCloseDetach sess seq s
  | .closeRelease sess seq => Sys2Proof.Machine.execCloseRelease sess seq s
  | .launch sess seq => Sys2Proof.Machine.execLaunch sess seq s
  | .switch sess seq ctx bell => Sys2Proof.Machine.execSwitch sess seq ctx bell s
  | .submit sess seq descs => Sys2Proof.Machine.execSubmit sess seq descs s
  | .semAdd sess seq addr amount => Sys2Proof.Machine.execSemAdd sess seq addr amount s
  | .qpCreate sess seq bytes => Sys2Proof.Machine.execQpCreate sess seq bytes s
  | .qpModify sess seq qpn bytes => Sys2Proof.Machine.execQpModify sess seq qpn bytes s
  | .qpQuery sess seq qpn => Sys2Proof.Machine.execQpQuery sess seq qpn s
  | .qpDestroy sess seq qpn => Sys2Proof.Machine.execQpDestroy sess seq qpn s
  | .portAddr sess seq port sub ipv4 ipv6 => Sys2Proof.Machine.execPortAddr sess seq port sub ipv4 ipv6 s
  | .bellSet sess seq epoch period => Sys2Proof.Machine.execBellSet sess seq epoch period s
  | .fwStage sess seq addr len => Sys2Proof.Machine.execFwStage sess seq addr len s
  | .stagingDone flashOk => Sys2Proof.Machine.execStagingDone flashOk s
  | .fwActivate sess seq => Sys2Proof.Machine.execFwActivate sess seq s
  | .fwRestart sess seq core => Sys2Proof.Machine.execFwRestart sess seq core s
  | .fwCatalogue sess seq addr len => Sys2Proof.Machine.execFwCatalogue sess seq addr len s
  | .attest sess seq addr key nonce => Sys2Proof.Machine.execAttest sess seq addr key nonce s
  | .identity sess seq addr key => Sys2Proof.Machine.execIdentity sess seq addr key s
  | .cfgUpdate sess seq data flashOk => Sys2Proof.Machine.execCfgUpdate sess seq data flashOk s
  | .dbgChallenge sess seq => Sys2Proof.Machine.execDbgChallenge sess seq s
  | .dbgUnlock sess seq token => Sys2Proof.Machine.execDbgUnlock sess seq token s
  | .dbgRead sess seq dev host blocks => Sys2Proof.Machine.execDbgRead sess seq dev host blocks s
  | .dbgWrite sess seq dev blocks data => Sys2Proof.Machine.execDbgWrite sess seq dev blocks data s
  | .hlthDump sess seq addr key => Sys2Proof.Machine.execHlthDump sess seq addr key s
  | .eventFlush ctx => Sys2Proof.Machine.execEventFlush ctx s
  | .logCopy => Sys2Proof.Machine.execLogCopy s
  | .watchdogExpiry core => Sys2Proof.Machine.execWatchdogExpiry core s
  | .coreRunning core => Sys2Proof.Machine.execCoreRunning core s
  | .restartTimeout core => Sys2Proof.Machine.execRestartTimeout core s
  | .activationLapse => Sys2Proof.Machine.execActivationLapse s
  | .confirmation => Sys2Proof.Machine.execConfirmation s
  | .inputTurnOn absent10s straps => Sys2Proof.Machine.execInputTurnOn absent10s straps s
  | .undervoltage => Sys2Proof.Machine.execUndervoltage s
  | .overvoltage => Sys2Proof.Machine.execOvervoltage s
  | .pwrAlert => Sys2Proof.Machine.execPwrAlert s
  | .alertEnd => Sys2Proof.Machine.execAlertEnd s
  | .sensorRead t => Sys2Proof.Machine.execSensorRead t s
  | .tripClear domain => Sys2Proof.Machine.execTripClear domain s
  | .resetN straps => Sys2Proof.Machine.execResetN straps s
  | .sidebandReset straps => Sys2Proof.Machine.execSidebandReset straps s
  | .setdasa static dynamic => Sys2Proof.Machine.execSetdasa static dynamic s
  | .entdaa dynamic => Sys2Proof.Machine.execEntdaa dynamic s
  | .sidebandWrite index v => Sys2Proof.Machine.execSidebandWrite index v s
  | .powerGoodTimeout => Sys2Proof.Machine.execPowerGoodTimeout s
  | .boot => Sys2Proof.Machine.execBoot s
  | .hbmTrainDone ok => Sys2Proof.Machine.execHbmTrainDone ok s
  | .linkUpTimeout => Sys2Proof.Machine.execLinkUpTimeout s
  | .grandmasterTimeout => Sys2Proof.Machine.execGrandmasterTimeout s
  | .healthDailyUpdate ce24 eye => Sys2Proof.Machine.execHealthDailyUpdate ce24 eye s
  | .ringOscillatorMeasure drift0 drift1 => Sys2Proof.Machine.execRingOscillatorMeasure drift0 drift1 s
  | .patrolScrub ue => Sys2Proof.Machine.execPatrolScrub ue s
  | .croftFault c => Sys2Proof.Machine.execCroftFault c s
  | .remapSelfTestDone c ok => Sys2Proof.Machine.execRemapSelfTestDone c ok s
  | .uncorrectableError place addr repaired => Sys2Proof.Machine.execUncorrectableError place addr repaired s
  | .frontHandover pos => Sys2Proof.Machine.execFrontHandover pos s
  | .stationTileDone stack => Sys2Proof.Machine.execStationTileDone stack s
  | .mirrorAck id => Sys2Proof.Machine.execMirrorAck id s
  | .twinLedgerAck ctx step => Sys2Proof.Machine.execTwinLedgerAck ctx step s
  | .numericsCheck ctx step => Sys2Proof.Machine.execNumericsCheck ctx step s
  | .gatherEntryComplete ctx entry => Sys2Proof.Machine.execGatherEntryComplete ctx entry s
  | .remoteAccessError qpn psn syndrome => Sys2Proof.Machine.execRemoteAccessError qpn psn syndrome s
  | .semaphoreChangeApplied id => Sys2Proof.Machine.execSemaphoreChangeApplied id s
  | .upcmtRecorded id => Sys2Proof.Machine.execUpcmtRecorded id s
  | .upskipRecorded id => Sys2Proof.Machine.execUpskipRecorded id s
  | .vectorComplete id => Sys2Proof.Machine.execVectorComplete id s
  | .rotationComplete id => Sys2Proof.Machine.execRotationComplete id s
  | .cometComplete id => Sys2Proof.Machine.execCometComplete id s
  | .stateTransferDone copies => Sys2Proof.Machine.execStateTransferDone copies s
  | .announce port domain m => Sys2Proof.Machine.execAnnounce port domain m s
  | .delayReq port peer => Sys2Proof.Machine.execDelayReq port peer s

end Sys2Proof.Machine
end

