-- ==== Sys2Proof/Safety.lean ====
section
/-! DEFINITION. The terms the statements use: what keeps the machine's data in form, and when a session's mailbox takes a
command. -/

namespace Sys2Proof.Machine

/-- Main memory, and every croft store in a save area, is in its canonical form. -/
def State.memOk (s : State) : Prop := Memory.wf s.mem = true ∧ ∀ e ∈ s.saved, Memory.wf e.2.store = true

/-- FP1 has taken a command of a session: the lease is renewed and GO is noted (R464, R468). -/
def State.taken (s : State) (sess seq : Nat) : State :=
  (s.renew sess).modCtx sess (fun x => { x with ses := { x.ses with lastGo := seq % 65536 } })

/-- The mailbox of a session takes a command that core `k` executes: the session is OPEN, no command of it executes, neither FP1
nor the core restarts, and the module is not fenced. -/
def State.takes (s : State) (sess k : Nat) : Prop :=
  (s.ctx sess).ses.state = .opened ∧ (s.ctx sess).ses.busy = false ∧ s.group.fenced = false ∧ s.up 1 = true ∧ s.up k = true

/-- A mailbox command's session, SEQ, the core that executes it, and whether it is for C0 sessions only (R465, R472, R493, R509,
R536). -/
def mailboxOf : Instr → Option (CtxId × Nat × Nat × Bool)
  | .renew c q => some (c, q, 1, false)
  | .closeDetach c q => some (c, q, 1, false)
  | .closeRelease c q => some (c, q, 1, false)
  | .launch c q => some (c, q, 3, false)
  | .switch c q _ _ => some (c, q, 1, true)
  | .submit c q _ => some (c, q, 3, false)
  | .semAdd c q _ _ => some (c, q, 1, false)
  | .qpCreate c q _ => some (c, q, 2, false)
  | .qpModify c q _ _ => some (c, q, 2, false)
  | .qpQuery c q _ => some (c, q, 1, false)
  | .qpDestroy c q _ => some (c, q, 2, false)
  | .portAddr c q _ _ _ _ => some (c, q, 2, true)
  | .bellSet c q _ _ => some (c, q, 1, true)
  | .fwStage c q _ _ => some (c, q, 6, true)
  | .fwActivate c q => some (c, q, 6, true)
  | .fwRestart c q _ => some (c, q, 1, true)
  | .fwCatalogue c q _ _ => some (c, q, 6, true)
  | .attest c q _ _ _ => some (c, q, 1, false)
  | .identity c q _ _ => some (c, q, 1, false)
  | .cfgUpdate c q _ _ => some (c, q, 1, true)
  | .dbgChallenge c q => some (c, q, 1, true)
  | .dbgUnlock c q _ => some (c, q, 1, true)
  | .dbgRead c q _ _ _ => some (c, q, 1, true)
  | .dbgWrite c q _ _ _ => some (c, q, 1, true)
  | .hlthDump c q _ _ => some (c, q, 6, false)
  | _ => none

/-- A frame that the port lets through, that no congestion marks, and that carries an operation of the row `i` (R423, R427, R430, R439): at
most 9,216 bytes, no IP fragment, option or extension header, not marked CE, and a BTH opcode of the row (log entry 128). -/
def Frame.ordinary (fr : Frame) (i : Instr) : Prop :=
  fr.len ≤ 9216 ∧ fr.plain = true ∧ fr.ce = false ∧ takesOpcode i fr.opcode = true

end Sys2Proof.Machine
end

