-- ==== Sys2Proof/Certificates/Slice0/Obligations.lean ====
section
/-! DEFINITION. The statements for the provers. Each formalises rules of spec/ that its docstring and its entry of
OBLIGATIONS.json name; where one rests on a choice of the model, it says so. -/

open Sys2Proof Sys2Proof.Machine

/-- A step is the meaning of the command at the front of the queue on the rest; on an empty queue the ports send (log entry 3). -/
def Obligations.StepRunsTheFrontCommand : Prop :=
  (∀ (c : Instr) (rest : List Instr) (s : State), s.pending = c :: rest → step s = exec c { s with pending := rest }) ∧
  (∀ s : State, s.pending = [] → ∃ n o, s.portTick = { s with net := n, out := o } ∧ step s = .next s.portTick)

/-- Every command has an effect, and the queue only loses its front (log entry 4). -/
def Obligations.NoCommandStops : Prop :=
  (∀ (c : Instr) (s : State), ∃ t, exec c s = .next t) ∧
  (∀ (c : Instr) (rest : List Instr) (s t : State), s.pending = c :: rest → step s = .next t → t.pending = rest)

/-- NOP (R145), HALT (R152, R215; the PC behind it is log entry 39), and R143 and R206–R208: where the branches go, and what a target outside
HBM does (RET's is log entry 23). -/
def Obligations.ControlGoesWhereItShould : Prop :=
  (∀ (c : CroftId) (st : Strm) (w : Word) (s : State), s.ready c st 8 {} = true →
    exec (.nop c st w) s = .next (s.modStrm c st (fun y => { y with pc := y.pc + 8 }))) ∧
  (∀ (c : CroftId) (st : Strm) (w : Word) (s : State), s.ready c st 8 {} = true → s.allDone c st = true →
    exec (.halt c st w) s = .next (s.modStrm c st (fun y => { y with run := .idle, pc := y.pc + 8 }))) ∧
  (∀ (c : CroftId) (st : Strm) (w : Word) (s : State), s.allDone c st = false → exec (.halt c st w) s = .next s) ∧
  (∀ (c : CroftId) (st : Strm) (w : Word) (s : State) (target : Nat),
    target = ptrPlus (s.strm c st).pc (signed 24 (bits w 23 0)) 8 → inAnyHbm target = true → target % 8 = 0 →
    (s.ready c st 8 {} = true →
      exec (.jmp c st w) s = .next (s.modStrm c st (fun y => { y with pc := BitVec.ofNat 48 target }))) ∧
    (s.ready c st 8 { writes := pRes 15 } = true →
      exec (.call c st w) s =
        .next (s.modStrm c st (fun y => { y.setP 15 (y.pc + 8) with pc := BitVec.ofNat 48 target }))) ∧
    (s.ready c st 8 { reads := sRes (fSrc1 w) ++ sRes (fSrc2 w) } = true →
      let a := (s.strm c st).sreg (fSrc1 w)
      let b := (s.strm c st).sreg (fSrc2 w)
      let cond := bits w 50 48
      let holds : Prop := if cond = 0 then a = b else if cond = 1 then a ≠ b else if cond = 2 then a.slt b
        else if cond = 3 then ¬ a.slt b else if cond = 4 then a < b else ¬ a < b
      (holds → exec (.br c st w) s = .next (s.modStrm c st (fun y => { y with pc := BitVec.ofNat 48 target }))) ∧
      (¬ holds → exec (.br c st w) s = .next (s.modStrm c st (fun y => { y with pc := y.pc + 8 })))) ∧
    (s.ready c st 8 { reads := sRes (fDst w), writes := sRes (fDst w) } = true →
      let v := (s.strm c st).sreg (fDst w)
      (v = 0 → exec (.loop c st w) s = .next (s.modStrm c st (fun y => { y with pc := y.pc + 8 }))) ∧
      (v = 1 → exec (.loop c st w) s = .next (s.modStrm c st (fun y => { y.setS (fDst w) 0 with pc := y.pc + 8 }))) ∧
      (v ≠ 0 → v ≠ 1 → exec (.loop c st w) s =
        .next (s.modStrm c st (fun y => { y.setS (fDst w) (v - 1) with pc := BitVec.ofNat 48 target }))))) ∧
  (∀ (c : CroftId) (st : Strm) (w : Word) (s : State), s.ready c st 8 { reads := pRes 15 } = true →
    inAnyHbm ((s.strm c st).preg 15).toNat = true → ((s.strm c st).preg 15).toNat % 8 = 0 →
    exec (.ret c st w) s = .next (s.modStrm c st (fun y => { y with pc := y.preg 15 }))) ∧
  (∀ (c : CroftId) (st : Strm) (w : Word) (s : State),
    inAnyHbm (ptrPlus (s.strm c st).pc (signed 24 (bits w 23 0)) 8) = false →
    (s.ready c st 8 {} = true → exec (.jmp c st w) s = .next (s.faultAt c st 0x11)) ∧
    (s.ready c st 8 { writes := pRes 15 } = true → exec (.call c st w) s = .next (s.faultAt c st 0x11)) ∧
    (s.ready c st 8 { reads := sRes (fSrc1 w) ++ sRes (fSrc2 w) } = true →
      let a := (s.strm c st).sreg (fSrc1 w)
      let b := (s.strm c st).sreg (fSrc2 w)
      let cond := bits w 50 48
      (if cond = 0 then a = b else if cond = 1 then a ≠ b else if cond = 2 then a.slt b
        else if cond = 3 then ¬ a.slt b else if cond = 4 then a < b else ¬ a < b) →
      exec (.br c st w) s = .next (s.faultAt c st 0x11)) ∧
    (s.ready c st 8 { reads := sRes (fDst w), writes := sRes (fDst w) } = true →
      (s.strm c st).sreg (fDst w) ≠ 0 → (s.strm c st).sreg (fDst w) ≠ 1 →
      exec (.loop c st w) s = .next (s.faultAt c st 0x11))) ∧
  (∀ (c : CroftId) (st : Strm) (w : Word) (s : State), s.ready c st 8 { reads := pRes 15 } = true →
    inAnyHbm ((s.strm c st).preg 15).toNat = false ∨ ((s.strm c st).preg 15).toNat % 8 ≠ 0 →
    exec (.ret c st w) s = .next (s.faultAt c st 0x11))

/-- R209, R210, R211: the scalar results. `setS` discards a write to S0 (R133). -/
def Obligations.ScalarResults : Prop :=
  (∀ (c : CroftId) (st : Strm) (w : Word) (s : State),
    s.ready c st 8 { reads := sRes (fDst w), writes := sRes (fDst w) } = true →
    let part := bits w 49 48
    let old := (s.strm c st).sreg (fDst w)
    ∃ v : Word, exec (.sli c st w) s = .next (s.modStrm c st (fun y => { y.setS (fDst w) v with pc := y.pc + 8 })) ∧
      (part = 0 → v = (BitVec.ofNat 24 (bits w 23 0)).signExtend 64) ∧
      (part = 1 → bits v 47 24 = bits w 23 0 ∧ bits v 23 0 = bits old 23 0 ∧ bits v 63 48 = bits old 63 48) ∧
      (2 ≤ part → bits v 63 48 = bits w 15 0 ∧ bits v 47 0 = bits old 47 0)) ∧
  (∀ (c : CroftId) (st : Strm) (w : Word) (s : State),
    s.ready c st 8 { reads := sRes (fSrc1 w) ++ sRes (fSrc2 w), writes := sRes (fDst w) } = true →
    let op := bits w 55 48
    let a := (s.strm c st).sreg (fSrc1 w)
    let b := (s.strm c st).sreg (fSrc2 w) + (BitVec.ofNat 24 (bits w 23 0)).signExtend 64
    let v : Word := if op = 0 then a + b else if op = 1 then a - b else if op = 2 then a * b else if op = 3 then a &&& b
      else if op = 4 then a ||| b else if op = 5 then a ^^^ b else if op = 6 then a <<< (b % 64)
      else if op = 7 then a >>> (b % 64) else if op = 8 then a.sshiftRight' (b % 64)
      else if op = 9 then (if b.slt a then b else a) else if op = 10 then (if b.slt a then a else b)
      else if op = 11 then (if b < a then b else a) else (if b < a then a else b)
    exec (.salu c st w) s = .next (s.modStrm c st (fun y => { y.setS (fDst w) v with pc := y.pc + 8 }))) ∧
  (∀ (c : CroftId) (st : Strm) (w : Word) (s : State),
    s.ready c st 8 { reads := if bit w 48 then pRes (fSrc1 w) else sRes (fSrc1 w), writes := pRes (fDst w) } = true →
    let base : Ptr := if bit w 48 then (s.strm c st).preg (fSrc1 w) else ((s.strm c st).sreg (fSrc1 w)).setWidth 48
    let v : Ptr := base + (BitVec.ofNat 24 (bits w 23 0)).signExtend 48 * 64
    exec (.pset c st w) s = .next (s.modStrm c st (fun y => { y.setP (fDst w) v with pc := y.pc + 8 })))

/-- R158, R212, R213, R246; R153, R154, R156 for what a completion leaves. -/
def Obligations.ReadsOfState : Prop :=
  (∀ (c : CroftId) (st : Strm) (w : Word) (s : State), s.ready c st 8 { writes := sRes (fDst w) } = true →
    s.allDone c st = true →
    exec (.rdstat c st w) s = .next (s.modStrm c st (fun y =>
      { y.setS (fDst w) y.status with pc := y.pc + 8, status := if bit w 48 then y.status &&& 0x80 else y.status }))) ∧
  (∀ (c : CroftId) (st : Strm) (w : Word) (s : State), s.ready c st 8 { writes := sRes (fDst w) } = true →
    let sel := bits w 55 48
    let v : Nat := if sel = 0 then s.bellNow else if sel = 1 then (s.strm c st).step
      else if sel = 2 then (s.entry c st).attempt else if sel = 3 then c.val else if sel = 4 then s.resident
      else if sel = 5 then st.num else if sel = 6 then s.devid else 1750 - 50 * s.pwr.clk
    (sel ≠ 1 ∧ sel ≠ 2 ∨ s.entryOpen c st = true →
      exec (.rdctx c st w) s =
        .next (s.modStrm c st (fun y => { y.setS (fDst w) (BitVec.ofNat 64 v) with pc := y.pc + 8 }))) ∧
    (sel = 1 ∨ sel = 2 → s.entryOpen c st = false → exec (.rdctx c st w) s = .next s)) ∧
  (∀ (c : CroftId) (st : Strm) (w : Word) (s : State), s.ready c st 8 { reads := sRes (fSrc1 w) } = true →
    let n := ((s.strm c st).sreg (fSrc1 w)).toNat
    (n ≤ s.bellNow → exec (.bellw c st w) s =
      .next ((s.modStrm c st (fun y => { y with pc := y.pc + 8 })).modCtx s.resident
        (fun x => x.overrun st (1 + (s.bellNow - n))))) ∧
    (s.bellNow < n → exec (.bellw c st w) s =
      .next (s.modStrm c st (fun y => { y with run := .waiting, waiting := .bell n })))) ∧
  (∀ (s : State) (f : Flight) (code : Nat),
    let y := s.strmOf f.ctx f.croft f.strm
    let done : State → Prop := fun t => t.flights = s.flights.filter (fun g => g.id != f.id) ∧
      t.strmOf f.ctx f.croft f.strm = { y with status := noteStatus y.status f.pc code }
    done (s.complete f code) ∧
    (f.doneAdd = 0 ∨ code ∉ [0x00, 0x20, 0x30, 0x31] → (s.complete f code).tally = s.tally ∧ (s.complete f code).ctxs = s.ctxs) ∧
    (f.doneAdd ≠ 0 → code ∈ [0x00, 0x20, 0x30, 0x31] → ∃ u : State, done u ∧ u.tally = s.tally ∧ u.ctxs = s.ctxs ∧
      u.mem = s.mem ∧ u.qps = s.qps ∧ s.complete f code = u.signal f.ctx f.doneSem f.doneAdd)) ∧
  (∀ (v : Word) (pc : Ptr) (code : Nat), code ∈ [0x10, 0x11, 0x20, 0x30, 0x31, 0x40, 0x50] →
    let k := if code = 0x20 then 6 else if code = 0x30 ∨ code = 0x31 then 5 else if code = 0x40 then 4 else 7
    let r := noteStatus v pc code
    noteStatus v pc 0 = v ∧ (∀ i, i < 8 → bit r i = (bit v i || decide (i = k))) ∧
    (code = 0x20 ∨ bits v 15 8 ≠ 0 → bits r 63 8 = bits v 63 8) ∧
    (code ≠ 0x20 → bits v 63 8 = 0 → bits r 15 8 = code ∧ bits r 63 16 = pc.toNat))

/-- R137, R144, R145, R155. -/
def Obligations.ReservedOpcodeAndCodeWindows : Prop :=
  (∀ (c : CroftId) (st : Strm) (w : BitVec 128),
    let v : Word := w.setWidth 64
    let short : List Instr := [.nop c st v, .jmp c st v, .br c st v, .loop c st v, .call c st v, .ret c st v, .sli c st v,
      .salu c st v, .pset c st v, .bellw c st v, .rdstat c st v, .rdctx c st v, .halt c st v, .cvt c st v, .cvtt c st v,
      .rot c st v, .stat c st v, .vadd c st v, .vsub c st v, .vmul c st v, .vfma c st v, .vmax c st v, .vmin c st v, .vun c st v,
      .vred c st v, .vbcast c st v, .vscl c st v, .vcmpsel c st v, .vmov c st v, .ld c st v, .st c st v, .ldt c st v, .stt c st v,
      .gather c st v, .prefetch c st v, .wait c st v, .sadd c st v, .ssub c st v, .sread c st v]
    let long : List Instr := [.mma c st w, .mmat c st w, .drain c st w, .accld c st w, .accst c st w, .comet c st w,
      .put c st w, .get c st w, .redw c st w, .nsig c st w, .vote c st w, .upel c st w, .uplw c st w, .upskip c st w,
      .upcmt c st w]
    (∀ i, i ∈ short ++ long ++ [.reservedOpcode c st v] → (i.wf = true ↔ i = croftCommand c st w)) ∧
    (croftCommand c st w ∈ short ∧ isLong (opcodeOf v) = false ∨ croftCommand c st w ∈ long ∧ isLong (opcodeOf v) = true ∨
      croftCommand c st w = .reservedOpcode c st v) ∧
    (croftCommand c st w = .reservedOpcode c st v ↔ opcodeOf v ∉ assignedOpcodes)) ∧
  (∀ (c : CroftId) (st : Strm) (w : Word) (s : State), s.ready c st 8 {} = true →
    exec (.reservedOpcode c st w) s = .next
      ((s.modStrm c st (fun y => { y with
          status := noteStatus y.status y.pc 0x10, run := .halted, waiting := .none
          haltedIn := (s.ctx s.resident).liveAttempts })).event s.resident 0x0001
        [(c.val, 16), (st.num, 8), ((s.strm c st).pc.toNat, 48), (0x10, 8)])) ∧
  (∀ (c : CroftId) (st : Strm) (window : Nat) (s : State), ∃ ws,
    exec (.instructionWindowArrival c st window) s = .next (s.modStrm c st (fun y => { y with windows := ws })) ∧
    (∀ v ∈ ws, (v = (s.strm c st).pc.toNat / 4096 ∨ v = (s.strm c st).pc.toNat / 4096 + 1) ∧
      (v = window ∨ v ∈ (s.strm c st).windows)) ∧
    (window = (s.strm c st).pc.toNat / 4096 ∨ window = (s.strm c st).pc.toNat / 4096 + 1 → window ∈ ws))

/-- The frame of the control class. -/
def Obligations.ControlLeavesTheRest : Prop :=
  ∀ (c : CroftId) (st : Strm) (w : Word) (s t : State) (i : Instr),
    i ∈ [.nop c st w, .jmp c st w, .br c st w, .loop c st w, .call c st w, .ret c st w, .sli c st w, .salu c st w,
      .pset c st w, .bellw c st w, .rdstat c st w, .rdctx c st w, .halt c st w, .reservedOpcode c st w] →
    exec i s = .next t →
    (∃ k x q cache eg, t = { s with crofts := k, ctxs := x, qps := q, net := { s.net with cache := cache, egress := eg } }) ∧
    (∀ d, d ≠ s.resident → t.ctx d = s.ctx d) ∧
    (∃ ses f b u, t.ctx s.resident = { s.ctx s.resident with ses := ses, ovrF := f, ovrB := b, ovrU := u }) ∧
    (∀ n, n ≠ (s.ctx s.resident).ses.modQpn → t.qp n = s.qp n) ∧
    ((s.ctx s.resident).ses.state ≠ .opened → t.qps = s.qps ∧ t.net = s.net) ∧
    (t.croft c).operands = (s.croft c).operands ∧
    (∀ l, l ≠ c.val → t.croft l = s.croft l) ∧
    (∀ u, u ≠ st → t.strm c u = s.strm c u) ∧
    (t.croft c).tiles = (s.croft c).tiles ∧ (t.croft c).arrays = (s.croft c).arrays ∧
    (t.croft c).stats = (s.croft c).stats ∧ (t.croft c).wires = (s.croft c).wires ∧
    (∀ n, (n % 32 ≠ fDst w % 32 ∨ ¬ (i = .sli c st w ∨ i = .salu c st w ∨ i = .rdstat c st w ∨ i = .rdctx c st w ∨
        i = .loop c st w)) → (t.strm c st).sreg n = (s.strm c st).sreg n) ∧
    (∀ n, ¬ (i = .pset c st w ∧ n % 16 = fDst w % 16) → ¬ (i = .call c st w ∧ n % 16 = 15) →
      (t.strm c st).preg n = (s.strm c st).preg n)

/-- R171–R175: the issue of MMA and MMAT. -/
def Obligations.MatrixMultiplyIssues : Prop :=
  ∀ (c : CroftId) (st : Strm) (w : BitVec 128) (s : State),
    let x := s.croft c
    let n := bits w 37 32
    s.ready c st 16 (mmaNeed x w) = true →
    (bit w 38 = false →
      exec (.mma c st w) s =
        .next ((s.setCroft c (x.loadOperands (mmaTiles w))).issue c st 16 (mmaNeed x w) (mmaOp false x w)
          (bits w 127 104) (bits w 103 96) none false)) ∧
    (bit w 38 = false → mmaBad true w = false →
      exec (.mmat c st w) s =
        .next ((s.setCroft c (x.loadOperands (mmaTiles w))).issue c st 16 (mmaNeed x w) (mmaOp true x w)
          (bits w 127 104) (bits w 103 96) none false)) ∧
    (x.operands.length ≤ 32 → (x.loadOperands (mmaTiles w)).operands.length ≤ 32) ∧
    (∃ ts, x.loadOperands (mmaTiles w) = { x with operands := ts } ∧ ∀ t ∈ ts, t ∈ x.operands ∨ t = bits w 30 24 ∨
      t ∈ (if bit w 41 then List.range' (min (bits w 22 16) 120) 8 else [bits w 22 16])) ∧
    (bit w 38 = true → exec (.mma c st w) s = .next (s.faultAt c st 0x10)) ∧
    (bit w 38 = true ∨ mmaBad true w = true → exec (.mmat c st w) s = .next (s.faultAt c st 0x10)) ∧
    (∀ tr, ∃ fa ta ts fb tb, mmaOp tr x w = .mma (x.tile (bits w 30 24)) fa (min 2 (bits w 51 50)) ta ts fb
        (min 2 (bits w 45 44)) tb (bit w 40) (clampTo 1 64 (bits w 6 0)) ∧
      ts.map (fun p => (p.1, p.2.1)) = (if bit w 41 then List.range' (n / 8 * 8) 8 else [n]).map
        (fun a => (a, (x.array a).active)) ∧
      ts.map (fun p => p.2.2) = (if bit w 41 then List.range' (min (bits w 22 16) 120) 8 else [bits w 22 16]).map x.tile ∧
      fa = min 9 (bits w 55 52) ∧ fb ≤ 9 ∧ pairOk fa fb = true ∧
      (∀ g ≤ 9, pairOk fa g = true → let far := fun k : Nat => ((k : Int) - (bits w 49 46 : Int)).natAbs
        far fb < far g ∨ far fb = far g ∧ fb ≤ g) ∧
      (pairOk fa (bits w 49 46) = true → fb = bits w 49 46) ∧
      (ta = (tr && bit w 42)) ∧ (tb = (tr && bit w 43)))

/-- R112–R117, R173: the landing of an MMA. -/
def Obligations.MatrixMultiplyLands : Prop :=
  ∀ (id : Nat) (f : Flight) (s : State) (a : List Byte) (fa ba : Nat) (ta : Bool)
    (targets : List (Nat × Nat × List Byte)) (fb bb : Nat) (tb init : Bool) (chunk : Nat),
    s.flight? id = some f → f.op = .mma a fa ba ta targets fb bb tb init chunk → (targets.map (·.1)).Nodup →
    let x := s.croftOf f.ctx f.croft
    let out := fun p : Nat × Nat × List Byte =>
      (x.array p.1).mma (tileOp fa ba ta a) (tileOp fb bb tb p.2.2) (blockLen fa ba fb bb) init chunk
    ∃ y : Croft,
      exec (.mmaBlockLanding id) s =
        .next ((s.setCroftOf f.ctx f.croft y).complete f (if targets.any (fun p => (out p).2) then 0x20 else 0)) ∧
      (∀ p ∈ targets, y.array p.1 = (out p).1) ∧
      (∀ n, n ∉ targets.map (·.1) → y.array n = x.array n) ∧
      y.tiles = x.tiles ∧ y.operands = x.operands ∧ y.stats = x.stats ∧ y.wires = x.wires ∧ y.f = x.f ∧ y.b = x.b ∧ y.u = x.u

/-- R110 (and R116 for the elements that are not finite). -/
def Obligations.BlockSumsAreExact : Prop :=
  (∀ xs ys : List Int, xs.length = ys.length →
    blockSum (xs.map some) (ys.map some) = some ((xs.zip ys).map (fun p => p.1 * p.2)).sum) ∧
  (∀ (fa fb : Nat) (as bs : List Nat) (v : Int), fa ≤ 7 → fb ≤ 7 → pairOk fa fb = true → as.length ≤ 32 →
    as.length = bs.length → (∀ a ∈ as, a < 2 ^ fmtBits fa) → (∀ b ∈ bs, b < 2 ^ fmtBits fb) →
    blockSum (as.map (elemInt fa)) (bs.map (elemInt fb)) = some v → -2 ^ 63 < v ∧ v < 2 ^ 63) ∧
  (∀ xs ys : List (Option Int), xs.length = ys.length → (none ∈ xs ∨ none ∈ ys) → blockSum xs ys = none)

/-- R112, R113, R115. -/
def Obligations.PromotionAtChunk : Prop :=
  ∀ (x : ArrayState) (chunk : Nat) (vs : List Val), vs.length = 1024 → (∀ v ∈ vs, v.isFinite = true) →
    let st := x.set x.active
    let y := (x.block chunk (addBlock x.chunk vs)).1
    let new := fun k => chunkAdd (cellAt x.chunk k) (vs.getD k Val.zero)
    y.active = x.active ∧ (y.active ≤ 1 → y.set (1 - y.active) = x.set (1 - x.active)) ∧
    (st.count + 1 < chunk →
      (y.set y.active).totals = st.totals ∧ (y.set y.active).count = st.count + 1 ∧
      (∀ k < 1024, cellAt y.chunk k = (new k).1) ∧
      (y.set y.active).ovf = (st.ovf || (List.range 1024).any (fun k => (new k).2))) ∧
    (chunk ≤ st.count + 1 → x.comet = [] →
      (∀ k < 1024, cellAt (y.set y.active).totals k = (totalAdd (cellAt st.totals k) (ofFp32 (new k).1)).1) ∧
      (y.set y.active).count = 0 ∧ (∀ k, cellAt y.chunk k = 0) ∧
      (y.set y.active).ovf = (st.ovf || (List.range 1024).any (fun k =>
        (new k).2 || (totalAdd (cellAt st.totals k) (ofFp32 (new k).1)).2)))

/-- R178–R182. OPERAND_FAULT before ADDRESS_FAULT is log entry 24, COMET's format clamps log entry 28. -/
def Obligations.AccumulatorMovesAndCometProducts : Prop :=
  (∀ (c : CroftId) (st : Strm) (w : BitVec 128) (s : State),
    let n := bits w 37 32
    let a := ptrPlus ((s.strm c st).preg (bits w 15 8)) (signed 32 (bits w 95 64)) 64
    let i := ((s.croft c).array n).named (bit w 38)
    let need : Need := { reads := pRes (bits w 15 8) ++ [memRes a 5120], writes := [.set n i], units := [.accPort n, .dataMove] }
    s.ready c st 16 need = true → s.setBusy c n i = false →
    (a % 64 = 0 ∧ inHbmOrOwn c a 5120 = true → exec (.accld c st w) s =
      .next (s.issue c st 16 need (.accLoad n i a) (bits w 127 104) (bits w 103 96) none false)) ∧
    (a % 64 ≠ 0 ∨ inHbmOrOwn c a 5120 = false → exec (.accld c st w) s = .next (s.faultAt c st 0x11))) ∧
  (∀ (c : CroftId) (st : Strm) (w : BitVec 128) (s : State),
    let x := s.croft c
    let n := bits w 29 24
    let a := ptrPlus ((s.strm c st).preg (bits w 15 8)) (signed 32 (bits w 95 64)) 64
    let i := (x.array n).named (bit w 30)
    let need : Need := { reads := pRes (bits w 15 8) ++ [.set n i], writes := [.set n i, memRes a 5120],
                         units := [.accPort n, .dataMove] }
    s.ready c st 16 need = true → s.setBusy c n i = false →
    (a % 64 = 0 ∧ inHbmOrOwn c a 5120 = true → exec (.accst c st w) s =
      .next (s.issue c st 16 need (.accStore n i a) (bits w 127 104) (bits w 103 96) none false)) ∧
    (a % 64 ≠ 0 ∨ inHbmOrOwn c a 5120 = false → exec (.accst c st w) s = .next (s.faultAt c st 0x11))) ∧
  (∀ (c : CroftId) (st : Strm) (w : BitVec 128) (s : State),
    let x := s.croft c
    let p := (s.strm c st).preg (bits w 15 8)
    let la := ptrPlus p (signed 16 (bits w 79 64)) 64
    let lb := ptrPlus p (signed 16 (bits w 95 80)) 64
    let n := bits w 37 32
    let i := (x.array n).active
    let ta := bits w 30 24
    let tb := bits w 22 16
    let need : Need :=
      { reads := pRes (bits w 15 8) ++ [.tile ta, .tile tb, .set n i] ++ (if bit w 40 then [memRes la 256] else []) ++
          (if bit w 41 then [memRes lb 256] else [])
        writes := [.set n i], units := [.cometUnit] }
    let fa := clampFmtA (bits w 55 52)
    let fb := clampFmtB fa (bits w 49 46)
    let turn := fun (tr : Bool) (vs : List Val) => if tr then transpose Val.zero vs else vs
    let list := fun (on tr : Bool) (l : Nat) => if on then sideEntries tr (Memory.readBytes s.mem l 256) else []
    let badSide := bit w 40 = true ∧ sideOk c la 1 = false ∨ bit w 41 = true ∧ sideOk c lb 1 = false
    s.ready c st 16 need = true → s.setBusy c n i = false →
    (bit w 38 = false → ¬ badSide → exec (.comet c st w) s =
      .next (s.issue c st 16 need
        (.comet n i (cometPairs i (turn (bit w 42) (x.tileValues fa (tagBlk (bits w 55 50)) ta))
          (turn (bit w 43) (x.tileValues fb (tagBlk (bits w 49 44)) tb))
          (list (bit w 40) (bit w 42) la) (list (bit w 41) (bit w 43) lb)))
        (bits w 127 104) (bits w 103 96) none false)) ∧
    (bit w 38 = true → exec (.comet c st w) s = .next (s.faultAt c st 0x10)) ∧
    (bit w 38 = false → badSide → exec (.comet c st w) s = .next (s.faultAt c st 0x11))) ∧
  (∀ (id : Nat) (f : Flight) (s : State) (n i : Nat) (pairs : List CometPair),
    s.flight? id = some f → f.op = .comet n i pairs →
    let x := s.croftOf f.ctx f.croft
    let r := (x.array n).queueComet pairs
    let first : Prop := ∀ g ∈ s.flights.takeWhile (fun g => g.id != id), g.ctx = f.ctx → g.croft = f.croft →
      ∀ j ps, g.op ≠ .comet n j ps
    (first → exec (.cometComplete id) s =
      .next ((s.setCroftOf f.ctx f.croft (x.putArray n r.1)).complete f (if r.2 then 0x20 else 0))) ∧
    (¬ first → exec (.cometComplete id) s = .next s) ∧
    ((x.array n).comet.length + pairs.length ≤ 6 → r = ({ x.array n with comet := (x.array n).comet ++ pairs }, false)))

/-- R124, R125, R176, R177, R183–R186. The order of the two faults is log entry 24. -/
def Obligations.ConversionsIssue : Prop :=
  (∀ (c : CroftId) (st : Strm) (w : Word) (s : State) (j : ConvJob) (i : Instr),
    (i = .cvt c st w ∧ j = cvtJob c st w s ∨ i = .cvtt c st w ∧ j = cvttJob c st w s) →
    s.entryOpen c st = true → s.ready c st 8 j.need = true → j.wait = false →
    (j.operandOk = true → j.addressOk = true →
      exec i s = .next (s.issue c st 8 j.need (.convert j.plan j.vals) 0 0 none false)) ∧
    (j.operandOk = false → exec i s = .next (s.faultAt c st 0x10)) ∧
    (j.operandOk = true → j.addressOk = false → exec i s = .next (s.faultAt c st 0x11))) ∧
  (∀ (c : CroftId) (st : Strm) (w : BitVec 128) (s : State),
    let j := drainJob c st w s
    let x := s.croft c
    s.entryOpen c st = true → s.ready c st 16 j.need = true → j.wait = false →
    (j.operandOk = true → j.addressOk = true → ∃ y : Croft,
      exec (.drain c st w) s = .next ((s.setCroft c y).issue c st 16 j.need (.convert j.plan j.vals)
        (bits w 127 104) (bits w 103 96) none false) ∧
      (∀ a ∈ drainIds c st w s, y.array a = { ((x.array a).settle).1 with active := 1 - (x.array a).active }) ∧
      (∀ a, a ∉ drainIds c st w s → y.array a = x.array a) ∧
      y.tiles = x.tiles ∧ y.operands = x.operands ∧ y.stats = x.stats ∧ y.wires = x.wires ∧
      y.f = x.f ∧ y.b = x.b ∧ y.u = x.u) ∧
    (j.operandOk = false → exec (.drain c st w) s = .next (s.faultAt c st 0x10)) ∧
    (j.operandOk = true → j.addressOk = false → exec (.drain c st w) s = .next (s.faultAt c st 0x11))) ∧
  (∀ (c : CroftId) (st : Strm) (w : BitVec 128) (s : State),
    let loc := locator (s.strm c st) (bits w 20 16 / 2 * 2)
    let n := stripTiles (s.convRecipe c st loc) (bits w 6 5)
    let ids := (List.range n).map (min (bits w 29 24) (64 - n) + ·)
    let x := s.croft c
    let j := drainJob c st w s
    drainIds c st w s = ids ∧ j.plan.tid = loc.tid ∧ j.plan.dst = min (bits w 38 32) (128 - n) ∧
    j.plan.tiles = n ∧ j.plan.sta = loc.sta ∧
    (∀ a, j.plan.sideAddr = some a → a = ptrPlus ((s.strm c st).preg (bits w 15 8)) (signed 32 (bits w 95 64)) 64) ∧
    j.vals = ids.map (fun a =>
      let y := ((x.array a).settle).1
      (allCells (y.set y.active).totals).map (fun k => ofA40 (toA40 (Val.scale (signed 5 (bits w 4 0)) (ofA40 k))).1))) ∧
  (∀ (c : CroftId) (st : Strm) (w : Word) (s : State),
    let loc := locator (s.strm c st) (bits w 55 51 / 2 * 2)
    let n := stripTiles (s.convRecipe c st loc) (bits w 49 48)
    let src := firstOf 128 n (bits w 38 32)
    (cvtJob c st w s).plan.tid = loc.tid ∧ (cvttJob c st w s).plan.tid = loc.tid ∧
    (cvtJob c st w s).plan.dst = min (bits w 46 40) (128 - n) ∧ (cvttJob c st w s).plan.dst = min (bits w 46 40) (128 - n) ∧
    (bit w 50 = false → (cvtJob c st w s).vals = (List.range n).map (fun t =>
      tileVals (if loc.stag / 4 % 16 ≤ 8 then 8 else 9) 0 ((s.croft c).tile (src + t)))) ∧
    (bit w 50 = true → (cvtJob c st w s).vals = (List.range n).map (fun t =>
      let a := (s.croft c).array (firstOf 64 n (bits w 37 32) + t)
      (a.set (a.named (bit w 38))).values)) ∧
    (cvttJob c st w s).vals = (List.range n).map (fun t =>
      cvttSource (min 7 (loc.stag / 4 % 16)) (min 2 (loc.stag % 4)) ((s.croft c).tile (src + t))
        (if loc.noside then none
         else some (Memory.readBytes s.mem (ptrPlus ((s.strm c st).preg (bits w 31 24)) (signed 24 (bits w 23 0)) 64 + 256 * t) 256))))

/-- R100–R102, R126, R183, R188, R189. -/
def Obligations.ConversionsAndStatisticsLand : Prop :=
  (∀ (id : Nat) (f : Flight) (s : State) (p : ConvPlan) (src : List (List Val)),
    s.flight? id = some f → f.op = .convert p src →
    let r := convertStrip p src
    let x := s.croftOf f.ctx f.croft
    let y := (x.putTiles p.dst (r.1.map (·.record))).putStat p.sta ((x.stat p.sta).add r.2)
    let s1 := s.setCroftOf f.ctx f.croft y
    let earlier : List FlightOp := ((s.flights.takeWhile (fun g => g.id != id)).filter
      (fun g => g.ctx == f.ctx && g.croft == f.croft)).map (·.op)
    let first : Prop := (∀ q vs, FlightOp.convert q vs ∉ earlier) ∧
      (p.rotate ≠ 0 → ∀ v k m a b ss, FlightOp.rotate v k m a b ss ∉ earlier)
    (¬ first → exec (.conversionComplete id) s = .next s) ∧
    (first → p.sideAddr = none → exec (.conversionComplete id) s = .next (s1.complete f (if p.flag then 0x20 else 0))) ∧
    (first → ∀ a, p.sideAddr = some a → ∃ m, exec (.conversionComplete id) s =
        .next ({ s1 with mem := m }.complete f (if p.flag then 0x20 else 0)) ∧
      ((∀ o ∈ r.1, o.side.length = 256) →
        (∀ b, b < a ∨ a + 256 * r.1.length ≤ b → Memory.read m b = Memory.read s.mem b) ∧
        (∀ t < r.1.length, Memory.readBytes m (a + 256 * t) 256 = (r.1.map (·.side)).getD t [])))) ∧
  (∀ (c : CroftId) (st : Strm) (w : Word) (s : State),
    let need : Need := { reads := [.stat (bits w 50 48)], writes := [.stat (bits w 50 48)], units := [.statPath] }
    (s.ready c st 8 need = true → s.entryOpen c st = true →
      (∀ f ∈ s.ownFlights c st, ∀ p src, f.op = .convert p src → ∃ a i, Res.set a i ∈ f.writes) →
      exec (.stat c st w) s = .next (s.issue c st 8 need
        (.stat (bits w 50 48) (bits w 15 0) (s.strm c st).step (s.entry c st).attempt) 0 0 none false)) ∧
    ((∃ f ∈ s.ownFlights c st, ∃ p src, f.op = .convert p src ∧ ∀ a i, Res.set a i ∉ f.writes) →
      exec (.stat c st w) s = .next s)) ∧
  (∀ (id : Nat) (f : Flight) (s : State) (sta seq n att : Nat),
    s.flight? id = some f → f.op = .stat sta seq n att →
    let x := s.croftOf f.ctx f.croft
    let k := s.ctx f.ctx
    let ring := if f.croft < 144 then k.rings.1 else k.rings.2
    let r := statRecord (x.stat sta) n f.croft seq att
    (ring.length < 131072 → (∀ e ∈ ring, e.1 < 131072) → ∃ slot < 131072, Table.has ring slot = false ∧ (ring = [] → slot = 0) ∧
      (∀ e, ring.getLast? = some e → ∀ i < (slot + 131072 - (e.1 + 1)) % 131072, Table.has ring ((e.1 + 1 + i) % 131072) = true) ∧
      exec (.statRingWrite id) s = .next
        ((((s.setCtx f.ctx
          ({ k with rings := if f.croft < 144 then (k.rings.1 ++ [(slot, r)], k.rings.2)
              else (k.rings.1, k.rings.2 ++ [(slot, r)]) }.modStep n
            (fun h => if h.attempt % 4 = att then { h with records := h.records ++ [r] } else h))).setCroftOf f.ctx f.croft
          (x.putStat sta {})).unpoke (0x040011000000 + (2 * f.ctx + f.croft / 144) * 0x800000 + 64 * slot) 64).complete f 0)) ∧
    (131072 ≤ ring.length → exec (.statRingWrite id) s = .next s))

/-- R191 and the elementwise operations. -/
def Obligations.VectorArithmetic : Prop :=
  ∀ (c : CroftId) (st : Strm) (w : Word) (s : State) (op : Fin 6),
    let x := s.croft c
    let fmt := if bit w 48 then 11 else if bits w 55 52 ≤ 8 then 8 else 9
    let a := vecReg x (bit w 48) (bits w 39 32)
    let b := vecReg x (bit w 48) (bits w 31 24)
    let d := vecReg x (bit w 48) (bits w 47 40)
    let srcs := if op = 3 then [a, b, d] else [a, b]
    let i : Instr := match op with
      | 0 => .vadd c st w | 1 => .vsub c st w | 2 => .vmul c st w | 3 => .vfma c st w | 4 => .vmax c st w | 5 => .vmin c st w
    let fn : VecFn := match op with | 0 => .add | 1 => .sub | 2 => .mul | 3 => .fma | 4 => .max | 5 => .min
    s.ready c st 8 (vecNeed srcs d []) = true → s.vecBusy c (d :: srcs) = false →
    ((d :: srcs).all x.vecClean = true → exec i s = .next (s.issue c st 8 (vecNeed srcs d []) (.vector fn fmt srcs d) 0 0 none false)) ∧
    ((d :: srcs).all x.vecClean = false → exec i s = .next (s.faultAt c st 0x10)) ∧
    (∀ y : Croft, y.vecResults fn fmt srcs = (List.range 1024).map (fun k =>
      let el := fun (r : VecReg) => decode fmt ((y.vecCodes fmt r).getD k 0)
      vecCode fmt (match op with
        | 0 => Val.add (el a) (el b)
        | 1 => Val.add (el a) (Val.neg (el b))
        | 2 => Val.mul (el a) (el b)
        | 3 => Val.add (Val.mul (el a) (el b)) (el d)
        | 4 => maxVal (el a) (el b)
        | 5 => minVal (el a) (el b))))

/-- R193–R196 and VSCL, VBCAST. -/
def Obligations.VectorOthers : Prop :=
  (∀ (c : CroftId) (st : Strm) (w : Word) (s : State) (op : Fin 4),
    let x := s.croft c
    let fmt := if bit w 48 then 11 else if bits w 55 52 ≤ 8 then 8 else 9
    let a := vecReg x (bit w 48) (bits w 39 32)
    let d := vecReg x (bit w 48) (bits w 47 40)
    let extra := if op = 0 then sRes (bits w 31 24) else []
    let i : Instr := match op with | 0 => .vscl c st w | 1 => .vun c st w | 2 => .vred c st w | 3 => .vbcast c st w
    let col := bit w 49
    let k40 : A40 := BitVec.ofNat 40 (bits ((s.strm c st).sreg (bits w 31 24)) 39 0)
    let un := if bit w 48 then min 1 (bits w 4 0) else min 14 (bits w 4 0)
    let fn : VecFn := match op with | 0 => .scale k40 | 1 => .un un | 2 => .red (min 2 (bits w 1 0)) col | 3 => .bcast col
    (s.ready c st 8 (vecNeed [a] d extra) = true → s.vecBusy c [d, a] = false → [d, a].all x.vecClean = true →
      exec i s = .next (s.issue c st 8 (vecNeed [a] d extra) (.vector fn fmt [a] d) 0 0 none false)) ∧
    (∀ y : Croft,
      let code := fun (k : Nat) => (y.vecCodes fmt a).getD k 0
      let el := fun (k : Nat) => decode fmt (code k)
      let line := fun j : Nat => (List.range 32).map (fun m => el (if col then 32 * m + j else 32 * j + m))
      y.vecResults fn fmt [a] = (List.range 1024).map (fun k => match op with
        | 0 => vecCode fmt (Val.mul (el k) (decode 11 k40.toNat))
        | 1 => vunResult fmt un (el k)
        | 2 => if (if col then k / 32 else k % 32) = 0 then
            vecCode fmt (reduceVals (min 2 (bits w 1 0)) (line (if col then k % 32 else k / 32))) else (0, false, false)
        | 3 => vecCopy fmt (code (if col then k % 32 else k / 32 * 32))))) ∧
  (∀ (c : CroftId) (st : Strm) (w : Word) (s : State),
    let x := s.croft c
    let acc := bit w 48
    let fmt := if acc then 11 else if bits w 55 52 ≤ 8 then 8 else 9
    let a := vecReg x acc (bits w 39 32)
    let b := vecReg x acc (bits w 31 24)
    let p := vecReg x acc (bits w 6 0)
    let q := vecReg x acc (bits w 14 8)
    let d := vecReg x acc (bits w 47 40)
    let cmp := min 6 (bits w 18 16)
    (s.ready c st 8 (vecNeed [a, b, p, q] d []) = true → s.vecBusy c [d, a, b, p, q] = false →
      [d, a, b, p, q].all x.vecClean = true →
      exec (.vcmpsel c st w) s =
        .next (s.issue c st 8 (vecNeed [a, b, p, q] d []) (.vector (.select cmp) fmt [a, b, p, q] d) 0 0 none false)) ∧
    (∀ y : Croft,
      let code := fun (r : VecReg) (k : Nat) => (y.vecCodes fmt r).getD k 0
      y.vecResults (.select cmp) fmt [a, b, p, q] = (List.range 1024).map (fun k => vecCopy fmt
        (if cmpHolds cmp (decode fmt (code a k)) (decode fmt (code b k)) then code p k else code q k)))) ∧
  (∀ (c : CroftId) (st : Strm) (w : Word) (s : State),
    let a := bits w 38 32
    let d := bits w 46 40
    let need : Need := { reads := [.tile a], writes := [.tile d], units := [.vector] }
    bits w 49 48 = 0 → s.ready c st 8 need = true →
    exec (.vmov c st w) s = .next (s.issue c st 8 need (.vector .bytes 8 [.tile a] (.tile d)) 0 0 none false)) ∧
  (∀ (c : CroftId) (st : Strm) (w : Word) (s : State),
    let x := s.croft c
    let d := vecReg x true (bits w 47 40)
    let fmt := if bits w 55 52 ≤ 8 then 8 else 9
    let t := VecReg.tile (bits w 38 32)
    let a := vecReg x true (bits w 39 32)
    (bits w 49 48 = 1 → s.ready c st 8 (vecNeed [t] d []) = true → s.vecBusy c [d, t] = false →
      [d, t].all x.vecClean = true → exec (.vmov c st w) s =
        .next (s.issue c st 8 (vecNeed [t] d []) (.vector (.widen fmt) 11 [t] d) 0 0 none false)) ∧
    (2 ≤ bits w 49 48 → s.ready c st 8 (vecNeed [a] d []) = true → s.vecBusy c [d, a] = false →
      [d, a].all x.vecClean = true → exec (.vmov c st w) s =
        .next (s.issue c st 8 (vecNeed [a] d []) (.vector .copy 11 [a] d) 0 0 none false)) ∧
    (∀ y : Croft,
      y.vecResults (.widen fmt) 11 [t] = (y.vecCodes fmt t).map (fun e => vecCode 11 (decode fmt e)) ∧
      y.vecResults .copy 11 [a] = (y.vecCodes 11 a).map (vecCopy 11)))

/-- R187, R188, R191, R196, R128, R151. -/
def Obligations.RotationAndResultsLand : Prop :=
  (∀ (c : CroftId) (st : Strm) (w : Word) (s : State),
    let size := clampTo 1 4 (bits w 54 52)
    let n := 2 ^ (size - 1)
    let src := firstOf 128 n (bits w 38 32)
    let dst := firstOf 128 n (bits w 46 40)
    let need : Need := { reads := sRes (bits w 31 24) ++ tileRes src n, writes := tileRes dst n, units := [.rotation] }
    let fmt := if bit w 51 then 9 else 8
    let y := s.strm c st
    s.ready c st 8 need = true → s.entryOpen c st = true →
    exec (.rot c st w) s = .next (s.issue c st 8 need (.rotate (bit w 55) (size + 4) fmt src dst
      (rotSigns (s.ctx s.resident).seed y.step (bits (y.sreg (bits w 31 24)) 23 0) (32 * n))) 0 0 none false)) ∧
  (∀ (id : Nat) (f : Flight) (s : State) (inverse : Bool) (size fmt src dst : Nat) (signs : List Bool),
    s.flight? id = some f → f.op = .rotate inverse (size + 4) fmt src dst signs → 1 ≤ size →
    let x := s.croftOf f.ctx f.croft
    let out := rotStrip inverse (size + 4) signs ((List.range (2 ^ (size - 1))).map (fun t => tileVals fmt 0 (x.tile (src + t))))
    let first : Prop := ∀ g ∈ s.flights.takeWhile (fun g => g.id != id), g.ctx = f.ctx → g.croft = f.croft →
      (∀ v k m a b ss, g.op ≠ .rotate v k m a b ss) ∧ (∀ q vs, g.op = .convert q vs → q.rotate = 0)
    (first → exec (.rotationComplete id) s = .next ((s.setCroftOf f.ctx f.croft (x.putTiles dst (out.map (tile16 fmt)))).complete f
      (if out.any (fun v => v.any Val.isNan) then 0x20 else 0))) ∧
    (¬ first → exec (.rotationComplete id) s = .next s)) ∧
  (∀ (id : Nat) (f : Flight) (s : State) (fn : VecFn) (fmt : Nat) (srcs : List VecReg),
    s.flight? id = some f →
    let x := s.croftOf f.ctx f.croft
    let rs := x.vecResults fn fmt srcs
    let code := if rs.any (fun r => r.2.1 || r.2.2) then 0x20 else 0
    (∀ n, f.op = .vector fn fmt srcs (.tile n) → fn ≠ .bytes → exec (.vectorComplete id) s =
      .next ((s.setCroftOf f.ctx f.croft (x.putTile n (packRecord fmt (rs.map (·.1)) []))).complete f code)) ∧
    (∀ n a, f.op = .vector .bytes fmt [.tile a] (.tile n) → exec (.vectorComplete id) s =
      .next ((s.setCroftOf f.ctx f.croft (x.putTile n (x.tile a))).complete f 0)) ∧
    (∀ a i, f.op = .vector fn fmt srcs (.set a i) → fn ≠ .bytes →
      let st := (x.array a).set i
      let ovf := match fn, srcs with | .copy, .set b j :: _ => ((x.array b).set j).ovf | _, _ => st.ovf
      exec (.vectorComplete id) s = .next ((s.setCroftOf f.ctx f.croft (x.putArray a ((x.array a).putSet i
        { totals := trimCells (rs.map (fun r => BitVec.ofNat 40 r.1)), ovf := rs.any (·.2.2) || ovf
          count := match fn with | .widen _ => 0 | _ => st.count }))).complete f code)))

/-- R197, R201–R204, R413, R414: the issue of the data moves. GATHER's format clamp is log entry 114, its unwrapped record addresses log entry 116
and its table base log entry 132. -/
def Obligations.MovesIssue : Prop :=
  (∀ (c : CroftId) (st : Strm) (w : Word) (s : State),
    let y := s.strm c st
    let blocks := clampTo 1 49152 (bits (y.sreg (bits w 31 24)) 15 0)
    let a := ptrPlus (y.preg (bits w 39 32)) (signed 24 (bits w 23 0)) 64
    let d := ptrPlus (y.preg (bits w 47 40)) (signed 24 (bits w 23 0)) 64
    let n : Need := { reads := sRes (bits w 31 24) ++ pRes (bits w 39 32) ++ pRes (bits w 47 40) ++ [memRes a (64 * blocks)]
                      writes := [memRes d (64 * blocks)], units := [.dataMove] }
    s.ready c st 8 n = true →
    (∀ p, s.loadSource c a (64 * blocks) = some p → loadDest c d (64 * blocks) = true →
      exec (.ld c st w) s = .next (s.issueMove c st n (.copy p (.dev d) blocks) p (64 * blocks) false (farRead p (64 * blocks))) ∧
      exec (.prefetch c st w) s =
        .next (s.issueMove c st { n with reads := [memRes a (64 * blocks)] } (.prefetch p d blocks 0) p (64 * blocks) true
          (farRead p (64 * blocks)))) ∧
    (s.loadSource c a (64 * blocks) = none ∨ loadDest c d (64 * blocks) = false →
      exec (.ld c st w) s = .next (s.faultAt c st 0x11) ∧ exec (.prefetch c st w) s = .next (s.faultAt c st 0x11)) ∧
    (∀ p, s.storeDest c d (64 * blocks) = some p → storeSource c a (64 * blocks) = true →
      exec (.st c st w) s = .next (s.issueMove c st n (.copy (.dev a) p blocks) p (64 * blocks) false
        (farWrite p a (64 * blocks)))) ∧
    (s.storeDest c d (64 * blocks) = none ∨ storeSource c a (64 * blocks) = false →
      exec (.st c st w) s = .next (s.faultAt c st 0x11))) ∧
  (∀ (c : CroftId) (st : Strm) (w : Word) (s : State),
    let y := s.strm c st
    let len := recordBytes (min 9 (bits w 55 52))
    let a := ptrPlus (y.preg (bits w 39 32)) (signed 24 (bits w 23 0)) 64
    let d := ptrPlus (y.preg (bits w 47 40)) (signed 24 (bits w 23 0)) 64
    let nl : Need := { reads := pRes (bits w 39 32) ++ [memRes a len], writes := [.tile (bits w 46 40)], units := [.dataMove] }
    let ns : Need := { reads := pRes (bits w 47 40) ++ [.tile (bits w 38 32)], writes := [memRes d len], units := [.dataMove] }
    (s.ready c st 8 nl = true →
      (∀ p, s.loadSource c a len = some p → exec (.ldt c st w) s =
        .next (s.issueMove c st nl (.loadTile p (bits w 46 40) len) p len false (farRead p len))) ∧
      (s.loadSource c a len = none → exec (.ldt c st w) s = .next (s.faultAt c st 0x11))) ∧
    (s.ready c st 8 ns = true →
      (∀ p, s.storeDest c d len = some p → exec (.stt c st w) s =
        .next (s.issueMove c st ns (.storeTile (bits w 38 32) len p) p len false
          (farWriteData p (((s.croft c).tile (bits w 38 32)).take len)))) ∧
      (s.storeDest c d len = none → exec (.stt c st w) s = .next (s.faultAt c st 0x11)))) ∧
  (∀ (c : CroftId) (st : Strm) (w : Word) (s : State),
    let y := s.strm c st
    let size := recordBytes (min 9 (bits w 55 52))
    let at' := fun r => ptrPlus (y.preg r) (signed 24 (bits w 23 0)) 64
    let list := at' (bits w 31 24)
    let table := at' (bits w 39 32)
    let d := at' (bits w 47 40)
    let count := clampTo 1 4096 (leNat (Memory.readBytes s.mem list 4))
    let ms := (List.range count).map (fun q =>
      (table + leNat (Memory.readBytes s.mem (list + 4 + 4 * q) 4) * size, d + q * size))
    let n : Need :=
      { reads := pRes (bits w 39 32) ++ pRes (bits w 31 24) ++ pRes (bits w 47 40) ++ [memRes list (4 + 4 * count)] ++
          ms.map (fun m => memRes m.1 size)
        writes := [memRes d (count * size)], units := [.dataMove] }
    s.ready c st 8 n = true →
    (list % 64 = 0 → inHbmOrOwn c list (4 + 4 * count) = true → table % 64 = 0 → loadDest c d (count * size) = true →
      ((∀ m ∈ ms, s.loadSource c m.1 size = some (.dev m.1)) → exec (.gather c st w) s =
        .next (s.issue c st 8 n (.gather (ms.map (fun m => (.dev m.1, m.2))) size) 0 0 none false)) ∧
      ((∃ m ∈ ms, s.loadSource c m.1 size = none) → exec (.gather c st w) s = .next (s.faultAt c st 0x11))) ∧
    (list % 64 ≠ 0 ∨ inHbmOrOwn c list (4 + 4 * count) = false ∨ table % 64 ≠ 0 ∨ loadDest c d (count * size) = false →
      exec (.gather c st w) s = .next (s.faultAt c st 0x11))) ∧
  (∀ (s : State) (c : CroftId) (st : Strm) (n : Need) (op : FlightOp) (a len : Nat) (posted : Bool) (out : Nat → Output),
    s.issueMove c st n op (.dev a) len posted out = s.issue c st 8 n op 0 0 none posted) ∧
  (∀ (s : State) (c : CroftId) (st : Strm) (n : Need) (op : FlightOp) (q a w len : Nat) (posted : Bool) (out : Nat → Output),
    let t := s.issue c st 8 n op 0 0 (some q) posted
    ((s.qp q).state = 3 → s.issueMove c st n op (.far q a w) len posted out =
      t.post q (.flight s.nextId) ((s.qp q).packets len) true out) ∧
    ((s.qp q).state ≠ 3 → (s.qp q).state ≠ 4 → s.issueMove c st n op (.far q a w) len posted out = t) ∧
    ((s.qp q).state = 4 → s.flight? s.nextId = none → ∃ f, f.id = s.nextId ∧ f.op = op ∧ f.ctx = s.resident ∧ f.croft = c.val ∧
      s.issueMove c st n op (.far q a w) len posted out = t.failFlight f (if (s.qp q).lost then 0x31 else 0x30))) ∧
  (∀ (s : State) (c : CroftId) (a len : Nat), a % 64 = 0 → 2 ^ 47 ≤ a →
    let n := (a - 2 ^ 47) / 2 ^ 43
    let o := (a - 2 ^ 47) % 2 ^ 43
    let x := s.ctx s.resident
    let q := bits (x.reg (0x300 + 8 * n)) 19 0
    let ok : Prop := bit (x.reg (0x300 + 8 * n)) 31 = true ∧ x.feat 1 = true ∧
      o + len ≤ clampTo 1 8192 (bits (x.reg (0x304 + 8 * n)) 13 0) * 2 ^ 30 ∧ (s.qp q).used = true ∧ (s.qp q).ctx = s.resident ∧
      o + len ≤ (s.qp q).rwinLen
    (ok → s.loadSource c a len = some (.far q ((s.qp q).rwinBase + o) n) ∧
      s.storeDest c a len = some (.far q ((s.qp q).rwinBase + o) n)) ∧
    (¬ ok → s.loadSource c a len = none ∧ s.storeDest c a len = none)) ∧
  (∀ (s : State) (c : CroftId) (a len : Nat),
    (a % 64 ≠ 0 → s.loadSource c a len = none ∧ s.storeDest c a len = none) ∧
    (a % 64 = 0 → inHbm a len = true ∨ inStoreOf c a len = true →
      s.loadSource c a len = some (.dev a) ∧ s.storeDest c a len = some (.dev a)) ∧
    (a % 64 = 0 → inSomeStore a len = true → s.loadSource c a len = some (.dev a)))

/-- R178, R199–R204: what the moves write, byte by byte. Overlapping ranges are log entry 10, GATHER's order log entry 115. -/
def Obligations.MovesLandByteForByte : Prop :=
  (∀ (id : Nat) (f : Flight) (s : State) (ce : Bool) (a d blocks : Nat),
    s.flight? id = some f → f.op = .copy (.dev a) (.dev d) blocks → f.far = none →
    let r := s.heard (.flight id) ce
    (overlap a d (64 * blocks) = false → ∃ m,
      exec (.dataMoveComplete id ⟨[], ce⟩) s = .next (({ r with mem := m }.acked (.flight id)).complete f 0) ∧
      (∀ i < 64 * blocks, Memory.read m (d + i) = Memory.read s.mem (a + i)) ∧
      (∀ b, b < d ∨ d + 64 * blocks ≤ b → Memory.read m b = Memory.read s.mem b)) ∧
    (overlap a d (64 * blocks) = true → ∃ m,
      exec (.dataMoveComplete id ⟨[], ce⟩) s =
        .next (({ r with mem := m, fresh := r.fresh + 64 * blocks }.acked (.flight id)).complete f 0) ∧
      (∀ b, b < d ∨ d + 64 * blocks ≤ b → Memory.read m b = Memory.read s.mem b))) ∧
  (∀ (id : Nat) (f : Flight) (s : State) (ce : Bool) (a tile len : Nat),
    s.flight? id = some f → f.op = .loadTile (.dev a) tile len → f.far = none → len ≤ 2048 →
    let x := s.croftOf f.ctx f.croft
    ∃ m, exec (.dataMoveComplete id ⟨[], ce⟩) s =
        .next ((((s.heard (.flight id) ce).setCroftOf f.ctx f.croft
          { x with tiles := m, operands := x.operands.filter (· != tile) }).acked (.flight id)).complete f 0) ∧
      (∀ i < len, Memory.read m (2048 * tile + i) = Memory.read s.mem (a + i)) ∧
      (∀ b, b < 2048 * tile ∨ 2048 * tile + len ≤ b → Memory.read m b = Memory.read x.tiles b)) ∧
  (∀ (id : Nat) (f : Flight) (s : State) (ce : Bool) (d tile len : Nat),
    s.flight? id = some f → f.op = .storeTile tile len (.dev d) → f.far = none → len ≤ 2048 →
    ∃ m, exec (.dataMoveComplete id ⟨[], ce⟩) s =
        .next (({ s.heard (.flight id) ce with mem := m }.acked (.flight id)).complete f 0) ∧
      (∀ i < len, Memory.read m (d + i) = Memory.read (s.croftOf f.ctx f.croft).tiles (2048 * tile + i)) ∧
      (∀ b, b < d ∨ d + len ≤ b → Memory.read m b = Memory.read s.mem b)) ∧
  (∀ (id : Nat) (f : Flight) (s : State) (ce : Bool) (n i a : Nat),
    s.flight? id = some f → f.op = .accStore n i a → f.far = none →
    let x := s.croftOf f.ctx f.croft
    let r := if i = (x.array n).active then (x.array n).settle else (x.array n, false)
    ∃ m, exec (.dataMoveComplete id ⟨[], ce⟩) s =
        .next (({ (s.heard (.flight id) ce).setCroftOf f.ctx f.croft (x.putArray n r.1) with mem := m }.acked (.flight id)).complete f
          (if r.2 || (r.1.set i).ovf then 0x20 else 0)) ∧
      (∀ k < 1024, leNat (Memory.readBytes m (a + 5 * k) 5) = (cellAt (r.1.set i).totals k).toNat) ∧
      (∀ b, b < a ∨ a + 5120 ≤ b → Memory.read m b = Memory.read s.mem b)) ∧
  (∀ (id : Nat) (f : Flight) (s : State) (ce : Bool) (n i a : Nat),
    s.flight? id = some f → f.op = .accLoad n i a → f.far = none → i ≤ 1 →
    let x := s.croftOf f.ctx f.croft
    ∃ y : ArrayState, exec (.dataMoveComplete id ⟨[], ce⟩) s =
        .next ((((s.heard (.flight id) ce).setCroftOf f.ctx f.croft (x.putArray n y)).acked (.flight id)).complete f 0) ∧
      (∀ k < 1024, (cellAt (y.set i).totals k).toNat = leNat (Memory.readBytes s.mem (a + 5 * k) 5)) ∧
      (y.set i).count = 0 ∧ ((y.set i).ovf = true ↔ ∃ k < 1024, isMaxA40 (cellAt (y.set i).totals k) = true) ∧
      y.set (1 - i) = (x.array n).set (1 - i) ∧ y.active = (x.array n).active ∧
      (i = y.active → (∀ k, cellAt y.chunk k = 0) ∧ ∀ p ∈ y.comet, p.set ≠ i)) ∧
  (∀ (id : Nat) (f : Flight) (s : State) (ce : Bool) (size : Nat) (ms : List (Place × Nat)) (data : List Byte),
    s.flight? id = some f → f.op = .gather ms size → (f.far.isSome = true → s.outstanding id = true) →
    data.length = size * (ms.filter (fun m => m.1.isFar)).length → ∃ m,
      exec (.dataMoveComplete id ⟨data, ce⟩) s =
        .next (({ s.heard (.flight id) ce with mem := m }.acked (.flight id)).complete f 0) ∧
      (∀ b, (∀ e ∈ ms, b < e.2 ∨ e.2 + size ≤ b) → Memory.read m b = Memory.read s.mem b) ∧
      ((ms.map (·.2)).Pairwise (fun a b => overlap a b size = false) →
        (∀ e ∈ ms, ∀ g ∈ ms, ∀ a, e.1 = .dev a → overlap a g.2 size = false) →
        (∀ k < ms.length, ∀ a d, ms[k]? = some (.dev a, d) → ∀ i < size, Memory.read m (d + i) = Memory.read s.mem (a + i)) ∧
        (∀ k < ms.length, ∀ q a n d, ms[k]? = some (.far q a n, d) → ∀ i < size,
          Memory.read m (d + i) = data.getD (size * ((ms.take k).filter (fun e => e.1.isFar)).length + i) 0))) ∧
  (∀ (id : Nat) (f : Flight) (s : State) (ce : Bool) (q a n : Nat) (data : List Byte), s.flight? id = some f → f.far.isSome = true →
    let r := s.heard (.flight id) ce
    let x := s.croftOf f.ctx f.croft
    (s.outstanding id = true →
      (∀ d blocks, f.op = .copy (.far q a n) (.dev d) blocks → data.length = 64 * blocks →
        exec (.dataMoveComplete id ⟨data, ce⟩) s =
          .next (({ r with mem := Memory.writeBytes s.mem d data }.acked (.flight id)).complete f 0)) ∧
      (∀ d blocks, f.op = .copy (.dev d) (.far q a n) blocks →
        exec (.dataMoveComplete id ⟨[], ce⟩) s = .next ((r.acked (.flight id)).complete f 0)) ∧
      (∀ tile len, f.op = .loadTile (.far q a n) tile len → data.length = len →
        exec (.dataMoveComplete id ⟨data, ce⟩) s =
          .next (((r.setCroftOf f.ctx f.croft (x.putTile tile data)).acked (.flight id)).complete f 0)) ∧
      (∀ tile len, f.op = .storeTile tile len (.far q a n) →
        exec (.dataMoveComplete id ⟨[], ce⟩) s = .next ((r.acked (.flight id)).complete f 0))) ∧
    (r.outstanding id = false ∨ data.length ≠ f.op.farBytes → exec (.dataMoveComplete id ⟨data, ce⟩) s = .next r)) ∧
  (∀ (id : Nat) (f : Flight) (s : State) (ce : Bool) (a d blocks done : Nat),
    s.flight? id = some f → f.op = .prefetch (.dev a) d blocks done → overlap a d (64 * blocks) = false →
    let r := s.heard (.flight id) ce
    ∃ m, (done + 1 < blocks → exec (.prefetchBlockLanding id ⟨[], ce⟩) s = .next { r with
        mem := m, flights := s.flights.map (fun g =>
          if g.id == f.id then { g with
            op := .prefetch (.dev a) d blocks (done + 1)
            reads := g.reads.map (fun r => match r with | .mem b n => .mem (b + 1) (n - 1) | r => r)
            writes := g.writes.map (fun r => match r with | .mem b n => .mem (b + 1) (n - 1) | r => r) } else g) }) ∧
      (blocks ≤ done + 1 → exec (.prefetchBlockLanding id ⟨[], ce⟩) s =
        .next (({ r with mem := m }.dropFlight f.id).acked (.flight f.id))) ∧
      (∀ i < 64, Memory.read m (d + 64 * done + i) = Memory.read s.mem (a + 64 * done + i)) ∧
      (∀ b, b < d + 64 * done ∨ d + 64 * done + 64 ≤ b → Memory.read m b = Memory.read s.mem b)) ∧
  (∀ (s : State) (o : Owner), s.heard o false = s ∧
    ∃ q e k, s.heard o true = { s with qps := q, net := { s.net with egress := e }, fresh := k }) ∧
  (∀ (id : Nat) (f : Flight) (s : State) (q : Nat), s.flight? id = some f → f.far = some q →
    exec (.farMemoryTimeout id) s =
      .next (((((s.spoilDest f).complete f 0x30).loseStep f.ctx (s.strmOf f.ctx f.croft f.strm).step).abandon (.flight id)).askReport
        (s.peerOf q) whyRetry))

/-- R218, R257, R258, R260. -/
def Obligations.WaitsAndWakes : Prop :=
  (∀ (c : CroftId) (st : Strm) (w : Word) (s : State), s.ready c st 8 { reads := syncReads w } = true →
    let y := s.strm c st
    let a := semAddr (if bit w 48 then bits (y.sreg (bits w 31 24)) 23 0 else bits w 23 0)
    let n : Int := if bit w 49 then bits w 39 32 else signed 32 (bits (y.sreg (bits w 39 32)) 31 0)
    (∀ wire, wire < 16 → wire ∉ (s.croft c).wires → (∀ v < wire, v ∈ (s.croft c).wires) →
      (n ≤ s.semCount s.resident a →
        exec (.wait c st w) s = .next (s.modStrm c st Stream.resume)) ∧
      (s.semCount s.resident a < n → ∃ t, exec (.wait c st w) s = .next t ∧
        t = s.setCroft c { (s.croft c).setStrm st { y with run := .waiting, waiting := .sem a n wire false } with
          wires := wire :: (s.croft c).wires })) ∧
    ((∀ v < 16, v ∈ (s.croft c).wires) → exec (.wait c st w) s = .next s)) ∧
  (∀ (c : CroftId) (st : Strm) (s : State) (a wire : Nat) (n : Int),
    (s.strm c st).waiting = .sem a n wire false → s.switching = false →
    (n ≤ s.semCount s.resident a → ∃ x : Croft,
      exec (.waitRegistration c st) s = .next (s.setCroft c x) ∧
      x.strm st = (s.strm c st).resume ∧ (∀ u, u ≠ st → x.strm u = s.strm c u) ∧
      x.wires = (s.croft c).wires.filter (· != wire) ∧ x.tiles = (s.croft c).tiles ∧ x.arrays = (s.croft c).arrays ∧
      x.stats = (s.croft c).stats) ∧
    (s.semCount s.resident a < n → exec (.waitRegistration c st) s =
      .next { s.setStrm c st { s.strm c st with waiting := .sem a n wire true } with
        tally := { s.tally with watches := s.tally.watches ++ [⟨a, n, c, wire⟩] } })) ∧
  (∀ (c : CroftId) (wire : Nat) (st : Strm) (s : State), ((c : Nat), wire) ∈ s.tally.notices →
    ((c : Nat), wire) ∉ s.tally.withdrawn → (s.croft c).waiter wire = some st → ∃ x : Croft,
      exec (.wakeNotice c wire) s =
        .next ({ s with tally := { s.tally with notices := s.tally.notices.erase ((c : Nat), wire) } }.setCroft c x) ∧
      x.strm st = (s.strm c st).resume ∧ (∀ u, u ≠ st → x.strm u = s.strm c u) ∧
      x.wires = (s.croft c).wires.filter (· != wire) ∧ x.tiles = (s.croft c).tiles ∧ x.arrays = (s.croft c).arrays ∧
      x.stats = (s.croft c).stats) ∧
  (∀ (c : CroftId) (wire : Nat) (s : State), ((c : Nat), wire) ∈ s.tally.withdrawn →
    exec (.withdrawalConfirm c wire) s = .next ({ s with tally := { s.tally with
        withdrawn := s.tally.withdrawn.erase ((c : Nat), wire)
        notices := s.tally.notices.filter (· != ((c : Nat), wire)) } }.setCroft c
      { s.croft c with wires := (s.croft c).wires.filter (· != wire) }))

/-- R216, R217, R219, R267. -/
def Obligations.SemaphoreInstructions : Prop :=
  (∀ (c : CroftId) (st : Strm) (w : Word) (s : State),
    let y := s.strm c st
    let a := semAddr (if bit w 48 then bits (y.sreg (bits w 31 24)) 23 0 else bits w 23 0)
    let n : Int := if bit w 49 then bits w 39 32 else signed 32 (bits (y.sreg (bits w 39 32)) 31 0)
    let need : Need := { reads := syncReads w, units := [.tallyPort] }
    let nr : Need := { reads := if bit w 48 then sRes (bits w 31 24) else [], writes := sRes (bits w 47 40), units := [.tallyPort] }
    (s.ready c st 8 need = true → s.ownFlights c st = [] →
      exec (.sadd c st w) s = .next (s.issue c st 8 need (.semAdd a n) 0 0 none false) ∧
      exec (.ssub c st w) s = .next (s.issue c st 8 need (.semAdd a (-n)) 0 0 none false)) ∧
    (s.ready c st 8 nr = true → (∀ f ∈ s.ownFlights c st, ∀ b k, f.op ≠ .semAdd b k) →
      exec (.sread c st w) s = .next (s.issue c st 8 nr (.semRead a (bits w 44 40)) 0 0 none false))) ∧
  (∀ (id : Nat) (f : Flight) (s : State) (a : Nat) (n : Int), s.flight? id = some f → f.op = .semAdd a n →
    (semDiscarded f.ctx a = true ∨ s.semAccepts a = true ∧ s.semHeld f.ctx a = false →
      exec (.semaphoreChangeApplied id) s = .next ((s.change f.ctx a n none).complete f 0)) ∧
    (semDiscarded f.ctx a = false → s.semAccepts a = false → exec (.semaphoreChangeApplied id) s = .next s) ∧
    (semDiscarded f.ctx a = false → s.semAccepts a = true → s.semHeld f.ctx a = true → semAddr a = a →
      (∀ d ∈ Table.get [] s.tally.deferred (a / 2 ^ 22), d.flight ≠ some id) →
      exec (.semaphoreChangeApplied id) s = .next { s with tally := { s.tally with
        deferred := Table.put s.tally.deferred (a / 2 ^ 22)
          (Table.get [] s.tally.deferred (a / 2 ^ 22) ++ [⟨f.ctx, a, n, some id⟩]) } })) ∧
  (∀ (s : State) (a : Nat), s.semAccepts a = false ↔ semCommon a = false ∧ a / 2 ^ 22 ∈ s.tally.busy ∧
    4096 ≤ (Table.get [] s.tally.deferred (a / 2 ^ 22)).length) ∧
  (∀ (id : Nat) (f : Flight) (s : State) (a r : Nat), s.flight? id = some f → f.op = .semRead a r →
    exec (.semaphoreChangeApplied id) s = .next ((s.setStrmOf f.ctx f.croft f.strm
      ((s.strmOf f.ctx f.croft f.strm).setS r (BitVec.ofInt 64 (s.semCount f.ctx a)))).complete f 0)) ∧
  (∀ (bank : Nat) (s : State), bank ∈ s.tally.busy →
    exec (.tallyDeferredApply bank) s = .next
      ((Table.get [] s.tally.deferred bank ++ s.tally.hubWait.filter (fun d => d.addr / 2 ^ 22 == bank)).foldl
        State.applyDeferred
        { s with tally := { s.tally with
          busy := s.tally.busy.filter (· != bank), deferred := Table.put s.tally.deferred bank []
          hubWait := s.tally.hubWait.filter (fun d => d.addr / 2 ^ 22 != bank) } })) ∧
  (∀ a, semAddr a = (if 2 ≤ a / 2 ^ 22 % 4 then 2 ^ 23 + min (a % 2 ^ 22) 16383
    else a / 2 ^ 22 % 4 * 2 ^ 22 + min (a % 2 ^ 22) 65535))

/-- R216, with R257 for the watches. -/
def Obligations.SemaphoreChangeSaturatesAndWakes : Prop :=
  ∀ (s : State) (c a : Nat) (n : Int), semAddr a = a → semDiscarded c a = false → s.semHeld c a = false →
    s.semAccepts a = true →
    let t := s.change c a n none
    t.semCount c a = max (-2 ^ 31) (min (2 ^ 31 - 1) (s.semCount c a + n)) ∧
    (∀ b, b ≠ a → t.semCount c b = s.semCount c b) ∧
    (∀ d b, d ≠ c → semCommon b = false → t.semCount d b = s.semCount d b) ∧
    (semCommon a = true ∨ c = s.tally.holds →
      (∀ w ∈ t.tally.watches, w.addr = a → t.semCount c a < w.n) ∧
      (∀ w ∈ s.tally.watches, w ∈ t.tally.watches ∨
        (w.addr = a ∧ w.n ≤ t.semCount c a ∧ (w.croft, w.wire) ∈ t.tally.notices)) ∧
      (∀ w ∈ t.tally.watches, w ∈ s.tally.watches)) ∧
    t.mem = s.mem ∧ t.crofts = s.crofts ∧ t.flights = s.flights ∧ t.qps = s.qps

/-- R221, R226–R229, R312, R314, R440; the order of the faults is log entry 24, POS log entry 47, and what R440 refuses log entry 26. -/
def Obligations.NetworkInstructionsSend : Prop :=
  (∀ (c : CroftId) (st : Strm) (w : BitVec 128) (s : State),
    let y := s.strm c st
    let qpn := bits w 83 64
    let q := s.qp qpn
    let a := (y.preg (bits w 31 24)).toNat
    let len := 64 * max 1 (bits (y.sreg (bits w 23 16)) 23 0)
    let off := 64 * bits (y.sreg (bits w 15 8)) 47 0
    let np : Need :=
      { reads := pRes (bits w 31 24) ++ sRes (bits w 23 16) ++ sRes (bits w 15 8) ++
          (if bit w 40 then sRes (bits w 39 32) else []) ++ [memRes a len]
        units := [.rdma] }
    let ng : Need := { reads := pRes (bits w 31 24) ++ sRes (bits w 23 16) ++ sRes (bits w 15 8), writes := [memRes a len],
                       units := [.rdma] }
    (s.ready c st 16 np = true → q.sends s.resident = true → a % 64 = 0 → inHbmOrOwn c a len = true → off + len ≤ q.rwinLen →
      exec (.put c st w) s = .next ((s.issue c st 16 np (.put qpn) (bits w 127 104) (bits w 103 96) none false).post qpn
        (.flight s.nextId) (q.packets len) true (fun p => .rdmaWrite qpn p (q.rwinBase + off) a len
          (if bit w 40 then some ((y.sreg (bits w 39 32)).setWidth 32) else none)))) ∧
    (s.ready c st 16 ng = true → q.sends s.resident = true → a % 64 = 0 → inHbmOrOwn c a len = true → off + len ≤ q.rwinLen →
      exec (.get c st w) s = .next ((s.issue c st 16 ng (.get qpn a len 0) (bits w 127 104) (bits w 103 96) none false).post
        qpn (.flight s.nextId) (q.packets len) true (fun p => .rdmaRead qpn p (q.rwinBase + off) len))) ∧
    (q.sends s.resident = false →
      (s.ready c st 16 np = true → exec (.put c st w) s = .next (s.faultAt c st 0x10)) ∧
      (s.ready c st 16 ng = true → exec (.get c st w) s = .next (s.faultAt c st 0x10))) ∧
    (q.sends s.resident = true → a % 64 ≠ 0 ∨ inHbmOrOwn c a len = false ∨ q.rwinLen < off + len →
      (s.ready c st 16 np = true → exec (.put c st w) s = .next (s.faultAt c st 0x11)) ∧
      (s.ready c st 16 ng = true → exec (.get c st w) s = .next (s.faultAt c st 0x11)))) ∧
  (∀ (c : CroftId) (st : Strm) (w : BitVec 128) (s : State),
    let y := s.strm c st
    let qpn := bits w 83 64
    let q := s.qp qpn
    let a := (y.preg (bits w 31 24)).toNat
    let count := clampTo 1 16384 (bits (y.sreg (bits w 23 16)) 14 0)
    let fmt := clampTo 4 6 (bits w 55 52)
    let per := min 3 ((q.mtu - 24) / 1088)
    let n : Need :=
      { reads := pRes (bits w 31 24) ++ sRes (bits w 23 16) ++ sRes (bits w 15 8) ++ sRes (bits w 39 32) ++
          [memRes a (1088 * count)]
        units := [.rdma] }
    let h : ReduceHdr := { step := y.step, att := (s.entry c st).attempt, fmt := fmt, last := bit w 40
                           pos := bits (y.sreg (bits w 15 8)) 12 0, side := y.sreg (bits w 39 32) }
    let outs := fun p => redwPackets per (if fmt = 5 then 2 else 1) qpn h count p a count
    let goes : Prop := q.sends s.resident = true ∧ q.agbel = true ∧ q.ud = false ∧
      (s.portRole q.port q.sub ≠ 0 ∨ s.selfQp qpn = true) ∧ 1 ≤ per
    s.ready c st 16 n = true → s.entryOpen c st = true →
    (goes → a % 64 = 0 → inHbmOrOwn c a (1088 * count) = true →
      (s.selfQp qpn = false →
        exec (.redw c st w) s = .next ((s.issue c st 16 n (.redw qpn []) (bits w 127 104) (bits w 103 96) none false).postAll qpn
          (.flight s.nextId) ((count + per - 1) / per) true outs)) ∧
      (s.selfQp qpn = true →
        exec (.redw c st w) s = .next ((s.issue c st 16 n (.redw qpn ((outs q.sqPsn).filterMap (fun o => match o with
            | .reduceWrite _ p g src k => some (p, g, (List.range k).map (fun i => Memory.readBytes s.mem (src + 1088 * i) 1088))
            | _ => none))) (bits w 127 104) (bits w 103 96) none false).postAll qpn
          (.flight s.nextId) ((count + per - 1) / per) true (fun _ => [])))) ∧
    (¬ goes → exec (.redw c st w) s = .next (s.faultAt c st 0x10)) ∧
    (goes → a % 64 ≠ 0 ∨ inHbmOrOwn c a (1088 * count) = false →
      exec (.redw c st w) s = .next (s.faultAt c st 0x11))) ∧
  (∀ (c : CroftId) (st : Strm) (w : BitVec 128) (s : State),
    let y := s.strm c st
    let qpn := bits w 83 64
    let q := s.qp qpn
    let n : Need := { reads := sRes (bits w 31 24) ++ (if bit w 40 then sRes (bits w 23 16) else []), units := [.rdma] }
    let amount : BitVec 32 := if bit w 40 then (y.sreg (bits w 23 16)).setWidth 32 else BitVec.ofNat 32 (max 1 (bits w 7 0))
    let goes : Prop := q.sends s.resident = true ∧ q.agbel = true ∧ q.ud = false ∧ s.portRole q.port q.sub ≠ 0
    s.ready c st 16 n = true →
    (goes →
      exec (.nsig c st w) s = .next ((s.issue c st 16 n (.nsig qpn) (bits w 127 104) (bits w 103 96) none false).post qpn
        (.flight s.nextId) 1 false (fun p => .sig qpn p ⟨bits (y.sreg (bits w 31 24)) 23 0, amount, q.lastData⟩))) ∧
    (¬ goes → exec (.nsig c st w) s = .next (s.faultAt c st 0x10)))

/-- R226–R229, R312, R427: the completions. -/
def Obligations.NetworkInstructionsComplete : Prop :=
  (∀ (o : Owner) (s : State), s.heard o false = s ∧
    (∀ e, s.qps.find? (fun e => e.2.work.any (fun w => w.owner == o)) = some e → s.heard o true = s.congested e.1)) ∧
  (∀ (id : Nat) (ce : Bool) (f : Flight) (s : State) (q : Nat) (i : Instr), s.flight? id = some f →
    (i = .putAck ⟨id, ce⟩ ∧ f.op = .put q ∨ i = .redwAck ⟨id, ce⟩ ∧ f.op = .redw q [] ∨ i = .nsigAck ⟨id, ce⟩ ∧ f.op = .nsig q) →
    exec i s = .next (((s.heard (.flight id) ce).acked (.flight id)).complete f 0)) ∧
  (∀ (id : Nat) (ce : Bool) (f : Flight) (s : State) (n psn : Nat) (h : ReduceHdr) (recs : List (List Byte))
      (rest : List (Nat × ReduceHdr × List (List Byte))), s.flight? id = some f → f.op = .redw n ((psn, h, recs) :: rest) →
    let s1 := s.heard (.flight id) ce
    let far := s1.qp (s1.qp n).dqpn
    let r := s1.reducePacket far.ctx h recs
    far.used = true → far.agbel = true → far.ud = false → far.state = 2 ∨ far.state = 3 →
    (r.2 = .ack → rest = [] → r.1.flight? id = some f →
      exec (.redwAck ⟨id, ce⟩) s = .next ((r.1.acked (.flight id)).complete f 0)) ∧
    (r.2 = .ack → exec (.redwAck ⟨id, ce⟩) s = .next (innerGo id n r.1 rest)) ∧
    (r.2 = .rnr → exec (.redwAck ⟨id, ce⟩) s = .next (r.1.keepInner id n ((psn, h, recs) :: rest)))) ∧
  (∀ (id : Nat) (ce : Bool) (f : Flight) (s : State) (q a len done : Nat) (data : List Byte), s.flight? id = some f →
    f.op = .get q a len done → done + data.length ≤ len →
    let s1 := s.heard (.flight id) ce
    ∃ m,
    (done + data.length = len → exec (.getResponse id ⟨data, ce⟩) s = .next (({ s1 with mem := m }.acked (.flight id)).complete f 0)) ∧
    (done + data.length < len → exec (.getResponse id ⟨data, ce⟩) s = .next { s1 with
      mem := m, flights := s.flights.map (fun g =>
        if g.id == id then { g with op := .get q a len (done + data.length) } else g) }) ∧
    (∀ i < data.length, Memory.read m (a + done + i) = data.getD i 0) ∧
    (∀ b, b < a + done ∨ a + done + data.length ≤ b → Memory.read m b = Memory.read s.mem b))

/-- R231, R232, R235, R236; the test at issue and again at recording is log entry 48. -/
def Obligations.VotesAndUpdateReports : Prop :=
  (∀ (c : CroftId) (st : Strm) (w : BitVec 128) (s : State),
    let y := s.strm c st
    let step := (y.sreg (bits w 31 24)).toNat
    let n : Need := { reads := sRes (bits w 31 24), units := [.fp3] }
    let x := s.ctx s.resident
    s.ready c st 16 n = true →
    (∀ h, x.step? step = some h → h.settled = false → h.opened = true → s.allDone c st = true →
      (h.ballots < max 1 h.desc.ballots →
        let t := s.issue c st 16 n (.vote step) (bits w 127 104) (bits w 103 96) none false
        exec (.vote c st w) s = .next (if step = y.step then t.modStrm c st (fun y => { y with step := y.step + 1 }) else t)) ∧
      (max 1 h.desc.ballots ≤ h.ballots → exec (.vote c st w) s = .next (s.faultAt c st 0x10)) ∧
      (st = .U → h.upcmts < h.desc.upcmts → exec (.upcmt c st w) s =
        .next (s.issue c st 16 n (.upcmt step) (bits w 127 104) (bits w 103 96) none false)) ∧
      (st = .U → h.desc.upcmts ≤ h.upcmts → exec (.upcmt c st w) s = .next (s.faultAt c st 0x10))) ∧
    (∀ h, x.step? step = some h → h.settled = false → h.opened = true → st = .U → exec (.upskip c st w) s =
      .next (s.issue c st 16 n (.upskip step (bits w 79 64)) (bits w 127 104) (bits w 103 96) none false)) ∧
    (∀ h, x.step? step = some h → h.settled = false → h.opened = false →
      exec (.vote c st w) s = .next s ∧
      (st = .U → exec (.upskip c st w) s = .next s ∧ exec (.upcmt c st w) s = .next s)) ∧
    (x.step? step = none ∨ (∃ h, x.step? step = some h ∧ h.settled = true) →
      (s.allDone c st = true → exec (.vote c st w) s = .next (s.faultAt c st 0x10)) ∧
      (st = .U → exec (.upskip c st w) s = .next (s.faultAt c st 0x10)) ∧
      (st = .U → s.allDone c st = true → exec (.upcmt c st w) s = .next (s.faultAt c st 0x10)))) ∧
  (∀ (c : CroftId) (st : Strm) (w : BitVec 128) (s : State), st ≠ .U → s.ready c st 16 {} = true →
    (∀ i, i ∈ [.upel c st w, .uplw c st w, .upskip c st w] → exec i s = .next (s.faultAt c st 0x10)) ∧
    (s.allDone c st = true → exec (.upcmt c st w) s = .next (s.faultAt c st 0x10))) ∧
  (∀ (c : CroftId) (st : Strm) (w : BitVec 128) (s : State), s.allDone c st = false → exec (.upcmt c st w) s = .next s) ∧
  (∀ (id : Nat) (f : Flight) (s : State) (step : Nat) (h : HeldStep), s.flight? id = some f →
    (s.ctx f.ctx).step? step = some h → h.settled = false → h.opened = true →
    (f.op = .vote step → h.ballots < max 1 h.desc.ballots → exec (.voteRecorded id) s =
      .next ((s.modCtx f.ctx (fun x => x.modStep step (fun h => { h with ballots := h.ballots + 1 }))).complete f 0)) ∧
    (f.op = .vote step → max 1 h.desc.ballots ≤ h.ballots → exec (.voteRecorded id) s = .next (s.faultFlight f 0x10)) ∧
    (f.op = .upcmt step → h.upcmts < h.desc.upcmts → exec (.upcmtRecorded id) s =
      .next ((s.modCtx f.ctx (fun x => x.modStep step (fun h => { h with upcmts := h.upcmts + 1 }))).complete f 0)) ∧
    (f.op = .upcmt step → h.desc.upcmts ≤ h.upcmts → exec (.upcmtRecorded id) s = .next (s.faultFlight f 0x10))) ∧
  (∀ (id : Nat) (f : Flight) (s : State) (step why : Nat), s.flight? id = some f → f.op = .upskip step why →
    exec (.upskipRecorded id) s = .next ((s.modCtx f.ctx (fun x => x.modStep step (fun h =>
      if h.skip then h else { h with skip := true, skipWhy := why }))).complete f 0))

/-- R63, R150, R233, R234, R352–R358, R463; the order of the faults is log entry 24, and UPLW without LW log entry 61. -/
def Obligations.MillInstructions : Prop :=
  (∀ (c : CroftId) (w : BitVec 128) (s : State) (h : HeldStep),
    let y := s.strm c .U
    let x := s.ctx s.resident
    let step := (y.sreg (bits w 31 24)).toNat
    let rule := (y.preg (bits w 23 16)).toNat
    let shard := (y.preg (bits w 15 8)).toNat
    let d := readShard s.mem shard rule step
    let n : Need := { reads := sRes (bits w 31 24) ++ pRes (bits w 23 16) ++ pRes (bits w 15 8) ++
                        [memRes rule 64, memRes shard 64, memRes (schedEntry s.mem rule step) 16], units := [.mill] }
    let addrs : Prop := d.state0 % 64 = 0 ∧ d.state1 % 64 = 0 ∧ s.placed d = true ∧
      (x.flippedBefore step = true → x.mirrorsShard d = true)
    s.ready c .U 16 n = true → x.step? step = some h → h.settled = false → h.opened = true →
    (descOk rule = true → descOk shard = true → (d.lw = true → x.feat 2 = true) → d.lwOk = true →
      (∀ e ∈ x.shards, d.conflicts e = false) →
      (addrs → exec (.upel c .U w) s = .next
        (((s.issue c .U 16 n (.upel step shard) (bits w 127 104) (bits w 103 96) none false).modCtx s.resident
          (fun x => { x with shards := x.shards ++ [d] })).mirrorRes s.resident d)) ∧
      (¬ addrs → exec (.upel c .U w) s = .next (s.faultAt c .U 0x11))) ∧
    (descOk rule = false ∨ descOk shard = false → exec (.upel c .U w) s = .next (s.faultAt c .U 0x11)) ∧
    (descOk rule = true → descOk shard = true →
      (d.lw = true ∧ x.feat 2 = false) ∨ d.lwOk = false ∨ (∃ e ∈ x.shards, d.conflicts e = true) →
      exec (.upel c .U w) s = .next (s.faultAt c .U 0x10))) ∧
  (∀ (c : CroftId) (w : BitVec 128) (s : State) (h : HeldStep),
    let y := s.strm c .U
    let x := s.ctx s.resident
    let step := (y.sreg (bits w 31 24)).toNat
    let shard := (y.preg (bits w 39 32)).toNat
    let rule := (y.preg (bits w 23 16)).toNat
    let result := (y.preg (bits w 15 8)).toNat
    let d := readShard s.mem shard rule step
    let n : Need := { reads := sRes (bits w 31 24) ++ pRes (bits w 39 32) ++ pRes (bits w 23 16) ++ pRes (bits w 15 8) ++
                        [memRes rule 64, memRes shard 64, memRes (schedEntry s.mem rule step) 16, memRes result d.resultBytes]
                      units := [.mill] }
    let tensors : Prop := d.state0 % 64 = 0 ∧ d.state1 % 64 = 0 ∧ (x.flippedBefore step = true → x.mirrorsShard d = true)
    let addrs := descOk rule = true ∧ descOk shard = true ∧ descOk result = true ∧ inHbm result d.resultBytes = true
    let ops := d.lw = true ∧ x.feat 2 = true ∧ d.lwOk = true ∧ s.uplwSeen s.resident step shard = false
    s.ready c .U 16 n = true → x.step? step = some h → h.settled = false → h.opened = true →
    (addrs → ops → tensors → exec (.uplw c .U w) s =
      .next (s.issue c .U 16 n (.uplw d result (min 2 (bits w 41 40))) (bits w 127 104) (bits w 103 96) none false)) ∧
    (¬ addrs → exec (.uplw c .U w) s = .next (s.faultAt c .U 0x11)) ∧
    (addrs → ops → ¬ tensors → exec (.uplw c .U w) s = .next (s.faultAt c .U 0x11)) ∧
    (addrs → ¬ ops → exec (.uplw c .U w) s = .next (s.faultAt c .U 0x10))) ∧
  (∀ (id : Nat) (f : Flight) (s : State) (step addr : Nat) (d : Shard) (h : HeldStep), s.flight? id = some f →
    f.op = .upel step addr → (s.ctx f.ctx).shard? step addr = some d → (s.ctx f.ctx).step? step = some h →
    let x := s.ctx f.ctx
    let sent : Prop := d.res = false ∨ x.twinEn = false ∨ d.resSent = true ∨
      x.flippedBefore step = true ∧ (s.qp x.twinQpn).sends f.ctx = true
    (d.nt ≤ (if h.nan then d.fronted else d.written) → sent → exec (.upelComplete id) s =
      .next (((s.mirrorRes f.ctx d).modCtx f.ctx (fun x => x.modShard step addr (fun d => { d with upelDone := true }))).complete f
        (if h.nan then 0x20 else 0))) ∧
    ((if h.nan then d.fronted else d.written) < d.nt ∨ ¬ sent → exec (.upelComplete id) s = .next s)) ∧
  (∀ (s : State) (c : Nat) (d : Shard),
    let x := s.ctx c
    (d.res = false ∨ x.twinEn = false ∨ d.resSent = true ∨ x.flippedBefore d.step = false → s.mirrorRes c d = s) ∧
    (d.res = true → x.twinEn = true → d.resSent = false → x.flippedBefore d.step = true →
      s.mirrorRes c d = (s.mirror c d.step (d.stateOf (1 - x.genState) + d.offRes) (2048 * d.nt)).modCtx c
        (fun y => y.modShard d.step d.addr (fun e => { e with resSent := (s.qp x.twinQpn).sends c })))) ∧
  (∀ (id : Nat) (f : Flight) (s : State) (d : Shard) (result outcome : Nat) (armed : Shard) (h : HeldStep),
    s.flight? id = some f → f.op = .uplw d result outcome →
    let outside : Prop := (s.ctx f.ctx).flippedBefore d.step = true ∧ (s.ctx f.ctx).mirrorsShard d = false
    (outside → exec (.uplwComplete id) s = .next (s.faultFlight f 0x11)) ∧
    (¬ outside → (s.ctx f.ctx).shard? d.step d.addr = some armed → (s.ctx f.ctx).step? d.step = some h → armed.upelDone = false →
      exec (.uplwComplete id) s = .next s) ∧
    (¬ outside → (s.ctx f.ctx).shard? d.step d.addr = some armed → (s.ctx f.ctx).step? d.step = some h → armed.upelDone = true →
    let mark := fun (s : State) => s.modCtx f.ctx (fun x => x.modShard d.step d.addr (fun e => { e with uplwDone := true }))
    (h.nan = true → exec (.uplwComplete id) s = .next ((mark s).complete f 0x20)) ∧
    (h.nan = false →
      let row := s.tailRow f.ctx d result outcome
      let t := ((List.range d.nt).map (s.tailTile f.ctx h d result row) ++ s.tailPre f.ctx d result row).foldl
        (fun s p => s.millWrite f.ctx d.step p.1 p.2) s
      exec (.uplwComplete id) s = .next ((mark (t.modCtx f.ctx (fun x => x.modStep d.step (fun h =>
        { h with fallbacks := h.fallbacks ++ (if row = .fresh then [] else [(d.addr, decide (row = .kept))]) })))).complete f 0))))

/-- R335–R339, R350–R352, R357. -/
def Obligations.MillFrontAndStations : Prop :=
  (∀ (pos : Nat) (s : State) (d : Shard),
    let sl := s.slot pos
    let x := s.ctx sl.ctx
    sl.state = .complete → sl.second = false → x.flippedBefore sl.step = true → x.covering pos sl = some d →
    (∀ e ∈ s.slots, e.2.state = .complete → e.2.second = false → (s.ctx e.2.ctx).flippedBefore e.2.step = true →
      (s.ctx e.2.ctx).covering e.1 e.2 ≠ none → sl.stamp ≤ e.2.stamp) →
    let t := Table.get 0 d.binds pos * max 1 (d.npos / slotWidth sl.fmt) + (pos - d.pos) / slotWidth sl.fmt
    (t < d.nt → x.mirrorsShard d = true → exec (.frontHandover pos) s = .next (s.deliver sl.ctx d pos t)) ∧
    (t < d.nt → x.mirrorsShard d = false → exec (.frontHandover pos) s = .next (s.faultUpel sl.ctx d)) ∧
    (d.nt ≤ t → exec (.frontHandover pos) s = .next ((s.modCtx sl.ctx (fun x =>
      (x.modShard d.step d.addr (fun d => { d with binds := Table.put d.binds pos (Table.get 0 d.binds pos + 1) })).exchError
        d.step 30)).releasePos sl.ctx d pos))) ∧
  (∀ (pos : Nat) (s : State), (s.slot pos).state ≠ .complete ∨ (s.slot pos).second = true →
    exec (.frontHandover pos) s = .next s) ∧
  (∀ (stack : Fin 8) (s : State) (j : StationJob) (js : List StationJob), Table.get [] s.stations stack = j :: js →
    let s1 := { s with stations := Table.put s.stations stack js }
    let leave := fun (t : State) => if (t.slot j.pos).state = .taken ∧ (t.slot j.pos).ctx = j.ctx ∧ (t.slot j.pos).step = j.step ∧
      (t.slot j.pos).tid = j.shard.tidP then t.releasePos j.ctx j.shard j.pos else t
    ((s.ctx j.ctx).shard? j.step j.shard.addr = none ∨ (s.ctx j.ctx).step? j.step = none →
      exec (.stationTileDone stack) s = .next (leave s1)) ∧
    (∀ d h, (s.ctx j.ctx).shard? j.step j.shard.addr = some d → (s.ctx j.ctx).step? j.step = some h →
      let gs := j.elems.map (fun g => mulA g d.gscale)
      let count := fun (s : State) => s.modCtx j.ctx (fun x => x.modShard j.step d.addr (fun d => { d with written := d.written + 1 }))
      let last := d.lw = true ∧ d.gsv = true ∧ d.written + 1 = d.nt
      let written := count ((s.ruleWrites j.ctx h d j.tile gs).foldl (fun s p => s.millWrite j.ctx j.step p.1 p.2) s1)
      ((∃ g ∈ gs, (ofA40 g).isNan = true) → exec (.stationTileDone stack) s =
        .next (leave (count (s1.modCtx j.ctx (fun x => x.modStep j.step (fun h =>
          { h with skip := true, skipWhy := if h.skip then h.skipWhy else 0xFFF0, nan := true })))))) ∧
      ((∀ g ∈ gs, (ofA40 g).isNan = false) → h.nan = false → exec (.stationTileDone stack) s =
        .next (leave (if last then written.change j.ctx d.gsem 1 none else written))) ∧
      ((∀ g ∈ gs, (ofA40 g).isNan = false) → h.nan = true → exec (.stationTileDone stack) s =
        .next (leave (count s1))))) ∧
  (∀ (id : Nat) (ce : Bool) (s : State) (c : Nat), c ∈ s.contexts → (∃ m ∈ (s.ctx c).mirrors, m.id = id) →
    ∃ t, exec (.mirrorAck ⟨id, ce⟩) s = .next t ∧ (∀ m ∈ (t.ctx c).mirrors, m.id ≠ id ∧ m ∈ (s.ctx c).mirrors) ∧
      (∀ m ∈ (s.ctx c).mirrors, m.id ≠ id → m ∈ (t.ctx c).mirrors) ∧
      t.mem = s.mem ∧ t.crofts = s.crofts ∧ t.flights = s.flights ∧ t.tally = s.tally ∧
      (∀ n, (t.qp n).state = (s.qp n).state ∧ (t.qp n).sqPsn = (s.qp n).sqPsn))

/-- R395, R396, R402, R403, R423, R430, R432, R433, R455–R457: the responder (log entries 20, 72, 104, 128). -/
def Obligations.InboundRequestsAreServed : Prop :=
  (∀ (n psn va len : Nat) (fr : Frame) (key imm : Reg) (v w : Word) (data : List Byte) (s : State) (i : Instr),
    i ∈ [.rdmaWriteInbound n psn fr va key data, .rdmaReadInbound n psn fr va key len, .fetchAndAdd n psn fr va key v,
      .compareAndSwap n psn fr va key v w, .writeWithImmediate n psn fr va key data imm, .sendInbound n psn fr data] →
    s.receives n = true →
    (9216 < fr.len → exec i s = .next { s with net := { s.net with dropLong := s.net.dropLong + 1 } }) ∧
    (fr.len ≤ 9216 → fr.plain = false → exec i s = .next s)) ∧
  (∀ (n psn va : Nat) (fr : Frame) (key : Reg) (data : List Byte) (imm : Reg) (s : State),
    let q := s.qp n
    let k := q.packets data.length
    let last := psnAdd psn (k - 1)
    let write : Instr := .rdmaWriteInbound n psn fr va key data
    let imme : Instr := .writeWithImmediate n psn fr va key data imm
    let send : Instr := .sendInbound n psn fr data
    let words := s.regAccess n va data.length = true ∧ ∀ o ∈ wordsOf va data.length, mayWrite q.ctx o = true
    s.receives n = true → s.cached n = true → psn = q.rqPsn →
    (q.admits va data.length key 1 = true → inHbm va data.length = true → s.foreignRegion q.ctx va data.length = false → ∃ m,
      (fr.ordinary write → exec write s = .next ((({ s with mem := m }).modQp n (fun q => q.took k)).ackTo n last)) ∧
      (fr.ordinary imme → exec imme s = .next (((if q.immV then
          ({ s with mem := m }).change q.ctx q.immSem 1 none else { s with mem := m }).modQp n (fun q => q.took k)).ackTo n last)) ∧
      (∀ i < data.length, Memory.read m (va + i) = data.getD i 0) ∧
      (∀ b, b < va ∨ va + data.length ≤ b → Memory.read m b = Memory.read s.mem b)) ∧
    (q.admits va data.length key 1 = true → words → fr.ordinary write →
      let t := (List.zip (wordsOf va data.length) (dataWords data)).foldl (fun (s : State) (e : Nat × Nat) =>
        s.writeWord (ctxOf q.ctx) e.1 e.2) (s.renew (ctxOf q.ctx))
      exec write s = .next (if (t.qp n).used then (t.modQp n (fun q => q.took k)).ackTo n last else t)) ∧
    (q.admits va data.length key 1 = false ∨
        ¬ words ∧ (inHbm va data.length = false ∨ s.foreignRegion q.ctx va data.length = true) →
      (fr.ordinary write → exec write s = .next (s.transmit n (.nak n psn 0x62))) ∧
      (fr.ordinary imme → exec imme s = .next (s.transmit n (.nak n psn 0x62)))) ∧
    (q.session = true ∨ q.ctx = 0 → fr.ordinary send → exec send s = .next ((s.modQp n (fun q => q.took k)).ackTo n last)) ∧
    (q.session = false → q.ctx ≠ 0 → fr.ordinary send → exec send s = .next (s.transmit n (.nak n psn 0x61))) ∧
    (∀ i ∈ [write, imme, send], fr.len ≤ 9216 → fr.plain = true → fr.ce = false → fr.opcode < 0xC6 → takesOpcode i fr.opcode = false →
      exec i s = .next (s.transmit n (.nak n psn 0x61)))) ∧
  (∀ (n va len : Nat) (s : State), s.regAccess n va len = true ↔
    (s.qp n).session = true ∧ (s.ctx (s.qp n).ctx).ses.modQpn = n ∧ (s.ctx (s.qp n).ctx).exist = true ∧
      (s.ctx (s.qp n).ctx).ses.state = .opened ∧ va % 4 = 0 ∧ len % 4 = 0 ∧
      0x030000000000 ≤ va ∧ va + len ≤ 0x030000000000 + 0x110000) ∧
  (∀ (n psn va : Nat) (fr : Frame) (key : Reg) (len : Nat) (s : State),
    let q := s.qp n
    let i : Instr := .rdmaReadInbound n psn fr va key len
    let words := s.regAccess n va len = true ∧ ∀ o ∈ wordsOf va len, mayRead q.ctx o = true
    let t := s.renew q.ctx
    s.receives n = true → s.cached n = true → psn = q.rqPsn → fr.ordinary i →
    (q.admits va len key 0 = true → inHbm va len = true → exec i s =
      .next ((s.modQp n (fun q => q.took (q.packets len))).transmit n (.readResponse n psn (Memory.readBytes s.mem va len)))) ∧
    (q.admits va len key 0 = true → words → exec i s = .next ((t.modQp n (fun q => q.took (q.packets len))).transmit n
      (.readResponse n psn ((List.range len).map (fun i =>
        (leBytes 4 (t.readWord ((va - 0x030000000000 + i) / 4 * 4)).toNat).getD ((va + i) % 4) 0))))) ∧
    (q.admits va len key 0 = false ∨ ¬ words ∧ s.hbmReadable q.ctx va len = false ∧
        (va < tallyBase ∨ tallyBase + 0x4000000 < va + len) ∧
        (va < windowBase ∨ windowBase + 0x21000000 < va + len ∨ (s.ctx q.ctx).feat 4 = false) →
      exec i s = .next (s.transmit n (.nak n psn 0x62)))) ∧
  (∀ (n psn va : Nat) (fr : Frame) (key : Reg) (add cmp swap : Word) (s : State) (i : Instr) (f : Word → Word),
    (i = .fetchAndAdd n psn fr va key add ∧ (∀ v, f v = v + add) ∨
      i = .compareAndSwap n psn fr va key cmp swap ∧ (∀ v, f v = if v = cmp then swap else v)) →
    let q := s.qp n
    let old := BitVec.ofNat 64 (leNat (Memory.readBytes s.mem va 8))
    s.receives n = true → s.cached n = true → psn = q.rqPsn → fr.ordinary i →
    (q.admits va 8 key 2 = true → va % 8 = 0 → inHbm va 8 = true → ∃ m,
      exec i s = .next ((({ s with mem := m }).modQp n (fun q =>
        { q with atomics := ((psn, old) :: q.atomics).take q.respRes }.took 1)).transmit n (.atomicResponse n psn old)) ∧
      leNat (Memory.readBytes m va 8) = (f old).toNat ∧
      (∀ b, b < va ∨ va + 8 ≤ b → Memory.read m b = Memory.read s.mem b)) ∧
    (q.admits va 8 key 2 = false ∨ va % 8 ≠ 0 ∨ inHbm va 8 = false → exec i s = .next (s.transmit n (.nak n psn 0x62))))

/-- R319–R321, R440, R555. -/
def Obligations.OwnerAddsReduceWrites : Prop :=
  ∀ (n psn : Nat) (fr : Frame) (h : ReduceHdr) (recs : List (List Byte)) (s : State),
    let q := s.qp n
    let x := s.ctx q.ctx
    let w := if h.fmt = 5 then 2 else 1
    let ps := (List.range recs.length).map (fun i => h.pos + w * i)
    let inside := ∀ p ∈ ps, x.slotFirst ≤ p ∧ p + w ≤ x.slotFirst + x.slotCount
    let e := exec (.reduceWrite n psn fr h recs) s
    let refuses := fun p => (s.slot p).refuses q.ctx h = true ∨
      h.fmt = 5 ∧ (s.slot p).state = .free ∧ (s.slot (p + 1)).state ≠ .free
    psn < 2 ^ 24 → s.receives n = true → s.cached n = true → psn = q.rqPsn → fr.ordinary (.reduceWrite n psn fr h recs) →
    (s.agbelOk n = true → inside → x.age h.step h.att = .current → (∀ p ∈ ps, ¬ refuses p) →
      e = .next (((((List.zip ps recs).foldl (fun s r => s.addAt q.ctx h r.1 r.2) s).modCtx q.ctx
        (fun y => y.noteSide h)).modQp n (fun q => q.took 1)).ackTo n psn)) ∧
    (s.agbelOk n = true → inside → x.age h.step h.att = .older → e = .next ((s.modQp n (fun q => q.took 1)).ackTo n psn)) ∧
    (s.agbelOk n = true → inside → x.age h.step h.att = .newer ∨
        (x.age h.step h.att = .current ∧ ∃ p ∈ ps, refuses p) →
      e = .next (s.transmit n (.rnr n psn q.minRnr))) ∧
    (s.agbelOk n = true → ¬ inside →
      e = .next (({ s.modCtx q.ctx (fun y => { y with xerr := y.xerr ||| 2 ^ 28 }) with
        group := { s.group with abortPending := insertNat x.gtag s.group.abortPending } }).transmit n (.nak n psn 0x62))) ∧
    (s.agbelOk n = false → s.up 2 = true → e = .next ((s.transmit n (.nak n psn 0x61)).failQp n false)) ∧
    (s.agbelOk n = true ↔ q.agbel = true ∧ q.ud = false ∧ s.portRole q.port q.sub ≠ 0)

/-- R269–R273, R437; a SIG that its bank defers is log entry 103. -/
def Obligations.SignalsKeepTheirOrder : Prop :=
  (∀ (n psn : Nat) (fr : Frame) (h : SigHdr) (seen : Bool) (s : State),
    let q := s.qp n
    let a := semAddr h.addr
    let mark := h.watermark % 2 ^ 24
    let reached : Prop := seen = true ∧ psnSub (psnAdd q.rqPsn (2 ^ 24 - 1)) mark < 2 ^ 23
    let takes : Prop := s.semAccepts a = true ∨ semDiscarded q.ctx a = true
    let e := exec (.sig n psn fr h seen) s
    let refused := (.next ((s.modCtx q.ctx (fun x => { x with holdNaks := min 65535 (x.holdNaks + 1) })).transmit n (.rnr n psn q.minRnr)) : Answer)
    psn < 2 ^ 24 → s.receives n = true → s.cached n = true → psn = q.rqPsn → fr.ordinary (.sig n psn fr h seen) → s.agbelOk n = true →
    ((s.ctx q.ctx).quietWait = false → reached → q.holds = [] → takes →
      e = .next (((s.change q.ctx a h.amount.toInt none).modQp n (fun q => q.took 1)).ackTo n psn)) ∧
    ((s.ctx q.ctx).quietWait = false → reached → q.holds = [] → ¬ takes → e = refused) ∧
    ((s.ctx q.ctx).quietWait = false → ¬ reached ∨ q.holds ≠ [] → q.holds.length < 64 →
      e = .next (((s.setQp n { q with holds := q.holds ++ [⟨psn, mark, h.amount, a⟩] }).modCtx q.ctx
        (fun x => { x with holdPeak := max x.holdPeak (q.holds.length + 1) })).modQp n (fun q => q.took 1))) ∧
    ((s.ctx q.ctx).quietWait = false → 64 ≤ q.holds.length → e = refused) ∧
    ((s.ctx q.ctx).quietWait = true → e = .next (s.transmit n (.rnr n psn q.minRnr)))) ∧
  (∀ (n : Nat) (s : State) (e : HoldEntry) (es : List HoldEntry), (s.qp n).holds = e :: es →
    let q := s.qp n
    let goes : Prop := psnSub (psnAdd q.rqPsn (2 ^ 24 - 1)) e.watermark < 2 ^ 23 ∧
      (s.semAccepts e.addr = true ∨ semDiscarded q.ctx e.addr = true)
    let t := (s.modQp n (fun q => { q with holds := es })).change q.ctx e.addr e.amount.toInt none
    (goes → exec (.holdSigApply n) s = .next (if t.receives n then t.transmit n (.ack n
      (match es with | f :: _ => psnAdd f.sigPsn (2 ^ 24 - 1) | [] => psnAdd q.rqPsn (2 ^ 24 - 1))) else t)) ∧
    (¬ goes → exec (.holdSigApply n) s = .next s))

/-- R224, R271, R426, R435, R436, R438. -/
def Obligations.RequesterRetriesAndFails : Prop :=
  (∀ (n : Nat) (s : State),
    let q := s.qp n
    q.used = true → q.state = 3 → q.work ≠ [] → q.rnrWait = false →
    (q.tries < q.retry → exec (.ackTimeout n) s =
      .next ((s.setQp n { q with tries := q.tries + 1 }).transmit n (.retransmit n q.oldestPsn))) ∧
    (q.retry ≤ q.tries → s.up 2 = true → exec (.ackTimeout n) s = .next (s.exhaust n)) ∧
    (q.retry ≤ q.tries → s.up 2 = false → exec (.ackTimeout n) s = .next (s.hold 2 (.ackTimeout n))) ∧
    (∀ psn timer, (q.rnrRetry = 7 ∨ q.rnrTries < q.rnrRetry → exec (.rnrNak n psn ⟨timer, false⟩) s =
        .next (s.setQp n { q with rnrWait := true, rnrTries := q.rnrTries + 1, rnrPsn := psn })) ∧
      (q.rnrRetry ≠ 7 → q.rnrRetry ≤ q.rnrTries → s.up 2 = true → exec (.rnrNak n psn ⟨timer, false⟩) s = .next (s.exhaust n)) ∧
      exec (.rnrNak n psn ⟨timer, true⟩) s = exec (.rnrNak n psn ⟨timer, false⟩) (s.congested n))) ∧
  (∀ (n : Nat) (s : State), (s.qp n).rnrWait = true → exec (.rnrTimer n) s =
    .next ((s.setQp n { s.qp n with rnrWait := false }).transmit n (.retransmit n (s.qp n).rnrPsn))) ∧
  (∀ (n : Nat) (s : State),
    let q := s.qp n
    q.used = true → q.state = 4 → q.work ≠ [] → s.up 2 = true → exec (.ackTimeout n) s =
      .next (q.work.foldl (fun s w => s.failWork 0x30 w) (s.setQp n { q with work := [] }))) ∧
  (∀ (n psn syndrome k : Nat) (s : State) (w : WorkReq),
    let q := s.qp n
    q.used = true → q.state = 3 → q.work[k]? = some w → psnSub psn w.psn < w.count →
    (∀ j < k, ∀ v, q.work[j]? = some v → v.count ≤ psnSub psn v.psn) → s.up 2 = true →
    exec (.remoteAccessError n psn ⟨syndrome, false⟩) s =
      .next ((s.event q.ctx 0x0006 [(n, 20), (syndrome, 8), (psn, 24)]).failFrom n false k) ∧
    exec (.remoteAccessError n psn ⟨syndrome, true⟩) s = exec (.remoteAccessError n psn ⟨syndrome, false⟩) (s.congested n)) ∧
  (∀ (n : Nat) (s : State),
    let q := s.qp n
    q.used = true → q.state = 2 ∨ q.state = 3 → q.macKnown = false → s.up 2 = true →
    let v := Config.free64 s.fresh
    exec (.macResolutionTimeout n) s = .next
      (({ s with fresh := s.fresh + 1 }.failQp n false).rdmaException n (bits v 7 0) (bits v 31 8))) ∧
  (∀ (n : Nat) (s : State),
    let q := s.qp n
    let s1 := s.cacheIn n
    q.used = true → s.cached n = false → s1.cached n = true →
    exec (.contextFetchDone n) s = .next (q.portBuf.foldl State.runPacket
      (q.held.foldl (fun s o => s.transmit n o) (s1.setQp n { q with held := [], portBuf := [] }))).unpause)

/-- R427: the table. -/
def Obligations.RateControlFollowsItsTable : Prop :=
  (∀ (n psn va len : Nat) (key imm : Reg) (v w : Word) (data : List Byte) (recs : List (List Byte)) (h : ReduceHdr) (g : SigHdr)
      (seen : Bool) (fr : Frame) (s : State) (form : Frame → Instr),
    form ∈ [fun fr => .rdmaWriteInbound n psn fr va key data, fun fr => .rdmaReadInbound n psn fr va key len,
      fun fr => .fetchAndAdd n psn fr va key v, fun fr => .compareAndSwap n psn fr va key v w,
      fun fr => .writeWithImmediate n psn fr va key data imm, fun fr => .sendInbound n psn fr data,
      fun fr => .reduceWrite n psn fr h recs, fun fr => .sig n psn fr g seen] →
    s.receives n = true → s.cached n = true → fr.ordinary (form fr) →
    exec (form { fr with ce := true }) s = exec (form fr) (s.congested n) ∧
    ((s.qp n).cnpSent = false → s.congested n = (s.modQp n (fun q => { q with cnpSent := true })).enqueue n (.cnp n)) ∧
    ((s.qp n).cnpSent = true → s.congested n = { s with fresh := s.fresh + 1 } ∨
      s.congested n = { s with fresh := s.fresh + 1 }.enqueue n (.cnp n))) ∧
  ∀ (n : Nat) (s : State), let q := s.qp n
    q.used = true →
    (s.portEcn q.port q.pcp = true → exec (.cnp n) s = .next (s.setQp n { q with
      target := q.rate, rate := max (100 * 65536) (q.rate - q.rate * q.alpha / 131072)
      alpha := (15 * q.alpha + 65536) / 16, recover := 0 })) ∧
    (s.portEcn q.port q.pcp = false → exec (.cnp n) s = .next s) ∧
    exec (.alphaDecay n) s = .next (s.setQp n { q with alpha := 15 * q.alpha / 16 }) ∧
    (q.recover < 5 → exec (.rateRecovery n) s =
      .next (s.setQp n { q with rate := (q.rate + q.target) / 2, recover := q.recover + 1 })) ∧
    (5 ≤ q.recover → let t := min (s.subportRate q.port) (q.target + 40 * 65536)
      exec (.rateRecovery n) s = .next (s.setQp n { q with target := t, rate := (q.rate + t) / 2 }))

/-- R418, R421, R423–R427, R451, R545; which addresses answer is log entry 89. -/
def Obligations.PortsAnswerAndPause : Prop :=
  (∀ (k : Nat) (s : State),
    let queue := Table.get [] s.net.egress k
    let pcp := s.pcpOf
    let may := fun e : Egress => pcp e ∉ (Table.get {} s.net.subs k).paused ∧
      ((s.qp e.qpn).session = true ∨ s.group.fenced = false)
    ((Table.get {} s.net.subs k).up = false ∨ (∀ e ∈ queue, ¬ may e) → s.sendFrame k = s) ∧
    (∀ e, s.nextPacket k = some e →
      let turn := Table.get 0 s.net.turn (8 * k + pcp e)
      e ∈ queue ∧ may e ∧ (∀ d ∈ queue, may d → pcp d ≤ pcp e) ∧
      (∀ d ∈ queue, may d → pcp d = pcp e →
        (turn < e.qpn ∧ (turn < d.qpn → e.qpn ≤ d.qpn)) ∨ (e.qpn ≤ d.qpn ∧ d.qpn ≤ turn)) ∧
      (∃ a b, queue = a ++ e :: b ∧ ∀ d ∈ a, may d → pcp d = pcp e → d.qpn ≠ e.qpn) ∧
      ((Table.get {} s.net.subs k).up = true → ∃ rest, s.sendFrame k = { s with
        out := .frame (s.frameHdr e.qpn e.out e.sent) e.out :: s.out
        net := { s.net with egress := Table.put s.net.egress k rest, turn := Table.put s.net.turn (8 * k + pcp e) e.qpn } } ∧
        ∃ a b, queue = a ++ e :: b ∧
          rest = a ++ (if (s.qp e.qpn).frames e.out ≤ e.sent + 1 then b else { e with sent := e.sent + 1 } :: b)))) ∧
  (∀ (e : Egress) (s : State), (∀ m, e.out = .cnp m → s.pcpOf e = 6) ∧ ((∀ m, e.out ≠ .cnp m) → s.pcpOf e = (s.qp e.qpn).pcp)) ∧
  (∀ (n : Nat) (o : Output) (i : Nat) (s : State),
    let q := s.qp n
    let h := s.frameHdr n o i
    let carries := fun pcp dscp => h.tag = (if q.untag then none else some (pcp, q.vid)) ∧ h.dscp = dscp ∧ h.ect = s.portEcn q.port pcp
    h.port = q.port ∧ h.sub = q.sub ∧ h.dport = 4791 ∧ ((∃ m, o = .cnp m) → carries 6 48) ∧
    ((∀ m, o ≠ .cnp m) → carries q.pcp q.dscp) ∧
    (h.df = true ↔ isMapped4 q.dip = true) ∧ (q.sport ≠ 0 → h.sport = q.sport)) ∧
  (∀ (port : Nat) (s : State), s.trainMode port =
    (if 2 ≤ bits (s.portReg port) 28 27 then .module else if bit (s.portReg port) 26 then .negotiate else .preset)) ∧
  (∀ (port sub : Nat) (s : State) (a : BitVec 128), s.holdsAddr port sub a = true ↔
    s.group.fenced = false ∧ (s.sub port sub).up = true ∧
      ((s.sub port sub).ipv4 ≠ 0 ∧ a = mapped4 (s.sub port sub).ipv4 ∨ (s.sub port sub).ipv6 ≠ 0 ∧ a = (s.sub port sub).ipv6 ∨
        a = linkLocal (s.net.mac.getD Config.baseMac + BitVec.ofNat 48 (4 * port + sub)))) ∧
  (∀ (port sub : Nat) (v4 : BitVec 32) (a : BitVec 128) (e : Echo) (s : State),
    let mac := s.net.mac.getD Config.baseMac + BitVec.ofNat 48 (4 * port + sub)
    (s.holdsAddr port sub (mapped4 v4) = true → exec (.arpRequest port sub v4) s = .next (s.send (.arpReply port sub v4 mac))) ∧
    (s.holdsAddr port sub (mapped4 v4) = false → exec (.arpRequest port sub v4) s = .next s) ∧
    (s.holdsAddr port sub a = true → e.fr.len ≤ 9216 → e.fr.plain = true →
      exec (.echoRequest port sub a e) s = .next (s.send (.echoReply port sub a e.data))) ∧
    (e.fr.len ≤ 9216 → s.holdsAddr port sub a = false ∨ e.fr.plain = false → exec (.echoRequest port sub a e) s = .next s) ∧
    (9216 < e.fr.len → exec (.echoRequest port sub a e) s = .next { s with net := { s.net with dropLong := s.net.dropLong + 1 } }) ∧
    (s.holdsAddr port sub a = true → isMapped4 a = false →
      exec (.neighborSolicitation port sub a) s = .next (s.send (.neighborAdvert port sub a mac))) ∧
    (s.holdsAddr port sub a = false → exec (.neighborSolicitation port sub a) s = .next s)) ∧
  (∀ (port sub prio : Nat) (xoff : Bool) (s : State), s.portPfc port prio = true → (s.sub port sub).up = true → ∃ paused,
    exec (.pfcFrame port sub prio xoff) s = .next (s.setSub port sub { s.sub port sub with paused := paused }) ∧
    (prio ∈ paused ↔ xoff = true) ∧ (∀ q, q ≠ prio → (q ∈ paused ↔ q ∈ (s.sub port sub).paused))) ∧
  (∀ (port sub prio : Nat) (xoff : Bool) (s : State), s.portPfc port prio = false →
    exec (.pfcFrame port sub prio xoff) s = .next s) ∧
  (∀ (port sub prio : Nat) (s : State), prio ∈ (s.sub port sub).paused → exec (.pfcStorm port sub prio) s =
    .next ((s.modNet (fun n => { n with storm := insertNat port n.storm })).eventAll 0x000A [(port, 3), (sub, 2), (prio, 3)])) ∧
  (∀ (port sub : Nat) (s : State), (s.sub port sub).up = true → exec (.linkDown port sub) s =
    .next ((s.setSub port sub { s.sub port sub with up := false, paused := [] }).send (.linkTrain port sub (s.trainMode port)))) ∧
  (∀ (port sub : Nat) (s : State), 3 ≤ s.phase → s.phase ≠ 7 → (port, sub) ∈ s.enabledSubs →
    let lanes := Config.free64 s.fresh
    let t := if s.trainMode port = .negotiate then { s with fresh := s.fresh + 1 }.setSub port sub { s.sub port sub with
          polarity := bits lanes 3 0 % 2 ^ (4 / s.subports port), up := true }
      else s.setSub port sub { s.sub port sub with polarity := 0, up := true }
    (s.phase ≠ 3 ∨ t.allLinks = false → exec (.linkUp port sub) s = .next t) ∧
    (s.phase = 3 → t.allLinks = true → exec (.linkUp port sub) s = .next t.lockTime))

/-- R446–R450, R527, R528; the comparison of masters and the pace of the messages are log entry 88. -/
def Obligations.TimeFollowsTheMaster : Prop :=
  (∀ (port : Nat) (offset : Int) (s : State), s.net.ptpState ≠ 3 → s.ptpPort port = true → s.up 2 = true →
    (offset.natAbs ≤ 25000 ∨ s.net.wasReady = false ∨ s.net.faultSent = true) →
    let t := (if s.ptpBit 29 then s else s.send (.delayReq port false s.ptpHdr)).modNet (fun n => { n with
      follows := some port, offset := offset, goodSyncs := if offset.natAbs ≤ 200 then n.goodSyncs + 1 else 0
      badSyncs := if 1000 < offset.natAbs then n.badSyncs + 1 else 0
      faultSent := decide (25000 < offset.natAbs) && s.net.wasReady })
    (s.net.ptpState ≠ 1 → 15 ≤ s.net.goodSyncs → offset.natAbs ≤ 200 → exec (.ptpSync port offset) s = .next (t.timed 1)) ∧
    (s.net.ptpState ≠ 1 → s.net.goodSyncs < 15 ∨ 200 < offset.natAbs → exec (.ptpSync port offset) s = .next t) ∧
    (s.net.ptpState = 1 → 15 ≤ s.net.badSyncs → 1000 < offset.natAbs → exec (.ptpSync port offset) s = .next t.holdover) ∧
    (s.net.ptpState = 1 → s.net.badSyncs < 15 ∨ offset.natAbs ≤ 1000 → exec (.ptpSync port offset) s = .next t)) ∧
  (∀ (port : Nat) (offset : Int) (s : State), s.net.ptpState = 1 → s.ptpPort port = true → s.up 2 = true → s.net.wasReady = true →
    25000 < offset.natAbs → s.net.badSyncs < 15 → s.net.faultSent = false → exec (.ptpSync port offset) s =
      .next (((if s.ptpBit 29 then s else s.send (.delayReq port false s.ptpHdr)).modNet (fun n => { n with
        follows := some port, offset := offset, goodSyncs := 0, badSyncs := n.badSyncs + 1, faultSent := true })).eventAll
        0x000C [(signedField 32 offset, 32)])) ∧
  (∀ s : State, s.net.ptpState = 1 → exec .syncTimeout s = .next s.holdover) ∧
  (∀ s : State, s.holdover = (s.modNet (fun n => { n with ptpState := 2, goodSyncs := 0, badSyncs := 0, master := none })).eventAll 0x000B
    [(signedField 32 s.net.offset, 32)]) ∧
  (∀ (k : Nat) (s : State), s.phase ≠ 4 → s.timed k = s.modNet (fun n => { n with ptpState := k, goodSyncs := 0, badSyncs := 0 })) ∧
  (∀ (k : Nat) (s : State), s.phase = 4 → (s.timed k).phase = 5 ∧ (s.timed k).pwr.clk = 11) ∧
  (∀ (delta : Int) (s : State), s.ptpBit 31 = true →
    (delta.natAbs ≤ 1000 → exec (.ppsEdge delta) s = .next (s.modNet (fun n => { n with ppsOk := true }))) ∧
    (1000 < delta.natAbs → exec (.ppsEdge delta) s =
      .next (s.modNet (fun n => { n with ppsOk := false, ppsBad := n.ppsBad + 1 })))) ∧
  (∀ s : State, 4 ≤ s.phase → s.phase ≠ 7 → s.net.ptpState ≠ 1 → s.net.ptpState ≠ 3 →
    (s.ptpBit 26 = true → exec .grandmasterTimeout s = .next s.lead ∧ s.lead.net = (s.timed 3).net ∧ s.lead.phase = (s.timed 3).phase ∧
      (∀ port < 8, s.ptpPort port = true →
        Output.announce port ⟨bits (s.reg 0x080) 23 16, min 2 (bits (s.reg 0x080) 28 27)⟩
          ⟨bits (s.reg 0x080) 7 0, Config.clockQuality, Config.clockIdentity⟩ ∈ s.lead.out)) ∧
    (s.ptpBit 26 = false → s.phase = 4 → exec .grandmasterTimeout s = .next (s.ibi 3))) ∧
  (∀ a b : Master, a.better b = true ↔ a.priority1 < b.priority1 ∨ a.priority1 = b.priority1 ∧
    (a.quality < b.quality ∨ a.quality = b.quality ∧ a.identity < b.identity)) ∧
  (∀ (port domain : Nat) (m : Master) (s : State),
    let own : Master := ⟨bits (s.reg 0x080) 7 0, Config.clockQuality, Config.clockIdentity⟩
    let t := fun best => s.modNet (fun n => { n with master := some best })
    (s.ptpPort port = false ∨ domain % 256 ≠ bits (s.reg 0x080) 23 16 → exec (.announce port domain m) s = .next s) ∧
    (s.ptpPort port = true → domain % 256 = bits (s.reg 0x080) 23 16 → ∃ best,
      (best = m ∨ s.net.master = some best) ∧ m.better best = false ∧ (∀ b, s.net.master = some b → b.better best = false) ∧
      (best.better own = true ∨ s.ptpBit 26 = false →
        (s.net.ptpState = 3 → exec (.announce port domain m) s =
          .next ((t best).modNet (fun n => { n with ptpState := 0, goodSyncs := 0, badSyncs := 0 }))) ∧
        (s.net.ptpState ≠ 3 → exec (.announce port domain m) s = .next (t best))) ∧
      (best.better own = false → s.ptpBit 26 = true →
        (s.net.ptpState = 3 ∨ s.phase < 4 ∨ s.phase = 7 → exec (.announce port domain m) s = .next (t best)) ∧
        (s.net.ptpState ≠ 3 → 4 ≤ s.phase → s.phase ≠ 7 → exec (.announce port domain m) s = .next (t best).lead)))) ∧
  (∀ (port : Nat) (s : State), port < 8 → s.up 2 = true → s.ptpPort port = true →
    (s.servesTime = true → s.net.ptpState = 3 ∨ s.net.follows ≠ some port →
      Output.announce port s.ptpHdr s.served ∈ s.ptpTick.out ∧ Output.ptpSync port s.ptpHdr ∈ s.ptpTick.out) ∧
    (s.ptpBit 29 = true → Output.delayReq port true s.ptpHdr ∈ s.ptpTick.out)) ∧
  (∀ s : State, s.servesTime = true ↔ s.net.ptpState = 3 ∨ s.ptpBit 30 = true ∧ s.net.ptpState = 1) ∧
  (∀ (port : Nat) (s : State), s.ptpPort port = true →
    (s.ptpBit 29 = true → exec (.delayReq port true) s = .next (s.send (.delayResp port true s.ptpHdr))) ∧
    (s.ptpBit 29 = false → s.servesTime = true →
      exec (.delayReq port false) s = .next (s.send (.delayResp port false s.ptpHdr))))

/-- R464, R465, R468, R471, R476. -/
def Obligations.MailboxTakesAndAnswers : Prop :=
  (∀ (i : Instr) (c : CtxId) (q k : Nat) (only : Bool) (s : State), mailboxOf i = some (c, q, k, only) →
    ((s.ctx c).ses.state ≠ .opened → exec i s = .next s) ∧
    ((s.ctx c).ses.state = .opened → s.group.fenced = true ∨ (s.ctx c).ses.busy = true → exec i s = .next (s.renew c)) ∧
    ((s.ctx c).ses.state = .opened → s.group.fenced = false → (s.ctx c).ses.busy = false →
      (s.up 1 = false → exec i s = .next ((s.taken c q).hold 1 i)) ∧
      (s.up 1 = true → s.up k = false → exec i s = .next ((s.taken c q).hold k i))) ∧
    (s.takes c k → only = true → c.val ≠ 0 → exec i s = .next ((s.taken c q).finish c q (2, [])))) ∧
  (∀ (c : CtxId) (q : Nat) (s : State), s.takes c 1 →
    exec (.renew c q) s = .next (((s.taken c q).renew c).finish c q (0, []))) ∧
  (∀ (s : State) (c q st : Nat) (ds : List Byte), (s.ctx c).ses.state ≠ .none → st < 256 →
    let t := s.finish c q (st, ds)
    let m := (t.ctx c).ses.mbox
    (t.ctx c).ses.done = q % 65536 ∧ leNat (Memory.readBytes m 256 2) = q % 65536 ∧
    leNat (Memory.readBytes m 258 1) = st ∧ leNat (Memory.readBytes m 259 5) = 0 ∧
    (∀ i < min 248 ds.length, Memory.read m (264 + i) = ds.getD i 0) ∧
    (∀ a < 256, Memory.read m a = Memory.read (s.ctx c).ses.mbox a) ∧
    t.mem = s.mem ∧ t.crofts = s.crofts ∧ t.flights = s.flights ∧ (∀ n, n ≠ (s.ctx c).ses.modQpn → t.qp n = s.qp n) ∧
    (∃ u : State, t = u.event c 0x000D [(q % 65536, 16), (st, 8)] ∧ u.out = s.out))

/-- R438, R452–R454, R468, R470. -/
def Obligations.SessionsOpenAndLapse : Prop :=
  (∀ (port sub : Nat) (src : Sender) (m : SesOpen) (s : State), (s.sub port sub).up = true → s.portRole port sub = 0 →
    s.group.fenced = false → src.fr.len ≤ 9216 → src.fr.plain = true →
    exec (.sesOpen port sub { src with fr := { src.fr with ce := true } } m) s =
      exec (.sesOpen port sub { src with fr := { src.fr with ce := false } } m) (s.markedUd port sub { src with fr := { src.fr with ce := true } }) ∧
    (src.fr.ce = false → src.qkey ≠ 0x00004081 → exec (.sesOpen port sub src m) s = .next s)) ∧
  (∀ (port sub dqpn c code : Nat) (dip : BitVec 128) (nonce : Reg) (s : State),
    let y := (s.ctx c).ses
    let out := fun token qpn key => s.send (.sesReply port sub dqpn dip c code 1 2 token qpn featDevice (s.ctx c).featActive nonce
      0x030000000000 key)
    s.reply port sub dqpn dip c code nonce = if code = 0 then out y.token y.modQpn y.winKey else out 0 0 0) ∧
  (∀ (port sub : Nat) (src : Sender) (m : SesOpen) (s : State), (s.sub port sub).up = true → s.portRole port sub = 0 →
    s.group.fenced = false → src.fr.len ≤ 9216 → src.fr.plain = true → src.fr.ce = false → src.qkey = 0x00004081 → s.cacheRoom = false →
    exec (.sesOpen port sub src m) s = .next { s with net := { s.net with dropUd := s.net.dropUd + 1 } }) ∧
  (∀ (port sub : Nat) (src : Sender) (m : SesOpen) (s : State), (s.sub port sub).up = true → s.portRole port sub = 0 →
    s.group.fenced = false → src.fr.len ≤ 9216 → src.fr.plain = true → src.fr.ce = false → src.qkey = 0x00004081 → s.cacheRoom = true →
    s.up 1 = true →
    (∀ c, s.openAgain m = some c →
      exec (.sesOpen port sub src m) s = .next (s.reply port sub src.qpn src.addr c 0 m.nonce)) ∧
    (s.openAgain m = none →
      let t := s.openTarget m
      let c := t.getD (min 15 (m.ctx % 256))
      let x := (s.ctx c).ses
      let code := fun k => exec (.sesOpen port sub src m) s = .next (s.reply port sub src.qpn src.addr c k m.nonce)
      let abi := 1 ≤ m.abiMajor % 65536 ∧ m.abiMajor % 65536 ≤ 2
      (s.phase ≠ 6 → code 5) ∧
      (s.phase = 6 → ¬abi → code 1) ∧
      (s.phase = 6 → abi → t = none → code 3) ∧
      (s.phase = 6 → abi → t.isSome = true → x.state = .opened ∨ x.state ≠ .none ∧ m.resume = false → code 2) ∧
      (s.phase = 6 → abi → t.isSome = true → x.state ≠ .opened → m.resume = true →
          x.state ≠ .detached ∨ x.token ≠ m.token ∨ 600000000 ≤ s.sinceRenewal c →
        code 4) ∧
      (s.phase = 6 → abi → t.isSome = true → x.state = .none ∧ m.resume = false ∨
          x.state = .detached ∧ m.resume = true ∧ x.token = m.token ∧ s.sinceRenewal c < 600000000 →
        exec (.sesOpen port sub src m) s = .next ((s.acceptOpen port sub c m).reply port sub src.qpn src.addr c 0 m.nonce)))) ∧
  (∀ (port sub c qpn : Nat) (m : SesOpen) (s : State), (s.ctx c).exist = true →
    (s.dropQps (fun n q => q.session && q.ctx == c && n == (s.ctx c).ses.modQpn)).freeQpn = some qpn →
    let t := s.acceptOpen port sub c m
    let y := (t.ctx c).ses
    let q := t.qp qpn
    (t.ctx c).exist = true ∧ y.state = .opened ∧ y.hostQpn = m.hostQpn % 2 ^ 24 ∧ y.nonce = m.nonce ∧ y.modQpn = qpn ∧
    y.age = 0 ∧ y.evrAddr % 64 = 0 ∧ q.used = true ∧ q.session = true ∧ q.ctx = c ∧ q.state = 3 ∧ q.dqpn = m.hostQpn % 2 ^ 24 ∧
    q.dip = m.hostIp ∧ q.sqPsn = 0 ∧ q.rqPsn = 0 ∧ (∀ d, d ≠ c → t.ctx d = s.ctx d)) ∧
  (∀ (c : CtxId) (s : State), (s.ctx c).ses.state = .opened → s.up 1 = true →
    ((s.ctx c).lease * 1000 < s.sinceRenewal c → exec (.leaseLapse c) s = .next (s.detach c)) ∧
    (s.sinceRenewal c ≤ (s.ctx c).lease * 1000 → exec (.leaseLapse c) s = .next s)) ∧
  (∀ (c : CtxId) (s : State), (s.ctx c).ses.state = .detached →
    (s.sinceRenewal c < 600000000 → exec (.releaseTimeout c) s = .next s) ∧
    (600000000 ≤ s.sinceRenewal c → c.val = 0 → exec (.releaseTimeout c) s = .next (s.endSession 0)) ∧
    (600000000 ≤ s.sinceRenewal c → c.val ≠ 0 →
      let t := ((s.modCtx c (fun x => { x with ses := { x.ses with state := .releasing } })).writeCheckpoint c).releaseCtx c true
      exec (.releaseTimeout c) s = .next (if t.grouped then t.askReport t.devid whySelfFailed else t))) ∧
  (∀ (c : CtxId) (v : Reg) (s : State), (s.ctx c).ses.state = .opened → exec (.sesRenew c v) s =
    .next (s.modCtx c (fun x => { x with ses := { x.ses with age := 0 } })))

/-- R248, R465. -/
def Obligations.SessionCommands : Prop :=
  (∀ (c : CtxId) (q : Nat) (s : State), s.takes c 1 →
    let t := s.taken c q
    exec (.closeDetach c q) s = .next ((t.detach c).finish c q (0, [])) ∧
    (c.val = 0 → exec (.closeRelease c q) s = .next (t.finish c q (3, []))) ∧
    (c.val ≠ 0 → exec (.closeRelease c q) s = .next ((t.releaseCtx c false).finish c q (0, [])))) ∧
  (∀ (c : CtxId) (q : Nat) (s : State), s.takes c 3 →
    let t := s.taken c q
    (s.up 5 = true → t.anyActive c = false → (t.ctx c).uncommitted ≠ [] →
      exec (.launch c q) s = .next ((t.launchCtx c).finish c q (0, []))) ∧
    (s.up 5 = true → t.anyActive c = true ∨ (t.ctx c).uncommitted = [] → exec (.launch c q) s = .next (t.finish c q (3, []))) ∧
    (s.up 5 = false → exec (.launch c q) s = .next (t.hold 5 (.launch c q)))) ∧
  (∀ (q d b : Nat) (s : State), s.takes 0 1 →
    let t := s.taken 0 q
    let k := min 15 (d % 256)
    let free := freeBell (t.switches.length + 1) t.switches (max b (t.bellNow + 1))
    ((t.ctx k).exist = true → exec (.switch 0 q d b) s =
      .next ({ t with switches := Table.put t.switches free k }.finish 0 q (0, []))) ∧
    ((t.ctx k).exist = false → exec (.switch 0 q d b) s = .next (t.finish 0 q (3, [])))) ∧
  (∀ (c : CtxId) (q : Nat) (descs : List StepDesc) (s : State), s.takes c 3 → descs.length ≤ 3 →
    let t := s.taken c q
    let x := t.ctx c
    let ds := descs.map StepDesc.clamped
    let fits := x.steps.length + ds.length ≤ 4 ∧ x.regionGib ≠ 0 ∧ (∀ d ∈ ds, x.inRegion d = true) ∧
      (x.feat 5 = true ∨ ds.length ≤ 1)
    (stepsFollow x.lastSub ds = false ∨ x.parked = true → exec (.submit c q descs) s = .next (t.finish c q (3, []))) ∧
    (stepsFollow x.lastSub ds = true → x.parked = false → ¬fits → exec (.submit c q descs) s = .next (t.finish c q (4, []))) ∧
    (stepsFollow x.lastSub ds = true → x.parked = false → fits →
      exec (.submit c q descs) s = .next ((t.holdSteps c ds).finish c q (0, [])))) ∧
  (∀ (c : CtxId) (q a : Nat) (n : BitVec 32) (s : State), s.takes c 1 → exec (.semAdd c q a n) s =
    .next (((s.taken c q).change c (a % 2 ^ 24) n.toInt none).finish c q (0, [])))

/-- R421, R431, R434, R460, R465. -/
def Obligations.QueuePairAndPortCommands : Prop :=
  (∀ (c : CtxId) (q n : Nat) (bytes : List Byte) (s : State), s.takes c 2 →
    let t := s.taken c q
    (t.freeQpn = none → exec (.qpCreate c q bytes) s = .next (t.finish c q (4, []))) ∧
    (t.freeQpn = some n →
      let a := ({} : Qp).setFields bytes
      let a := if c.val = 0 then a else { a with ctx := c }
      let a := { a.startPsn a.sqPsn a.rqPsn with
        used := true, rate := t.subportRate a.port, target := t.subportRate a.port, alpha := 65536 }
      exec (.qpCreate c q bytes) s = .next (((t.enterQp n a 0).cacheIn n).finish c q (0, leBytes 4 n))) ∧
    (let old := t.qp (n % 2 ^ 20)
     let new := old.setFields bytes
     (old.used = true → old.ctx = c → qpChangeOk old.state new.state = true → exec (.qpModify c q n bytes) s =
        .next ((t.enterQp (n % 2 ^ 20) ((if c.val = 0 then new else { new with ctx := c }).keepWatermark old) old.state).finish c q
          (0, []))) ∧
     (old.used = false ∨ old.ctx ≠ c ∨ qpChangeOk old.state new.state = false →
        exec (.qpModify c q n bytes) s = .next (t.finish c q (3, []))) ∧
     (old.used = true → old.holds = [] → exec (.qpDestroy c q n) s =
        .next (((t.enterQp (n % 2 ^ 20) { old with state := 0 } old.state).dropQps (fun m _ => m == n % 2 ^ 20)).finish c q
          (0, []))) ∧
     (old.used = false → exec (.qpDestroy c q n) s = .next (t.finish c q (0, []))) ∧
     (old.used = true → old.holds ≠ [] → exec (.qpDestroy c q n) s = .next (t.finish c q (3, []))))) ∧
  (∀ (old new : Nat), qpChangeOk old new = true ↔
    new = old ∨ new = 0 ∨ new = 4 ∨ old = 0 ∧ new = 1 ∨ old = 1 ∧ new = 2 ∨ old = 2 ∧ new = 3) ∧
  (∀ (c : CtxId) (q n : Nat) (s : State), s.takes c 1 →
    let t := s.taken c q
    exec (.qpQuery c q n) s = .next (({ t with fresh := t.fresh + 16 }).finish c q
      (0, (t.qp (n % 2 ^ 20)).bytes (n % 2 ^ 20) ++ (List.range 16).map (fun i => Config.freeByte (t.fresh + i))))) ∧
  (∀ (q port sub : Nat) (v4 : BitVec 32) (v6 : BitVec 128) (s : State), s.takes 0 2 →
    let t := s.taken 0 q
    exec (.portAddr 0 q port sub v4 v6) s = .next ((t.setSub (min 7 port) (min 3 sub)
      { t.sub (min 7 port) (min 3 sub) with ipv4 := v4, ipv6 := v6 }).finish 0 q (0, []))) ∧
  (∀ (q epoch period : Nat) (s : State), s.takes 0 1 →
    let t := s.taken 0 q
    (t.tenants = true → exec (.bellSet 0 q epoch period) s = .next (t.finish 0 q (3, []))) ∧
    (t.tenants = false → exec (.bellSet 0 q epoch period) s =
      .next (({ t with bellEpoch := epoch % 2 ^ 64, bellPeriod := clampTo 50 10000 period }.setPhase 5).finish 0 q (0, []))))

/-- R8, R286, R287, R403, R456–R458, R464. -/
def Obligations.RegisterWritesApply : Prop :=
  (∀ (c : CtxId) (off : Nat) (v : Reg) (s : State), s.serves c = true →
    let t := s.renew c
    (s.group.fenced = false → mayWrite c off = true → s.up 1 = true → s.up (ownerOf off) = true →
      exec (.registerWrite c off v) s = .next (t.applyWord c off v.toNat)) ∧
    (s.group.fenced = false → mayWrite c off = true → s.up 1 = true → s.up (ownerOf off) = false →
      exec (.registerWrite c off v) s = .next (t.hold (ownerOf off) (.registerWrite c off v))) ∧
    (s.group.fenced = false → mayWrite c off = true → s.up 1 = false →
      exec (.registerWrite c off v) s = .next (t.hold 1 (.registerWrite c off v))) ∧
    (s.group.fenced = true ∨ mayWrite c off = false → exec (.registerWrite c off v) s = .next t)) ∧
  (∀ (c : CtxId) (off : Nat) (v : Reg) (s : State), s.serves c = false → exec (.registerWrite c off v) s = .next s) ∧
  (∀ (c : CtxId) (s : State), s.serves c = true → s.group.fenced = false → s.up 1 = true → s.up 5 = true →
    let set := fun (k : Nat) => State.modCtx (s.renew c) c (fun x => { x.putReg 0x078 k with applyAsk := k })
    exec (.applyRcp c) s = .next (set 1) ∧ exec (.applyThr c) s = .next (set 2) ∧ exec (.applyRung c) s = .next (set 4)) ∧
  (∀ (x : Ctx) (v : Nat), v < 2 ^ 32 →
    (x.write 0x01C v).reg 0x01C = BitVec.ofNat 32 v ∧ (x.write 0x01C v).regEff 0x048 = x.regEff 0x048 ∧
    (x.write 0x048 v).reg 0x048 = BitVec.ofNat 32 (v % 65536) ∧ (x.write 0x048 v).regEff 0x048 = x.regEff 0x048 ∧
    ((x.write 0x048 v).latch false).regEff 0x048 = BitVec.ofNat 32 (v % 65536)) ∧
  (∀ (c : CtxId) (g : Nat) (s : State), (s.ctx c).exist = true → (s.ctx c).regionGib ≠ clampTo 1 64 g →
    ((s.ctx c).steps = [] → exec (.ledgerRegionAllocate c g) s = .next (match s.bestRegion c (clampTo 1 64 g) with
      | some r => s.modCtx c (fun x => x.setRegion r.1 r.2)
      | none => s.modCtx c (fun x => x.setRegion 0 0))) ∧
    ((s.ctx c).steps ≠ [] → exec (.ledgerRegionAllocate c g) s = .next (s.modCtx c (fun x => { x with ledIgnored := true })))) ∧
  (∀ (s : State) (c n a g : Nat), s.bestRegion c n = some (a, g) →
    1 ≤ g ∧ g ≤ n ∧ s.regionFree c a g = true ∧ (∀ k, g < k → k ≤ n → s.findRegion c k = none)) ∧
  (∀ (s : State) (c : CtxId) (v : Nat), (s.ctx c).ses.state = .opened → (s.ctx c).ses.busy = false →
    let x := (s.ctx c).ses
    let seq := v % 65536
    let m := Memory.readBytes x.mbox 0 256
    let t := s.modCtx c (fun x => { x with ses := { x.ses with lastGo := seq } })
    (leNat ((m.drop 2).take 2) ≠ seq → s.go c v = t.finish c seq (5, [])) ∧
    (leNat ((m.drop 2).take 2) = seq → leNat (m.take 2) = 1 →
      s.go c v = t.takeIn 1 (.renew c seq) (doRenew c seq)) ∧
    (leNat ((m.drop 2).take 2) = seq → leNat (m.take 2) = 0x96 → c.val ≠ 0 → s.up 1 = true → s.go c v = t.finish c seq (2, [])) ∧
    (leNat ((m.drop 2).take 2) = seq → leNat (m.take 2) = 0x7F → s.go c v = t.finish c seq (1, [])))

/-- R488–R495, R505. -/
def Obligations.FirmwareUpdates : Prop :=
  (∀ (q addr len : Nat) (s : State), s.takes 0 6 →
    let t := s.taken 0 q
    (t.fw.updState = 0 ∨ t.fw.updState = 2 →
      let bs := t.stagedBytes addr (len % 2 ^ 32)
      exec (.fwStage 0 q addr len) s = .next (({ t with fw := { t.fw with
        staging := some (bundleResult bs t.sec.fwSvn, readBundle bs) } }.setUpd 1 0).finish 0 q (0, []))) ∧
    (t.fw.updState ∈ [1, 3, 4, 5] → exec (.fwStage 0 q addr len) s = .next (t.finish 0 q (3, []))) ∧
    (t.fw.updState ≠ 2 ∨ t.fw.isStaged = false → exec (.fwActivate 0 q) s = .next (t.finish 0 q (3, []))) ∧
    (t.fw.updState = 2 → t.fw.isStaged = true → t.stagedBundle.minPrev.toNat ≤ t.fwVersion →
      exec (.fwActivate 0 q) s = .next (({ t with fw := { t.fw with
        order := [6, 5, 2, 4, 3, 1, 7].filter (fun k => !t.fw.onStaged.contains k), waitSince := t.bellNow } }.setUpd 4 0).fwEvent.finish
          0 q (0, []))) ∧
    (t.fw.updState = 2 → t.fw.isStaged = true → t.fwVersion < t.stagedBundle.minPrev.toNat →
      exec (.fwActivate 0 q) s = .next (({ t with fw := { t.fw with
        activeB := !t.fw.activeB, isStaged := false, stg := 0 } }.setUpd 0 7).fwEvent.finish 0 q (0, []))) ∧
    exec (.fwCatalogue 0 q addr len) s = .next (({ t with fresh := t.fresh + 1 }.toHost 0 addr
      ((Config.free64 t.fresh).setWidth 32) ((t.core 7).img.catalogue.take len)).finish 0 q (0, []))) ∧
  (∀ (s : State) (addr len : Nat), s.stagedBytes addr len =
    if inHbm (addr % 2 ^ 48 / 64 * 64) len then Memory.readBytes s.mem (addr % 2 ^ 48 / 64 * 64) len else []) ∧
  (∀ (bs : List Byte) (svn : Nat), bundleResult bs svn =
    if bundleFormOk bs = false then 2 else if leNat ((bs.drop 6).take 1) ≠ 0xB0 then 6
    else if signatureValid 0 (bs.take 512) ((bs.drop 512).take 64) = false then 3
    else if ∃ e ∈ bundleImages bs, sha256 (imageBytes bs e) ≠ e.2.2.2 then 4
    else if leNat ((bs.drop 24).take 4) < svn then 5 else 0) ∧
  (∀ (ok : Bool) (res : Nat) (b : Bundle) (s : State), s.fw.staging = some (res, b) →
    let f := { s.fw with staging := none }
    (s.up 6 = false → exec (.stagingDone ok) s = .next (s.hold 6 (.stagingDone ok))) ∧
    (s.up 6 = true → res ≠ 0 → exec (.stagingDone ok) s =
      .next ({ s with fw := f }.setUpd (if s.fw.isStaged then 2 else 0) res).fwEvent) ∧
    (s.up 6 = true → res = 0 → exec (.stagingDone false) s =
      .next ({ s with fw := { f.putInactive {} with isStaged := false, stg := 0 } }.setUpd 0 10).fwEvent) ∧
    (s.up 6 = true → res = 0 → exec (.stagingDone true) s = .next ({ s with fw := { f.putInactive b with
      isStaged := true, stg := b.version, onStaged := [] } }.setUpd 2 0).fwEvent)) ∧
  (∀ (q k : Nat) (s : State), s.takes 0 1 →
    let t := s.taken 0 q
    (min 7 (k % 256) = 0 ∨ min 7 (k % 256) = 7 ∧ t.emergency = true ∨ t.fw.updState ∈ [3, 4, 5] →
      exec (.fwRestart 0 q k) s = .next (t.finish 0 q (3, []))) ∧
    (1 ≤ k → k ≤ 7 → (k = 7 → t.emergency = false) → t.fw.updState ∉ [3, 4, 5] → (t.core k).state ≠ 0 →
      exec (.fwRestart 0 q k) s = .next (t.finish 0 q (0, []))) ∧
    (1 ≤ k → k ≤ 7 → (k = 7 → t.emergency = false) → t.fw.updState ∉ [3, 4, 5] → (t.core k).state = 0 →
      exec (.fwRestart 0 q k) s = .next ((t.askRestart k 4).finish 0 q (0, [])))) ∧
  (∀ s : State, s.fw.updState = 3 → s.msPast s.fw.waitSince 10000 = true →
    (s.up 6 = true → exec .activationLapse s = .next ({ s with fw := { s.fw with order := [] } }.setUpd 2 8).fwEvent) ∧
    (s.up 6 = false → exec .activationLapse s = .next (s.hold 6 .activationLapse))) ∧
  (∀ (k : Fin 8) (s : State), s.fw.current = some k.val ∨ k = 6 ∧ s.fw.updState ∈ [3, 4] ∧ (s.core 6).state = 1 →
    s.msPast (s.core k).since 50 = true →
    exec (.restartTimeout k) s = .next (s.setCore k { s.core k with state := 2 }).rollback) ∧
  (∀ s : State, s.rollback = (({ s with fw := { s.fw with
    order := [], current := none, undo := s.fw.current.toList ++ s.fw.onStaged.reverse } }.setUpd (if s.fw.updState = 1 then 1 else 2) 9).fwEvent).startWaiting
      false) ∧
  (∀ s : State, s.fw.updState = 5 → s.msPast s.fw.confirmSince 60000 = true → s.up 6 = false →
    exec .confirmation s = .next (s.hold 6 .confirmation)) ∧
  (∀ s : State, s.fw.updState = 5 → s.msPast s.fw.confirmSince 60000 = true → s.up 6 = true → ∃ t, exec .confirmation s = .next t ∧
    t.sec.fwSvn = max s.sec.fwSvn s.stagedBundle.svn ∧ t.fw.activeB = !s.fw.activeB ∧ t.fw.updState = 0 ∧ t.fw.updResult = 1 ∧
    t.fw.onStaged = [] ∧ t.fw.isStaged = false ∧ t.fw.stg = 0 ∧ t.fw.cores = s.fw.cores ∧ t.mem = s.mem)

/-- R458, R467, R474–R482. -/
def Obligations.FirmwareCoresRestart : Prop :=
  (∀ (k : Fin 8) (s : State), (s.core k).state = 0 → k.val ≠ 0 → 2 ≤ s.phase → s.phase ≠ 7 →
    s.fw.updState ≠ 5 → s.fw.onStaged.contains k.val = false →
    (s.restarting = false → (k.val = 7 → s.emergency = false) →
      exec (.watchdogExpiry k) s = .next (s.beginRestart k 1)) ∧
    (s.restarting = true → (k.val = 7 → s.emergency = false) →
      exec (.watchdogExpiry k) s = .next (s.setCore k { s.core k with state := 2, why := 1 })) ∧
    (k.val = 7 → s.emergency = true → exec (.watchdogExpiry k) s =
      .next ((s.setCore k { s.core k with state := 2, why := 1 }).modPwr (fun p => { p with hold := true })))) ∧
  (∀ (k : Fin 8) (s : State), (s.core k).state = 0 → k.val ≠ 0 → 2 ≤ s.phase → s.phase ≠ 7 → s.fw.onStaged.contains k.val = true →
    exec (.watchdogExpiry k) s = .next ((s.setCore k { s.core k with state := 2, why := 5 }).modPwr
      (fun p => { p with hold := p.hold || (k.val == 7 && s.emergency) })).rollback) ∧
  (∀ s : State, (s.core 0).state = 0 →
    (2 ≤ s.phase → exec (.watchdogExpiry 0) s =
      .next ({ s with fresh := s.fresh + 1 }.moduleReset 6 (bits (Config.free64 s.fresh) 2 0))) ∧
    (s.phase < 2 → exec (.watchdogExpiry 0) s = .next ((s.setCore 0 { s.core 0 with state := 3 }).bootFailed 5))) ∧
  (∀ (k why : Nat) (s : State),
    let x := s.core k
    let img := s.fw.toLoad k why
    let recent := x.recent.filter (fun b => (s.bellNow - b) * s.bellPeriod ≤ 600000000)
    let c : Core := { state := 1, reason := why, slot := img.slot, img := img, restarts := min 65535 (x.restarts + 1), since := s.bellNow
                      recent := if why = 3 ∨ why = 4 then recent else s.bellNow :: recent }
    let t := { s with fw := { s.fw.keepImages k why x.img img with
      frozen := Table.put s.fw.frozen k (s.shadowCopies k) } }.setCore k c
    let ev := fun fatal => State.eventAll t 0x0100 [(k, 8), (why, 4), (fatal, 1), (min 65535 (x.restarts + 1), 16), ((t.coreVersion k).toNat, 64)]
    (why = 3 ∨ why = 4 ∨ recent.length < 3 → s.beginRestart k why = ev 0) ∧
    (why ≠ 3 → why ≠ 4 → 3 ≤ recent.length → s.beginRestart k why = (ev 1).coreFatal)) ∧
  (∀ (f : Firmware) (k why : Nat), why ≠ 3 → why ≠ 5 →
    ((∃ i ∈ Table.get [] f.copies k, i.hash = Table.get 0 f.loads k) →
      f.toLoad k why ∈ Table.get [] f.copies k ∧ (f.toLoad k why).hash = Table.get 0 f.loads k) ∧
    ((∀ i ∈ Table.get [] f.copies k, i.hash ≠ Table.get 0 f.loads k) → f.toLoad k why = f.flashImage f.activeB k)) ∧
  (∀ (s : State) (off : Nat) (r : Reg), s.up (ownerOf off) = false → (off, r) ∈ Table.get [] s.fw.frozen (ownerOf off) →
    ((Table.get [] s.fw.frozen (ownerOf off)).map (·.1)).Nodup → s.readWord off = r) ∧
  (∀ (k : Fin 8) (s : State), (s.core k).state = 1 →
    let u := (s.setCore k { s.core k with state := 0 }).measureCore k
    let w := if k = 2 then u.resumeFp2 else if k = 7 then u.modPwr (fun p => { p with hold := false }) else u
    exec (.coreRunning k) s = .next (((w.activated k).replayLate k).startWaiting false)) ∧
  (∀ (s : State) (k : Nat), s.fw.current ≠ some k → s.activated k = s) ∧
  (∀ (s : State) (k : Nat) (is : List Instr), s.fw.late = is.map (fun i => (k, i)) →
    s.replayLate k = is.foldl State.runLate { s with fw := { s.fw with late := [] } }) ∧
  (∀ (c : CtxId) (s : State), exec (.eventFlush c) s = .next (s.flushEvents c)) ∧
  (∀ (c : CtxId) (s : State) (e : Event) (es : List Event), (s.ctx c).ses.state = .opened → (s.ctx c).ringFull = false →
    s.up 1 = true → (s.ctx c).ses.staged = e :: es →
    ((s.ctx c).ses.lost = 0 ∨ (s.ctx c).ses.told = true → s.flushEvents c = flushGo (stagedMax + 1)
      ((s.modCtx c (fun x => { x with ses := { x.ses with staged := es, told := !es.isEmpty } })).writeEvent c e) c) ∧
    ((s.ctx c).ses.lost ≠ 0 → (s.ctx c).ses.told = false → s.flushEvents c = flushGo (stagedMax + 1)
      ((s.modCtx c (fun x => { x with ses := { x.ses with told := true } })).writeEvent c
        ⟨0x000F, c, s.bellNow, [((s.ctx c).ses.lost, 32)]⟩) c)) ∧
  (∀ s : State, s.up 6 = true → 2 ≤ s.phase → ∃ t, exec .logCopy s = .next t ∧ t.fw.logQueue = [] ∧
    t.fw.logRing.length ≤ logSlots ∧ t.mem = s.mem ∧ t.ctxs = s.ctxs ∧ t.out = s.out ∧
    (∀ r ∈ s.fw.logQueue, s.fw.logQueue.length ≤ logSlots - 8 → r ∈ t.fw.logRing)) ∧
  (∀ s : State, s.up 6 = false → 2 ≤ s.phase → ∃ t, exec .logCopy s = .next t ∧ t.fw.logRing = s.fw.logRing ∧
    ∃ new : List LogRec, t.fw.logQueue = s.fw.logQueue ++ new ∧ new.length ≤ 8)

/-- R502, R503, R506–R509, R536. -/
def Obligations.SecurityCommands : Prop :=
  (∀ (c : CtxId) (q addr : Nat) (key : Reg) (nonce : BitVec 256) (s : State), s.takes c 1 →
    let t := s.taken c q
    let body := t.reportBody nonce
    exec (.attest c q addr key nonce) s = .next ((t.postHost (t.ctx c).ses.modQpn
      [(addr, key, body ++ ecdsaSign (t.sec.idKey.getD 0) body)]).finish c q (0, [])) ∧
    exec (.identity c q addr key) s = .next ((t.postHost (t.ctx c).ses.modQpn
      [(addr, key, publicKey (t.sec.idKey.getD 0) ++ Config.certificate.take 2048)]).finish c q (0, []))) ∧
  (∀ (s : State) (n a : Nat) (k : Reg) (bs : List Byte), s.postHost n [(a, k, bs)] =
    (s.modQp n (fun q => { q with work := q.work.filter (fun w => w.owner != .control) })).post n .control ((s.qp n).packets bs.length)
      true (fun p => .hostWrite n p a k bs)) ∧
  (∀ (c : CtxId) (q addr : Nat) (key : Reg) (s : State), s.takes c 6 →
    let t := s.taken c q
    exec (.hlthDump c q addr key) s =
      .next ((t.postHost (t.ctx c).ses.modQpn [(addr, key, t.hlth.dump)]).finish c q (0, []))) ∧
  (∀ (s : State) (nonce : BitVec 256), (s.reportBody nonce).length = 448 ∧
    let f := fun o n => leNat (((s.reportBody nonce).drop o).take n)
    f 0 4 = 0x54415458 ∧ f 4 2 = 1 ∧ f 6 2 = 0x4081 ∧ f 8 1 = 0xB0 ∧ f 10 2 = s.devid % 2 ^ 16 ∧ f 24 8 = s.bellNow % 2 ^ 64 ∧
    f 40 4 = s.sec.fwSvn % 2 ^ 32 ∧ f 44 4 = s.sec.cfgSvn % 2 ^ 32 ∧ ((s.reportBody nonce).drop 48).take 32 = leBytes 32 nonce.toNat) ∧
  (∀ (q : Nat) (data : List Byte) (ok : Bool) (s : State), s.takes 0 1 →
    let t := s.taken 0 q
    let r := (readCfg data).result t.sec.cfgSvn ok
    (t.fw.updState = 1 → exec (.cfgUpdate 0 q data ok) s = .next (t.finish 0 q (3, []))) ∧
    (t.fw.updState ≠ 1 → r = 0 → exec (.cfgUpdate 0 q data ok) s =
      .next (({ t with sec := { t.sec with cfgNext := some (readCfg data) } }.secEvent 2 0).finish 0 q (0, leBytes 1 0))) ∧
    (t.fw.updState ≠ 1 → r ≠ 0 → exec (.cfgUpdate 0 q data ok) s = .next ((t.secEvent 3 r).finish 0 q (0, leBytes 1 r)))) ∧
  (∀ (q : Nat) (s : State), s.takes 0 1 →
    let t := s.taken 0 q
    let n := Config.free256 t.fresh
    (8 ≤ t.sec.dbgFail → exec (.dbgChallenge 0 q) s = .next (t.finish 0 q (4, []))) ∧
    (t.sec.dbgFail < 8 → exec (.dbgChallenge 0 q) s = .next ({ t with fresh := t.fresh + 1, sec := { t.sec with nonce := some n } }.finish
      0 q (0, leBytes 32 n.toNat ++ leBytes 8 Config.serial.toNat)))) ∧
  (∀ (q : Nat) (token : List Byte) (s : State), s.takes 0 1 →
    let t := s.taken 0 q
    let r := t.tokenResult (token.take 128)
    let u := { t with sec := { t.sec with nonce := none } }
    (t.tenants = true → exec (.dbgUnlock 0 q token) s = .next (({ u with
      fresh := u.fresh + 1, sec := { u.sec with dbgFail := min 8 (t.sec.dbgFail + 1) } }.secEvent 1 (bits (Config.free64 t.fresh) 7 0)).finish
        0 q (3, []))) ∧
    (t.tenants = false → r ≠ 0 → exec (.dbgUnlock 0 q token) s =
      .next (({ u with sec := { u.sec with dbgFail := min 8 (t.sec.dbgFail + 1) } }.secEvent 1 r).finish 0 q (0, leBytes 1 r))) ∧
    (t.tenants = false → r = 0 →
      let v := (u.unlock (token.take 128)).secEvent 0 0
      exec (.dbgUnlock 0 q token) s =
        .next (v.finish 0 q (0, leBytes 1 0 ++ leBytes 7 0 ++ leBytes 8 (v.ctx 0).ses.token.toNat)))) ∧
  (∀ (s : State) (t : List Byte), (s.unlock t).sec.debug = true ∧
    (s.unlock t).sec.rdOn = (s.sec.rdOn || (leNat ((t.drop 4).take 4)).testBit 0) ∧
    (s.unlock t).sec.wrOn = (s.sec.wrOn || (leNat ((t.drop 4).take 4)).testBit 1) ∧
    ((s.unlock t).ctx 0).key = Config.free256 s.fresh ∧
    ((s.unlock t).ctx 0).ses.token = Config.deriveToken (Config.free256 s.fresh) (s.ctx 0).ses.draws ∧
    (∀ c, c ≠ 0 → ((s.unlock t).ctx c).key = 0)) ∧
  (∀ (q dev host n : Nat) (data : List Byte) (s : State), s.takes 0 1 →
    let t := s.taken 0 q
    let a := dev % 2 ^ 48
    let len := n % 2 ^ 32 * 64
    (t.sec.rdOn = false ∨ t.mapped a len = false → exec (.dbgRead 0 q dev host n) s = .next (t.finish 0 q (3, []))) ∧
    (t.sec.rdOn = true → t.mapped a len = true → exec (.dbgRead 0 q dev host n) s =
      .next (({ t with fresh := t.fresh + 1 }.toHost 0 host ((Config.free64 t.fresh).setWidth 32) (t.deviceBytes a len)).finish 0 q
        (0, []))) ∧
    (t.sec.wrOn = false ∨ t.mapped a len = false → exec (.dbgWrite 0 q dev n data) s = .next (t.finish 0 q (3, []))) ∧
    (t.sec.wrOn = true → t.mapped a len = true → inHbm a len = true ∨ inSomeStore a len = true → ∃ m,
      exec (.dbgWrite 0 q dev n data) s = .next ({ t with mem := m }.finish 0 q (0, [])) ∧
      (∀ i < len, i < data.length → Memory.read m (a + i) = data.getD i 0) ∧
      (∀ b, b < a ∨ a + min len data.length ≤ b → Memory.read m b = Memory.read s.mem b)) ∧
    (t.sec.wrOn = true → t.mapped a len = true →
      exec (.dbgWrite 0 q dev n data) s = .next ((t.dbgPut a (data.take len)).finish 0 q (0, [])))) ∧
  (∀ (s : State) (a : Nat) (b : Byte) (bs : List Byte), s.dbgBytesTo a (b :: bs) = (s.dbgByte a b).dbgBytesTo (a + 1) bs) ∧
  (∀ (s : State) (a : Nat) (b : Byte), a < hbmEnd →
    (∀ c l o, areaPart a = some (.save c l o) → o < 0x420000 → s.dbgByte a b = s.putSaved a [b]) ∧
    (∀ p, areaPart a = some p → (∀ c l o, p ≠ .save c l o ∨ 0x420000 ≤ o) → (∀ c k o, p ≠ .image c k o) → (∀ n o, p ≠ .qp n o) →
      (s.dbgByte a b).deviceByte a = b)) ∧
  (∀ (s : State) (k : Nat) (data : List Byte), data.length = 4 →
    (k / 2 ^ 22 < 3 → k % 2 ^ 22 ≤ (if k / 2 ^ 22 = 2 then 16383 else 65535) →
      (s.dbgPut (0x020000000000 + 4 * k) data).tally.count k = signed 32 (leNat data)) ∧
    (k < 0x44000 → s.dbgPut (0x030000000000 + 4 * k) data = s.putWord (4 * k) (leNat data))) ∧
  (∀ (s : State) (c v : Nat), c < 16 → s.putWord ((c + 1) * 0x10000 + 0x00C) v = s) ∧
  (∀ (s : State) (a : Nat), inHbm a 1 = true ∨ inSomeStore a 1 = true → s.deviceByte a = Memory.read s.mem a)

/-- R504 ("A counter is never lowered") and R508 ("Only DBG_UNLOCK changes that"). -/
def Obligations.CountersOnlyRise : Prop :=
  ∀ s t : State, step s = .next t →
    s.sec.fwSvn ≤ t.sec.fwSvn ∧ s.sec.cfgSvn ≤ t.sec.cfgSvn ∧
    (s.sec.debug = false → t.sec.debug = true → ∃ i is, s.pending = i :: is ∧
      ((∃ c q token, i = .dbgUnlock c q token) ∨ (∃ c off v, i = .registerWrite c off v) ∨
        (∃ n p f va k d, i = .rdmaWriteInbound n p f va k d) ∨ (∃ n p f va k d m, i = .writeWithImmediate n p f va k d m) ∨
        (∃ n, i = .contextFetchDone n) ∨ (∃ k, i = .coreRunning k)))

/-- The form of main memory and of the saved stores over every step: rising addresses, no listed zero (log entry 5). -/
def Obligations.MemoryStaysCanonical : Prop := ∀ s t : State, s.memOk → step s = .next t → t.memOk

/-- R513, R519, R520, R523, R526, R530, R533; the input after an overvoltage is log entry 130. -/
def Obligations.PowerEventsAndResets : Prop :=
  (∀ s : State, s.pwr.isOn = true →
    (s.pwr.alert = false → exec .pwrAlert s = .next (((s.startEmergency.modPwr (fun p => { p with
      alert := true, alerts := min 65535 (p.alerts + 1) })).powerEvent 0 none).ibi 1)) ∧
    (s.emergency = true → s.startEmergency = s) ∧
    (s.emergency = false → s.startEmergency = { s with
      fresh := s.fresh + 1, pwr := { s.pwr with
        wait := bit (Config.free64 s.fresh) 0, latch := true, hold := s.pwr.hold || (s.core 7).state == 2 } })) ∧
  (∀ s : State, s.pwr.alert = true → exec .alertEnd s =
    .next (((s.modPwr (fun p => { p with alert := false })).powerEvent 1 none).ibi 1)) ∧
  (∀ (m : Temps) (s : State), s.pwr.isOn = true →
    let t := s.modPwr (fun p => { p with temps := m })
    ((∀ d < 11, tempOf m d < tripAt d) → exec (.sensorRead m) s = .next t) ∧
    (∀ d < 11, tripAt d ≤ tempOf m d → (∀ e < 11, tempOf m e < shutdownAt e) → (∀ e < 11, e ≠ d → tempOf m e < tripAt e) →
      exec (.sensorRead m) s = .next (t.trip d)) ∧
    ((∃ d, d < 11 ∧ shutdownAt d ≤ tempOf m d) → exec (.sensorRead m) s = .next (t.turnOff 3 true))) ∧
  (∀ (d : Nat) (s : State), d ∉ s.pwr.trips → s.trip d = (((s.startEmergency.modPwr (fun p => { p with
    trips := p.trips ++ [d], tripCount := min 65535 (p.tripCount + 1) })).powerEvent 2 (some (d, tempOf s.pwr.temps d))).ibi 2)) ∧
  (∀ (d : Nat) (s : State), d ∈ s.pwr.trips →
    (tempOf s.pwr.temps d < clearBelow d → exec (.tripClear d) s = .next (((s.modPwr (fun p => { p with
      trips := p.trips.filter (· != d) })).powerEvent 3 (some (d, tempOf s.pwr.temps d))).ibi 2)) ∧
    (clearBelow d ≤ tempOf s.pwr.temps d → exec (.tripClear d) s = .next s)) ∧
  (tripAt 0 = 105 ∧ tripAt 2 = 105 ∧ tripAt 3 = 100 ∧ clearBelow 2 = 100 ∧ clearBelow 10 = 95 ∧ shutdownAt 1 = 115 ∧
    shutdownAt 10 = 105) ∧
  (∀ s : State, exec .undervoltage s = .next (s.turnOff 1 false) ∧ exec .overvoltage s = .next (s.turnOff 2 true) ∧
    (s.pwr.isOn = true → s.phase = 0 → exec .powerGoodTimeout s = .next (s.turnOff 1 true))) ∧
  (∀ (s : State) (why : Nat) (b : Bool), s.pwr.isOn = true →
    let t := s.turnOff why b
    t.pwr.isOn = false ∧ t.pwr.offReason = why ∧ t.pwr.inRange = b ∧ t.hlth = s.hlth ∧ t.sec.fwSvn = s.sec.fwSvn ∧
    t.sec.cfgSvn = s.sec.cfgSvn ∧ t.sec.overlay = s.sec.overlay ∧ t.fw.activeB = s.fw.activeB ∧ t.mem = [] ∧ t.crofts = [] ∧
    t.saved = [] ∧ t.qps = [] ∧ t.flights = [] ∧ t.ctxs = State.reset.ctxs ∧ t.phase = 0 ∧ t.sec.debug = false ∧
    t.pwr.ibiMask = s.pwr.ibiMask ∧ t.pwr.dynAddr = s.pwr.dynAddr) ∧
  (∀ (k : Fin 8) (s : State),
    (s.pwr.inRange = true → exec (.resetN k) s = .next (s.moduleReset 4 k)) ∧
    (s.pwr.inRange = true → s.pwr.isOn = true → s.pwr.armed = true → exec (.sidebandReset k) s = .next (s.moduleReset 5 k)) ∧
    (s.pwr.isOn = false ∨ s.pwr.armed = false → exec (.sidebandReset k) s = .next s)) ∧
  (∀ (s : State) (why straps : Nat),
    let t := s.moduleReset why straps
    t.phase = 0 ∧ t.pwr = { offReason := why, alert := s.pwr.alert } ∧ t.slotId = straps ∧ t.hlth = s.hlth ∧ t.sec.fwSvn = s.sec.fwSvn ∧
    t.sec.overlay = s.sec.overlay ∧ t.sec.debug = false ∧ t.fw.activeB = s.fw.activeB ∧ t.mem = [] ∧ t.crofts = [] ∧
    t.ctxs = State.reset.ctxs ∧ t.tally = {} ∧ t.net = {} ∧ t.group = {} ∧ t.pending = s.pending) ∧
  (∀ (gone : Bool) (k : Fin 8) (s : State), s.pwr.isOn = false → ∃ t, exec (.inputTurnOn gone k) s = .next t ∧
    t.pwr.isOn = true ∧ t.pwr.offReason = (if gone then 0 else s.pwr.offReason) ∧
    t.hlth.cycles = min 65535 (s.hlth.cycles + 1) ∧
    t.hlth.matings = (if gone then min 65535 (s.hlth.matings + 1) else s.hlth.matings))

/-- R500, R502, R527, R528, R532–R534. -/
def Obligations.StartUpAndSideband : Prop :=
  (∀ s : State, s.pwr.isOn = true → s.phase = 0 →
    let t := { s.setPhase 1 with sec := { s.sec with idKey := some s.sec.puf } }
    let id : Prop := sha256 (publicKey s.sec.puf) = s.sec.certHash
    let ok := fun (b : Bool) => (s.fw.slot b).boots s.sec.fwSvn
    let loads := fun (b : Bool) => ok b && (s.fw.slot b).imagesOk
    let cfg := s.sec.cfg.passes s.sec.cfgSvn
    (¬ id → exec .boot s = .next (t.bootFailed 1)) ∧
    (id → ok true = false → ok false = false → exec .boot s = .next (t.bootFailed 2)) ∧
    (id → ok true = true ∨ ok false = true → cfg = false → exec .boot s = .next (t.bootFailed 3)) ∧
    (id → ok true = true ∨ ok false = true → cfg = true → loads true = false → loads false = false →
      exec .boot s = .next (t.loadCfg.bootFailed 2)) ∧
    (id → cfg = true → loads s.fw.activeB = true → exec .boot s = .next (t.loadCfg.bootFrom s.fw.activeB)) ∧
    (id → cfg = true → loads s.fw.activeB = false → loads (!s.fw.activeB) = true →
      exec .boot s = .next (t.loadCfg.bootFrom (!s.fw.activeB)))) ∧
  (∀ s : State,
    let t := s.loadCfg
    let c := s.sec.cfg
    t.sec.cfgSvn = max s.sec.cfgSvn c.svn ∧ t.sec.harvest = [0, 1].map (fun d => (d, c.harvest d)) ∧ t.sec.fwSvn = s.sec.fwSvn ∧
    t.net.mac = c.mac ∧ t.phase = s.phase ∧ t.fw = s.fw ∧
    (Table.has c.values 0x004 = true → t.devid = (Table.get 0 c.values 0x004).toNat % 2 ^ 16) ∧
    (Table.has c.values 0x020 = true → t.bellPeriod = clampTo 50 10000 (Table.get 0 c.values 0x020).toNat) ∧
    (∀ n < 8, Table.has c.values (0x040 + 8 * n) = true → t.reg (0x040 + 8 * n) = Table.get 0 c.values (0x040 + 8 * n))) ∧
  (∀ (s : State) (b : Bool), s.phase ≠ 2 →
    let t := s.bootFrom b
    let v := if b then 1 else 0
    t.phase = 2 ∧ t.sec.fallback = (b != s.fw.activeB) ∧ t.sec.fwSvn = s.sec.fwSvn ∧ t.sec.bootSlot = v ∧
    (t.ctx 0).key = Config.free256 s.fresh ∧
    (∀ k < 8, t.up k = true ∧ (t.core k).slot = v ∧ (t.core k).img.hash = Table.get 0 (s.fw.slot b).hashes k)) ∧
  (∀ (s : State) (why : Nat), (s.bootFailed why).phase = 7 ∧ (s.bootFailed why).pwr.bootFail = why) ∧
  (∀ s : State, s.phase = 2 →
    let t := s.enabledSubs.foldl (fun s e => s.train e.1 e.2) (s.setPhase 3)
    exec (.hbmTrainDone false) s = .next (s.bootFailed 4) ∧
    (s.allLinks = false → exec (.hbmTrainDone true) s = .next t) ∧
    (s.allLinks = true → exec (.hbmTrainDone true) s = .next t.lockTime)) ∧
  (∀ (port sub : Nat) (s : State),
    (min 2 (bits (s.portReg port) 28 27) = 2 → s.train port sub = s.send (.linkTrain port sub .module)) ∧
    (min 2 (bits (s.portReg port) 28 27) ≠ 2 → bit (s.portReg port) 26 = true →
      s.train port sub = s.send (.linkTrain port sub .negotiate)) ∧
    (min 2 (bits (s.portReg port) 28 27) ≠ 2 → bit (s.portReg port) 26 = false →
      s.train port sub = s.send (.linkTrain port sub .preset))) ∧
  (∀ s : State, s.phase = 3 → exec .linkUpTimeout s = .next s.lockTime) ∧
  (∀ s : State, s.phase ≠ 4 → s.net.ptpState ≠ 1 → s.net.ptpState ≠ 3 → s.lockTime = s.setPhase 4) ∧
  (∀ s : State, s.net.ptpState = 1 ∨ s.net.ptpState = 3 → (s.lockTime).phase = 5 ∧ s.lockTime.pwr.clk = 11) ∧
  (∀ (st dy : Nat) (s : State), s.pwr.inRange = true → s.pwr.dynAddr = none →
    let t := s.modPwr (fun p => { p with dynAddr := some dy })
    (st = 0x30 + s.slotId → exec (.setdasa st dy) s = .next t) ∧
    (st ≠ 0x30 + s.slotId → exec (.setdasa st dy) s = .next s) ∧ exec (.entdaa dy) s = .next t) ∧
  (∀ (i : Nat) (v : Reg) (s : State), s.pwr.inRange = true → s.pwr.dynAddr.isSome = true → i < 256 → ∃ t,
    exec (.sidebandWrite i (some v)) s = .next t ∧
    exec (.sidebandWrite i none) s = .next (s.modPwr (fun p => { p with index := i })) ∧
    t.pwr.index = i ∧ t.pwr.tray = (if i = 0x10 then clampTo 600 1400 (bits v 10 0) else s.pwr.tray) ∧
    t.pwr.armed = (decide (i = 0x11) && v == 0xA55A) ∧
    t.pwr.ibiMask = (if i = 0x12 then v.toNat &&& 0x1E else s.pwr.ibiMask) ∧ t.mem = s.mem ∧ t.pwr.clk = s.pwr.clk ∧
    (i = 0x10 → t.readSideband = BitVec.ofNat 32 (clampTo 600 1400 (bits v 10 0))) ∧
    (i = 0x12 → t.readSideband = BitVec.ofNat 32 (v.toNat &&& 0x1E)) ∧
    (i = 0x00 → t.readSideband = 0x4081B000) ∧ (i = 0x11 → t.readSideband = 0))

/-- R529–R531, R536. -/
def Obligations.HealthIsMeasured : Prop :=
  (∀ (d0 d1 : Int) (s : State), s.pwr.isOn = true → exec (.ringOscillatorMeasure d0 d1) s =
    .next { s with hlth := { s.hlth with drift0 := d0, drift1 := d1, hours := s.hlth.hours + 1 } }) ∧
  (∀ (ce eye : List Nat) (s : State), s.pwr.isOn = true → s.up 6 = true →
    (s.hlth.hours < s.hlth.dailyAt + 24 → exec (.healthDailyUpdate ce eye) s = .next s) ∧
    (s.hlth.dailyAt + 24 ≤ s.hlth.hours →
      let h := (s.hlth.takeDaily s.ptpTime ce eye).estimate s.ptpTime
      (90 ≤ s.hlth.days → h.days < 90 → exec (.healthDailyUpdate ce eye) s =
        .next ({ s with hlth := h }.eventAll 0x0121 [(h.days, 16), (h.limiter, 4)])) ∧
      (s.hlth.days < 90 ∨ 90 ≤ h.days → exec (.healthDailyUpdate ce eye) s = .next { s with hlth := h }))) ∧
  (∀ (v : Int) (vs : List Int), (addDaily v vs).length ≤ 30 ∧ (addDaily v vs).head? = some v) ∧
  (∀ (up : Bool) (limit v : Int), lineDays up limit (List.replicate 30 v) = none) ∧
  (∀ (limit v : Int), v ≤ limit →
    lineDays true limit ((List.range 30).map (fun i : Nat => v - (i : Int))) = some (limit - v).toNat) ∧
  (∀ (h : Health) (now : Nat), (h.estimate now).days ≤ 65535 ∧ (h.estimate now).daily = h.daily)

/-- R32, R159–R162, R248, R274. -/
def Obligations.TheBellActsInOrder : Prop :=
  (∀ (m : PowerMeas) (time : Nat) (s : State), s.phase = 5 ∨ s.phase = 6 ∨ s.phase = 8 →
    let a := (s.countBell time).applyClock.latch.flipActions.wakeBells.switchActions.sendActions
    exec (.bell m time) s =
      .next ((((a.powerTick m s.pwr.clk s.pwr.inEffect).activationTick.startWaiting true).firmwareTick).growLeases.countStalls.countFec.ptpTick)) ∧
  (∀ (m : PowerMeas) (time : Nat) (s : State), s.phase ≠ 5 → s.phase ≠ 6 → s.phase ≠ 8 →
    exec (.bell m time) s = .next s) ∧
  (∀ (time : Nat) (s : State),
    (s.phase ≠ 5 → s.countBell time = { s with bellNow := (s.bellNow + 1) % 2 ^ 64 }) ∧
    (s.phase = 5 → (s.countBell time).phase = 6 ∧
      (s.countBell time).bellNow = (time - s.bellEpoch) / (s.bellPeriod * 1000) % 2 ^ 64)) ∧
  (∀ (s : State) (b c : Nat), s.up 1 = true → s.switching = false → s.dueSwitch = some (b, c) →
    b ≤ s.bellNow ∧ (b, c) ∈ s.switches ∧ (∀ e ∈ s.switches, b ≤ e.1) ∧
    (c ≠ s.resident → (s.ctx c).exist = true → s.switchActions =
      { s with switches := s.switches.filter (fun d => d != (b, c)) }.beginSwitch c) ∧
    (c = s.resident → s.switchActions = { s with switches := s.switches.filter (fun d => d != (b, c)) })) ∧
  (∀ s : State, s.switching = true → (∀ f ∈ s.flights, f.blocks s.resident = false) →
    (s.ctx s.tally.swapIn).exist = true →
    let t := (List.range 288).foldl (fun s l => s.swapCroft s.resident s.tally.swapIn l) s
    exec .contextRestoreDone s = .next ((List.range 288).foldl (fun s l => allStrms.foldl (fun s t => s.retest l t) s)
      { t with resident := s.tally.swapIn, switching := false })) ∧
  (∀ s : State, s.switching = false → exec .contextRestoreDone s = .next s) ∧
  (∀ (c : CtxId) (k : CtxId) (l : Nat) (s : State), c ≠ k → l < 288 →
    let t := s.swapCroft c k l
    (∀ a < storeBytes, Memory.read (t.area c l).store a = Memory.read s.mem (storeOf l + a) ∧
      Memory.read t.mem (storeOf l + a) = Memory.read (s.area k l).store a) ∧
    (t.area c l).croft = { (s.croft l).mapStrms (fun y => { y with windows := [] }) with wires := [], operands := [] } ∧
    t.croft l = { (s.area k l).croft with wires := (s.croft l).wires, operands := [] }) ∧
  (∀ (c : CroftId) (st : Strm) (s : State) (a w : Nat) (n : Int) (r : Bool), (s.strm c st).waiting = .sem a n w r →
    s.switching = false → (s.ctx s.resident).waitWarn ≠ 0 → (s.ctx s.resident).waitWarn ≤ (s.strm c st).stallBells →
    (s.strm c st).stallSent = false → exec (.waitStall c st) s =
      .next ((s.setStrm c st { s.strm c st with stallSent := true }).event s.resident 0x0002 [(c, 16), (st.num, 8),
        ((s.strm c st).pc.toNat, 48), (a, 24), (signedField 32 n, 32), (signedField 32 (s.semCount s.resident a), 32)]))

/-- R376–R381. -/
def Obligations.GroupIsWatched : Prop :=
  (∀ (src : Nat) (r : Bool) (quiet : BitVec 16) (s : State), (∀ e ∈ s.group.suspects, e.dev ≠ src) →
    let heard := s.parent = some src ∨ s.isCoordinator = true ∧ s.deputy = some src
    let t := { s with group := { s.group with
      silent := Table.put s.group.silent src 0, held := Table.drop s.group.held src
      quietSeen := Table.put s.group.quietSeen src quiet
      parentSilent := if heard then 0 else s.group.parentSilent } }
    (s.isCoordinator = false → exec (.heartbeat .taken src r quiet) s = .next t) ∧
    (s.isCoordinator = true → exec (.heartbeat .taken src r quiet) s = .next t.tryResume)) ∧
  (∀ (src : Nat) (r : Bool) (quiet : BitVec 16) (e : Suspect) (s : State), s.group.suspects.find? (fun e => e.dev == src) = some e →
    let heard := s.parent = some src ∨ s.isCoordinator = true ∧ s.deputy = some src
    let t := { s with group := { s.group with
      silent := Table.put s.group.silent src 0, held := Table.drop s.group.held src
      quietSeen := Table.put s.group.quietSeen src quiet
      parentSilent := if heard then 0 else s.group.parentSilent } }
    ∃ u, exec (.probeReply .taken src) t = .next u ∧ (∀ x ∈ u.group.suspects, x.dev ≠ src) ∧
      exec (.heartbeat .taken src r quiet) s = .next u.tryResume) ∧
  (∀ (s : State) (dev : Nat) (e : Suspect), s.group.suspects.find? (fun e => e.dev == dev) = some e →
    let u := (s.faultEvent dev 0 e.reason e.reports e.first 0xFFFF).modGroup (fun g => { g.dropSuspect dev with
      clears := Table.put g.clears dev s.bellNow })
    let t := (u.sendDown u.groupTag (.notice dev 1)).requestUnsent dev
    exec (.probeReply .taken dev) s = .next t ∧ (∀ x ∈ u.group.suspects, x.dev ≠ dev)) ∧
  (∀ (dev : Nat) (s : State), dev ∈ s.watchSet → 4 ≤ Table.get 0 s.group.silent dev → s.group.fenced = false → s.up 4 = true →
    exec (.heartbeatTimeout dev) s = .next (s.sendReport dev 1)) ∧
  (∀ (dev : Nat) (s : State), dev ∉ s.watchSet ∨ Table.get 0 s.group.silent dev < 4 →
    exec (.heartbeatTimeout dev) s = .next s) ∧
  (∀ (dev why : Nat) (s : State), dev ∉ s.group.reported → dev ≠ s.devid → s.reportTo dev why ≠ s.devid →
    let t := s.modGroup (fun g => { g with
      reported := dev :: g.reported, held := Table.put g.held dev (Table.get 0 g.held dev ||| why) })
    s.sendReport dev why = t.sendMsg s.groupTag (s.reportTo dev why) (.report s.groupTag s.devid dev s.bellNow why)) ∧
  (∀ (dev why : Nat) (s : State), (dev ≠ s.coordinator → s.reportTo dev why = s.coordinator) ∧
    (dev = s.coordinator → s.isCoordinator = false → s.reportTo dev why = s.deputy.getD s.coordinator)) ∧
  (∀ s : State, 5 ≤ s.group.parentSilent → s.parent.isSome = true ∨ s.isCoordinator = true ∧ s.deputy.isSome = true →
    exec .parentSilence s = .next s.fence) ∧
  (∀ s : State, s.group.parentSilent < 5 → exec .parentSilence s = .next s) ∧
  (∀ s : State, s.group.fenced = false →
    s.fence.group.fenced = true ∧ s.fence.phase = 8 ∧ s.fence.mem = s.mem ∧
    (∀ k, (Table.get {} s.fence.net.subs k).ipv4 = 0 ∧ (Table.get {} s.fence.net.subs k).ipv6 = 0 ∧
      (Table.get {} s.fence.net.subs k).up = (Table.get {} s.net.subs k).up)) ∧
  (∀ (src dev : Nat) (s : State),
    (s.up 4 = true → exec (.probe .taken src dev) s = .next (s.sendMsg s.groupTag src (.probeReply s.devid))) ∧
    (s.up 4 = false → exec (.probe .taken src dev) s = .next (s.hold 4 (.probe .taken src dev)))) ∧
  (∀ (dev : Nat) (s : State), exec (.notice .taken dev 0) s =
    .next ((s.hearParent.modGroup (fun g => { g with known := insertNat dev g.known })).sendDown s.groupTag (.notice dev 0))) ∧
  (∀ (dev : Nat) (s : State), exec (.notice .taken dev 1) s = .next (((s.hearParent.modGroup (fun g => { g with
    known := g.known.filter (· != dev), held := Table.drop g.held dev })).requestUnsent dev).sendDown s.groupTag (.notice dev 1))) ∧
  (∀ (dev kind : Nat) (s : State), kind = 2 ∨ kind = 3 →
    ∃ g, exec (.notice .taken dev kind) s = .next ((s.hearParent.failDevice dev).sendDown g (.notice dev kind)) ∧
    (dev = s.devid → s.group.takingOver = none → s.hearParent.failDevice dev = s.hearParent.fence)) ∧
  (∀ (dev c : Nat) (s : State), s.contexts = [c] → s.requestUnsent dev =
    if s.twin = some dev ∧ ((s.ctx c).unsent = true ∨ (s.ctx c).mirrors ≠ [] ∧ (s.qp (s.ctx c).twinQpn).sends c = false)
    then s.modGroup (fun g => { g with abortPending := insertNat (s.ctx c).gtag g.abortPending }) else s)

/-- R377–R381, R389. -/
def Obligations.CoordinatorJudges : Prop :=
  (∀ (g r x b why : Nat) (s : State), s.isCoordinator = false → s.isDeputy = false ∨ x ≠ s.coordinator →
    exec (.report .taken g r x b why) s = .next s) ∧
  (∀ (g r x b why : Nat) (s : State), s.isCoordinator = true → why < 4 → why ≠ 0 ∨ x ≠ r →
    let k := s.group.streakOf x s.bellNow
    let t := s.modGroup (fun g => { g with streak := Table.put g.streak x (s.bellNow, k) })
    let counted := t.modGroup (fun g => { g with suspects := g.suspects.map (fun y =>
      if y.dev == x then { y with reason := y.reason ||| why, reports := min 65535 (y.reports + 1) } else y) })
    (k < 3 → s.group.suspected x = false → s.group.suspects.length < 4096 →
      (s.up 4 = true → exec (.report .taken g r x b why) s =
        .next (((t.modGroup (fun g => { g with suspects := g.suspects ++ [⟨x, s.bellNow, why, 1, .judged, true⟩] })).sendDown s.groupTag
          (.notice x 0)).sendMsg s.groupTag x (.probe x))) ∧
      (s.up 4 = false → exec (.report .taken g r x b why) s =
        .next (t.modGroup (fun g => { g with suspects := g.suspects ++ [⟨x, s.bellNow, why, 1, .judged, false⟩] })))) ∧
    (s.group.suspected x = false → 4096 ≤ s.group.suspects.length →
      exec (.report .taken g r x b why) s = .next (t.modGroup (fun g => { g with drops := min 32767 (g.drops + 1) }))) ∧
    (k < 3 → s.group.suspected x = true → exec (.report .taken g r x b why) s = .next counted) ∧
    (3 ≤ k → s.group.suspected x = true → s.up 4 = true → exec (.report .taken g r x b why) s = .next (counted.declare x true))) ∧
  (∀ (g x b : Nat) (s : State), s.isCoordinator = true →
    exec (.report .taken g x x b 0) s = .next ((s.abortAll (s.tagged g)).faultEvent x 3 0 1 b 0xFFFF)) ∧
  (∀ (g r x b : Nat) (s : State), s.isCoordinator = true →
    exec (.report .taken g r x b 8) s = .next (s.abortAll s.groupContexts)) ∧
  (∀ (cs : List Nat) (s : State), (s.group.newCoord = false → s.abortAll cs = cs.foldl (fun s c => s.orderAbort c) s) ∧
    (s.group.newCoord = true → s.abortAll cs = s.modGroup (fun g => { g with
      abortDue := cs.foldl (fun l c => insertNat c l) g.abortDue }))) ∧
  (∀ (g r x b : Nat) (s : State), s.isCoordinator = true → s.up 4 = true →
    let t := s.enterReport x 4
    (s.group.suspected x = true ∨ s.group.suspects.length < 4096 →
      exec (.report .taken g r x b 4) s = .next (t.declare x false) ∧ t.group.suspected x = true) ∧
    (s.group.suspected x = false → 4096 ≤ s.group.suspects.length → exec (.report .taken g r x b 4) s =
      .next (s.modGroup (fun g => { g with drops := min 32767 (g.drops + 1) })))) ∧
  (∀ (dev : Nat) (s : State) (e : Suspect), s.group.suspects.find? (fun e => e.dev == dev) = some e →
    let mine := s.isCoordinator = true ∨ s.isDeputy = true ∧ dev = s.coordinator
    (e.first + 2 ≤ s.bellNow → mine → s.up 4 = true → exec (.suspectDeclare dev) s = .next (s.declare dev false)) ∧
    (s.bellNow < e.first + 2 ∨ ¬ mine → exec (.suspectDeclare dev) s = .next s)) ∧
  (∀ (dev : Nat) (s : State), (∀ e ∈ s.group.suspects, e.dev ≠ dev) → exec (.suspectDeclare dev) s = .next s) ∧
  (∀ (dev : Nat) (p : Bool) (e : Suspect) (s : State), s.group.suspects.find? (fun e => e.dev == dev) = some e →
    (∀ t ∈ s.group.takeovers, t.twin ≠ dev) →
    let t := (s.faultEvent dev (if p then 2 else 1) e.reason e.reports e.first ((s.chosen dev).getD 0xFFFF)).modGroup
      (fun g => g.dropSuspect dev)
    let u := (t.sendMsg t.groupTag dev (.notice dev (if p then 3 else 2))).failDevice dev
    let v := (u.sendDown u.groupTag (.notice dev (if p then 3 else 2))).abortAll u.groupContexts
    (v.group.newCoord = false →
      s.declare dev p = v.orderTakeover ⟨dev, Table.get 0xFFFF s.group.twins dev, s.chosen dev⟩) ∧
    (v.group.newCoord = true → s.declare dev p = v)) ∧
  (∀ (c : Nat) (s : State), ∃ d : Decision, d.outcome = 4 ∧ d.gtag = (s.ctx c).gtag ∧
    s.orderAbort c = if (s.ctx c).abortedAll = true then s.issueDecision d else s.decideAbort c d)

/-- R364, R370–R375. -/
def Obligations.VoteTreeDecides : Prop :=
  (∀ (src : Nat) (b : Ballot) (s : State),
    (src ∉ s.children → exec (.ballot .taken src b) s = .next s) ∧
    (src ∈ s.children → s.up 3 = false → exec (.ballot .taken src b) s = .next (s.hold 3 (.ballot .taken src b))) ∧
    (src ∈ s.children → s.up 3 = true → (∀ c ∈ s.tagged b.gtag, (s.ctx c).step? b.step = none) → exec (.ballot .taken src b) s =
      .next { s with group := { s.group with early := s.group.early ++ [(src, b)] } }) ∧
    (∀ c h, src ∈ s.children → s.up 3 = true → s.tagged b.gtag = [c] → (s.ctx c).step? b.step = some h → h.settled = false →
      h.attempt = b.att → src ∉ h.voters →
      let m := match h.merged with | some m => mergeTwo m b | none => b
      let vs := src :: h.voters
      let t := s.modCtx c (fun x => x.modStep b.step (fun h => { h with merged := some m, voters := vs }))
      let whole := s.devid ∈ vs ∧ ∀ d ∈ s.children, d ∈ vs
      (¬whole → exec (.ballot .taken src b) s = .next t) ∧
      (∀ p, whole → s.parent = some p → exec (.ballot .taken src b) s = .next (t.sendMsg m.gtag p (.ballot m))) ∧
      (whole → s.parent = none → m.merged = s.members.length → s.group.newCoord = false →
        exec (.ballot .taken src b) s = .next (t.decide c m)))) ∧
  (∀ (c : Nat) (m : Ballot) (s : State), ∃ k, (k = s.bellNow + 1 ∨ k = s.bellNow + 2) ∧
    let t := { s with fresh := s.fresh + 1 }
    let d : Decision := ⟨m.step, m.gtag, m.att, 0, m.skipWhy, k, [], m.xmax⟩
    let ended := t.modCtx c (fun x => { x with abortRun := 0 })
    (m.outcome = 3 → s.decide c m = ended.issueDecision { d with outcome := 3 }) ∧
    (m.outcome = 2 → m.layers ≠ [] → s.decide c m = t.decideAbort c { d with outcome := 2, layers := m.layers, xmax := [] }) ∧
    (m.outcome = 1 → s.decide c m = t.decideAbort c { d with outcome := 1, xmax := [] }) ∧
    (m.outcome = 0 ∨ m.outcome = 2 ∧ m.layers = [] → s.decide c m = ended.issueDecision d)) ∧
  (∀ (d : Decision) (s : State),
    (s.up 3 = true → exec (.decision .taken d) s =
      .next ((s.hearParent.sendDown d.gtag (.decision d)).takeDecision d)) ∧
    (s.up 3 = false → exec (.decision .taken d) s = .next (s.hearParent.hold 3 (.decision .taken d)))) ∧
  (∀ (c : Nat) (d : Decision) (s : State),
    (∀ h, (s.ctx c).step? d.step = some h → h.settled = false → (s.ctx c).decided d.step = false →
      (d.outcome = 0 ∨ d.outcome = 3 → s.applyDecision c d = s.setCtx c { s.ctx c with flips := (s.ctx c).flips ++ [d] }) ∧
      (d.outcome = 1 ∨ d.outcome = 2 → h.attempt = d.att → h.opened = true → h.state ≠ .aborted →
        s.applyDecision c d = s.numericsAbort c d)) ∧
    (d.outcome = 4 → s.applyDecision c d = s.faultAbort c) ∧
    (d.outcome = 5 → s.applyDecision c d = s.parkCtx c)) ∧
  (∀ (src : Nat) (d : Option Decision) (s : State),
    (s.group.newCoord = false → exec (.state .taken src d) s = .next s) ∧
    (s.group.newCoord = true → let tag := match d with | some e => e.gtag | none => s.groupTag
      (∃ m ∈ s.members, ∃ g ∈ s.tags, ¬ (m = src ∧ g = tag) ∧ ∀ e ∈ s.group.states, ¬ (e.1 = m ∧ e.2.1 = g)) →
      exec (.state .taken src d) s = .next (s.modGroup (fun g => { g with
        states := (src, tag, d) :: g.states.filter (fun e => !(e.1 == src && e.2.1 == tag)) })))) ∧
  (∀ (c : CtxId) (n : Nat) (ce : Bool) (s : State), exec (.twinLedgerAck c ⟨n, ce⟩) s =
    .next (((s.heard (.ledger c n) ce).acked (.ledger c n)).modCtx c (fun x => x.modStep n (fun h => { h with twinAck := true })))) ∧
  (∀ (x : Ctx) (h : HeldStep), x.mayOpen h = true → h.opened = false ∧ h.state = .prepared ∧ x.parked = false ∧
    x.ses.state ≠ .detached ∧ (x.twinEn = true → h.twinAck = true))

/-- R341, R365, R366, R372, R383. -/
def Obligations.CommitsFlipAndAbortsRollBack : Prop :=
  (∀ (s : State) (c : Nat) (d : Decision) (h : HeldStep), (s.ctx c).step? d.step = some h → h.settled = false →
    let x := s.ctx c
    let y := (s.commitStep c d).ctx c
    y.genMap = 1 - x.genMap ∧ y.genState = (if d.outcome = 3 then x.genState else 1 - x.genState) ∧
    y.lastCmt = d.step ∧ y.cmtSeen = true ∧ y.millSkipped = decide (d.outcome = 3) ∧
    (∀ e ∈ y.shards, e.step ≠ d.step) ∧
    (∀ e ∈ y.steps, e.desc.step = d.step → e.state = if d.outcome = 3 then .skipped else .committed)) ∧
  (∀ (s : State) (c : Nat),
    let x := s.ctx c
    let t := s.abortCtx c
    let y := t.ctx c
    (∀ f ∈ t.flights, f.ctx ≠ c) ∧
    y.steps = x.steps.map (fun (h : HeldStep) => if h.settled || x.decided h.desc.step then { h with xmax := [] } else h.abort) ∧
    (∀ (h : HeldStep), h.opened = true → h.abort.state = .aborted) ∧
    (∀ (h : HeldStep), h.abort.attempt = (h.attempt + 1) % 4 ∧ h.abort.ballots = 0 ∧ h.abort.upcmts = 0 ∧ h.abort.merged = none ∧
      h.abort.voters = [] ∧ h.abort.xmax = [] ∧ h.abort.desc = h.desc) ∧
    (∀ e ∈ t.slots, e.2.state = .free ∨ e.2.ctx ≠ c) ∧
    ((∀ e ∈ s.stations, ∀ j ∈ e.2, j.ctx ≠ c) → t.mem = s.mem) ∧ y.genState = x.genState ∧ y.genMap = x.genMap) ∧
  (∀ (s : State) (c : Nat) (d : Decision), d.outcome = 1 ∨ d.outcome = 2 →
    let y := (s.numericsAbort c d).ctx c
    y.resumeAt = some d.flipBell ∧ y.aborts = min 65535 ((s.ctx c).aborts + 1) ∧
    (∀ e ∈ y.steps, e.desc.step = d.step →
      (d.outcome = 1 → e.stage = .rescaled ∧ e.rescaled = true) ∧
      (d.outcome = 2 → e.stage = .climbed ∧ e.climb = d.layers ∧
        ∀ l ∈ d.layers, rungOf e.attRungs l = max (rungOf e.rungs l) (min 3 (rungOf e.rungs l + 1))))) ∧
  (∀ (s : State) (c : Nat),
    let y := (s.parkCtx c).ctx c
    y.parked = true ∧ y.stuck = true ∧ y.resumeAt = none ∧ y.aborts = (s.ctx c).aborts)

/-- R384, R385, R389, R390, R422; the mirrors' generations are log entry 125. -/
def Obligations.ResumesAndTakeovers : Prop :=
  (∀ (g b : Nat) (m : BitVec 16) (s : State), s.group.fenced = true ∨ s.children = [] →
    let t := s.modGroup (fun g => { g with parentSilent := 0 })
    exec (.resume .taken g b m) s = .next (t.takeResume b m (fun c => (t.ctx c).gtag == g)) ∧
    ∀ c < 16, ((t.takeResume b m (fun c => (t.ctx c).gtag == g)).ctx c).resumeAt =
      if (s.ctx c).exist = true ∧ bit m c = true ∧ (s.ctx c).gtag = g ∧ (s.ctx c).faulted = true ∧ (s.ctx c).parked = false
      then some b else (s.ctx c).resumeAt) ∧
  (∀ (c : CtxId) (s : State), (s.ctx c).quietWait = true → s.quiet c = true → s.up 3 = true → s.up 5 = true →
    exec (.quietReached c) s = .next (((s.restoreBlocks.recoverQps 0).recoverQps c).rerun c) ∧
    (∀ h ∈ ((s.rerun c).ctx c).steps, h.state ≠ .aborted)) ∧
  (∀ (c a : Nat) (s : State), semCommon a = false → (s.resetSemaphores c).semCount c a = 0) ∧
  (∀ (c : CtxId) (s : State), (s.ctx c).quietWait = false ∨ s.quiet c = false ∨ s.up 3 = false ∨ s.up 5 = false → exec (.quietReached c) s = .next s) ∧
  (∀ (dev twin : Nat) (addrs : List PortAddr) (s : State),
    (s.group.standby = false → exec (.takeover .taken dev twin addrs) s = .next s) ∧
    (s.group.standby = true → ∃ t, exec (.takeover .taken dev twin addrs) s = .next t ∧ t.devid = dev ∧ t.group.standby = false ∧
      t.group.takingOver = some (dev, twin) ∧ t.group.announceLeft = 2 ∧
      t.group.takeAddrs = addrs.filter (fun a => s.portRole a.port a.sub == 2) ∧ t.mem = s.mem ∧ t.ctxs = s.ctxs ∧
      ∀ a, addrs = [a] → s.portRole a.port a.sub = 2 → 
        t.out = .gratuitousArp a.port a.sub a.addr (s.macOf a.port a.sub) (!isMapped4 a.addr) :: s.out)) ∧
  (∀ s : State,
    (s.group.announceLeft = 0 → exec .gratuitousArp s = .next s) ∧
    (s.group.announceLeft ≠ 0 → exec .gratuitousArp s =
      .next (s.modGroup (fun g => { g with announceLeft := g.announceLeft - 1 })).announce)) ∧
  (∀ (ks : List TwinCopy) (s : State),
    (s.group.takingOver = none → exec (.stateTransferDone ks) s = .next s) ∧
    (s.group.takingOver ≠ none → exec (.stateTransferDone ks) s = .next (((ks.filter (fun k => s.contexts.contains k.ctx)).foldl
      State.loadTwin s).adoptMirrors.modGroup (fun g => { g with takingOver := none })))) ∧
  (∀ (p c : Nat) (s : State), s.partners = [p] → s.contexts = [c] → Table.get (0, 0) s.adoptMirrors.group.mirrorGen (16 * p + c) =
    ((s.ctx c).genState, (s.ctx c).genMap)) ∧
  (∀ (k : TwinCopy) (s : State), k.ctx < 16 →
    let y := (s.loadTwin k).ctx k.ctx
    y.genState = k.genState % 2 ∧ y.genMap = k.genMap % 2 ∧ y.faulted = true ∧ y.resumeAt = none ∧
    y.steps.map (·.desc) = k.held.map (·.desc) ∧ y.steps.map (·.attempt) = k.held.map (·.attempt) ∧
    ∀ h ∈ y.steps, h.state = if h.opened then .aborted else .prepared) ∧
  (∀ (c : Nat) (bs : List Byte) (s : State), s.loadImage c bs =
    let n := 64 * leNat ((bs.drop 8).take 4)
    if n = 0 then s else (s.putImage c (leNat (bs.take 6)) ((bs.drop 64).take n)).loadImage c (bs.drop (64 + n))) ∧
  (∀ (dev : Nat) (m : BitVec 16) (s : State), s.group.fenced = true ∨ s.children = [] → exec (.groupLoss .taken dev m) s =
    .next ((s.modGroup (fun g => { g with parentSilent := 0 })).takeLoss s.groupTag dev m)) ∧
  (∀ (g dev c : Nat) (m : BitVec 16) (s : State), s.contexts = [c] → bit m c = true →
    let t := s.modGroup (fun g => { g with
      joining := g.joining.filter (· != dev), takeovers := g.takeovers.filter (fun t => t.dev != dev) })
    ((s.ctx c).gtag = g → s.takeLoss g dev m =
      ((t.modCtx c (fun x => { x with copies := .none })).parkCtx c).event c 0x0009 [(dev, 16)]) ∧
    ((s.ctx c).gtag ≠ g → s.takeLoss g dev m = t))

/-- R441–R445. -/
def Obligations.VoteMessagesArrive : Prop :=
  (∀ (h : ReduceHdr) (n : Nat), h.step < 2 ^ 64 → h.att < 4 → h.fmt < 16 → h.pos < 2 ^ 13 → n < 2 ^ 8 →
    (reduceBytes h n).length = 24 ∧ readReduce (reduceBytes h n) = (h, n)) ∧
  (∀ h : SigHdr, h.addr < 2 ^ 24 → h.watermark < 2 ^ 24 → (sigBytes h).length = 16 ∧ readSig (sigBytes h) = h) ∧
  (∀ h : VoteHdr, h.kind < 2 ^ 8 → h.gtag < 2 ^ 16 → h.len < 2 ^ 32 → h.bell < 2 ^ 64 →
    (voteBytes h).length = 16 ∧ readVote (voteBytes h) = h) ∧
  (∀ (n psn : Nat) (fr : Frame) (h : VoteHdr) (kind src x b g r : Nat) (flg : Bool) (m : BitVec 16) (bl : Ballot) (d : Decision)
      (od : Option Decision) (addrs : List PortAddr) (form : Via → Instr) (s : State),
    (kind, form) ∈ ([(0, fun v => .ballot v src bl), (1, fun v => .decision v d), (2, fun v => .heartbeat v src flg m),
      (3, fun v => .report v g r x b src), (4, fun v => .notice v x r), (5, fun v => .probe v src x), (6, fun v => .probeReply v src),
      (7, fun v => .state v src od), (8, fun v => .resume v g b m), (9, fun v => .takeover v x r addrs),
      (10, fun v => .groupLoss v x m)] : List (Nat × (Via → Instr))) →
    let k := voteCount (s.qp n).mtu h.len
    let i := form (.packet n psn fr h)
    let effect := fun (u : State) => if kind = 7 then Host.Outcome.next (u.takeState h.gtag src od)
      else if kind = 10 then .next (u.lossIn h.gtag x m) else exec (form .taken) u
    s.receives n = true → s.cached n = true → psn = (s.qp n).rqPsn → fr.ordinary i →
    (s.agbelOk n = true → h.kind = kind → ∃ t,
      effect (if s.parent = some (s.peerOf n) then s.hearParent else s) = .next t ∧
      exec i s = .next (if (t.qp n).used then (t.modQp n (fun q => q.took k)).ackTo n (psnAdd psn (k - 1)) else t)) ∧
    (s.agbelOk n = false ∨ h.kind ≠ kind →
      (s.up 2 = true → exec i s = .next ((s.transmit n (.nak n psn 0x61)).failQp n false)) ∧
      (s.up 2 = false → exec i s = .next (s.hold 2 i)))) ∧
  (∀ (gtag dst n : Nat) (m : Msg) (s : State),
    (s.group.fenced = true → s.sendMsg gtag dst m = s) ∧
    (s.group.fenced = false → s.voteQpOf dst = some n → (s.qp n).state ≠ 4 → s.sendMsg gtag dst m =
      (s.modQp n (fun q => { q with work := q.work.filter (fun w => w.owner != .control) })).post n .control
        (voteCount (s.qp n).mtu m.length) false (fun p => .vote n p dst ⟨m.kind, gtag, m.length, s.bellNow⟩ m)))

/-- R295–R301, R331, R332. When the maps of a step with EXCH_ERROR are kept is log entry 124. -/
def Obligations.NumericsAreChecked : Prop :=
  (∀ (c : CtxId) (n : Nat) (s : State) (h : HeldStep), (s.ctx c).step? n = some h →
    (h.state = .running → h.ballotsWanted ≤ h.ballots → h.evaluated = false → s.up 5 = true →
      let e := s.evaluate (s.ctx c) h
      let ends := s.suspecting = false ∧ s.exchangeEnded c e = true ∧ s.updateEnded c e = true
      let s1 := s.setCtx c ((s.ctx c).modStep n (fun _ => e))
      let u := s1.keepMaps c n
      let k := { e with mapsKept := true }
      let kept := h.exchError = true ∧ h.mapsKept = false ∧ s.exchangeEnded c e = true ∧ s.millEnded c e = true
      e.state = .running ∧
      (kept → exec (.numericsCheck c n) s = .next (u.modCtx c (fun x => x.modStep n (fun _ =>
        if u.suspecting = false ∧ u.exchangeEnded c k = true ∧ u.updateEnded c k = true then { k with state := .checked } else k)))) ∧
      (¬ kept → ends → exec (.numericsCheck c n) s = .next (s.modCtx c (fun x => x.modStep n (fun _ => { e with state := .checked })))) ∧
      (¬ kept → ¬ ends → exec (.numericsCheck c n) s = .next (s.modCtx c (fun x => x.modStep n (fun _ => e))))) ∧
    (h.state ≠ .running ∨ h.ballots < h.ballotsWanted ∨ h.evaluated = true ∨ s.up 5 = false →
      exec (.numericsCheck c n) s = .next s)) ∧
  (∀ (s : State) (x : Ctx) (h : HeldStep),
    let cs := s.crossings x h
    let e := s.evaluate x h
    e.evaluated = true ∧ e.desc = h.desc ∧ e.attempt = h.attempt ∧ e.recipes = h.recipes ∧ e.snapshot = h.snapshot ∧
    (cs = [] → e.outcome = 0) ∧ (h.stage = .climbed → e.outcome = 0) ∧
    (h.stage = .fresh → cs ≠ [] → bit h.thr1 1 = true → e.outcome = 1 ∧ e.flagged = sortNat (cs.map (fun p => p.1.tid))) ∧
    (h.stage = .fresh → cs ≠ [] → bit h.thr1 1 = false → e.outcome = 2) ∧
    (h.stage = .rescaled → cs ≠ [] → e.outcome = 2 ∧
      e.climb = sortNat ((cs.map (fun p => s.climbLayer x h p.1)).filterMap id))) ∧
  (∀ (c : CtxId) (i : Nat) (s : State) (w : Walk) (ws : List Walk), (s.ctx c).walks = w :: ws →
    (∀ ce, i ∈ w.running → s.up 3 = true →
      let r := (s.heard (.gather c i) ce).heard (.gatherSig c i) ce
      let t := r.acked (.gather c i)
      let g := t.gatherEntry (t.ctx c) i
      let sigs := g.sigv = true ∧ (t.qp g.qpn).sends c = true ∧ t.agbelSends g.qpn = true
      (r.writing c i = true → sigs → exec (.gatherEntryComplete c ⟨i, ce⟩) s =
        .next (t.post g.qpn (.gatherSig c i) 1 false (fun p => .sig g.qpn p ⟨g.sem, 1, (t.qp g.qpn).watermark⟩))) ∧
      (r.writing c i = true → ¬ sigs → exec (.gatherEntryComplete c ⟨i, ce⟩) s = .next (t.entryDone c i)) ∧
      (r.writing c i = false → exec (.gatherEntryComplete c ⟨i, ce⟩) s = .next (r.entryDone c i))) ∧
    (∀ ce, i ∈ w.running → s.up 3 = false →
      exec (.gatherEntryComplete c ⟨i, ce⟩) s = .next (s.hold 3 (.gatherEntryComplete c ⟨i, ce⟩))) ∧
    (∀ ce, i ∉ w.running → exec (.gatherEntryComplete c ⟨i, ce⟩) s = .next s)) ∧
  (∀ (c i code p k : Nat) (s : State), c < 16 →
    let y := (s.failWork code ⟨.gather c i, p, k⟩).ctx c
    y.genState = (s.ctx c).genState ∧ y.genMap = (s.ctx c).genMap ∧ y.lastCmt = (s.ctx c).lastCmt ∧
    ∀ h ∈ y.steps, h ∈ (s.ctx c).steps)

/-- R25, R393, R407–R412. -/
def Obligations.FaultsAreContained : Prop :=
  (∀ (c : CroftId) (s : State), c.val ∉ s.sec.testing →
    (s.sec.hasRoom (dieOf c) = true → exec (.croftFault c) s =
      .next ({ s with sec := { s.sec with testing := s.sec.testing ++ [c.val] } }.askReport s.devid whySelfRemap)) ∧
    (s.sec.hasRoom (dieOf c) = false → exec (.croftFault c) s = .next (s.askReport s.devid whySelfFailed))) ∧
  (∀ (c : CroftId) (ok : Bool) (s : State), (c.val ∉ s.sec.testing ∨ s.allQuiet = false) →
    exec (.remapSelfTestDone c ok) s = .next s) ∧
  (∀ (c : CroftId) (pos : Nat) (s : State), c.val ∈ s.sec.testing → s.allQuiet = true → s.sec.spare? (dieOf c) = some pos →
    ∃ t, exec (.remapSelfTestDone c true) s = .next t ∧
      exec (.remapSelfTestDone c false) s = .next (t.askReport t.devid whySelfFailed) ∧
      t.sec.overlay = s.sec.overlay ++ [(dieOf c, c.val, pos)] ∧ pos ∉ Table.get [] t.sec.spares (dieOf c) ∧
      c.val ∉ t.sec.testing ∧ Table.get 0 t.sec.meas 10 = overlayDigest t.sec.overlay ∧
      (t.croft c).f = (s.croft c).f ∧ (t.croft c).wires = (s.croft c).wires ∧ (∀ d : Nat, d ≠ c.val → t.croft d = s.croft d) ∧
      (∀ a, a < storeOf c ∨ storeOf c + storeBytes ≤ a → Memory.read t.mem a = Memory.read s.mem a)) ∧
  (∀ s : State, exec (.patrolScrub none) s = .next s) ∧
  (∀ (n : Fin 9) (a : Nat) (s : State),
    let t := { s with fresh := s.fresh + 1 }.hbmError n a (bit (Config.free64 s.fresh) 0)
    (t.anyHeld = false → exec (.patrolScrub (some (n, a))) s = .next (t.lossWithout n a).restoreBlocks) ∧
    (t.anyHeld = true → exec (.patrolScrub (some (n, a))) s = .next (t.ueAbort n a))) ∧
  (∀ (n : Fin 9) (a : Nat) (r : Bool) (s : State), exec (.uncorrectableError (.row n) a r) s =
    .next ((s.hbmError n a r).ueAbort n a)) ∧
  (∀ (n : Fin 9) (a : Nat) (s : State),
    (n.val = 7 → s.ueAbort n a = s.markUe) ∧
    (4 ≤ n.val → n.val ≠ 7 → s.ueAbort n a = s.markUe.askReport s.devid whySelfRemap)) ∧
  (∀ (s : State) (c : Nat), c ∈ s.contexts → (s.markUe.ctx c).steps = (s.ctx c).steps.map (fun h =>
    if (h.desc.step, h.tries) ∈ (s.ctx c).liveAttempts then { h with ueTries := h.tries :: h.ueTries } else h)) ∧
  (∀ (row a : Nat) (r : Bool) (s : State), row ≠ 6 →
    s.hbmError row a r = ((s.servedBy row a).foldl (fun t c =>
      t.event c 0x0005 [(a / 64 * 64, 48), (row, 4), (s.bellNow, 64), (if r then 1 else 0, 1)]) s).breakBlock row a ∧
    (areaPart (a / 64 * 64) = none → a / 64 * 64 < hbmEnd → ∀ i < 64,
      Memory.read (s.hbmError row a r).mem (a / 64 * 64 + i) = Config.freeByte (s.fresh + i))) ∧
  (∀ (row a : Nat) (r : Bool) (s : State), row ≠ 6 → ∀ b, b < a / 64 * 64 ∨ a / 64 * 64 + 64 ≤ b →
    Memory.read (s.hbmError row a r).mem b = Memory.read s.mem b) ∧
  (∀ (c : CroftId) (a : Nat) (r : Bool) (s : State),
    let b := a / 64 * 64
    let u := s.contexts.foldl (fun t k => t.event k 0x0005 [(a, 48), (8, 4), (s.bellNow, 64), (if r then 1 else 0, 1)]) s
    let v := if inStoreOf c b 64 then u.spoil b 64 else u.breakCroft c
    let old := Table.get [] s.sramErrors c
    let now := old ++ s.runningAttempts.filter (fun e => !old.contains e)
    let w := { v with sramErrors := Table.put s.sramErrors c now }
    let third := ∃ e ∈ now, 3 ≤ (now.filter (fun d => d.1 == e.1 && d.2.1 == e.2.1)).length
    (third → exec (.uncorrectableError (.croftSram c) a r) s =
      .next ({ w.markUe with sramErrors := Table.drop w.sramErrors c }.croftFails c)) ∧
    (¬ third → exec (.uncorrectableError (.croftSram c) a r) s = .next (w.markUe.askReport s.devid whySelfRemap)) ∧
    (∀ k, k < b ∨ b + 64 ≤ k → Memory.read v.mem k = Memory.read s.mem k) ∧
    (inStoreOf c b 64 = true → ∀ i < 64, Memory.read v.mem (b + i) = Config.freeByte (s.fresh + i)) ∧
    ∃ tiles arrays crofts, s.breakCroft c = { s with crofts := crofts, fresh := s.fresh + 8192 } ∧
      (s.breakCroft c).croft c = { s.croft c with tiles := tiles, arrays := arrays } ∧
      ∀ d : Nat, d ≠ c.val → (s.breakCroft c).croft d = s.croft d) ∧
  (∀ (pos a : Nat) (r : Bool) (s : State),
    let u := s.contexts.foldl (fun t k => t.event k 0x0005 [(0, 48), (8, 4), (s.bellNow, 64), (if r then 1 else 0, 1)]) s
    let sums := (List.range 1024).map (fun i => signed 32 (bits (Config.free64 (s.fresh + i)) 31 0))
    let v := if (s.slot pos).state = .free then u
      else { u with fresh := s.fresh + 1024 }.setSlot pos { s.slot pos with sums := sums }
    exec (.uncorrectableError (.slot pos) a r) s = .next (v.markUe.askReport s.devid whySelfRemap) ∧ v.mem = s.mem ∧
    ∀ p, p ≠ pos → v.slot p = s.slot p) ∧
  (∀ s : State, s.restoreBlocks.badBlocks = [] ∧ s.restoreBlocks.badStores = [] ∧ (s.up 2 = true → s.restoreBlocks.badQps = []) ∧
    (s.badQps = [] ∨ s.up 2 = false →
      (∀ row a bs, s.badBlocks = [(row, a, bs)] → ∀ i < bs.length, Memory.read s.restoreBlocks.mem (a + i) = bs.getD i 0) ∧
      (∀ c st, c < 16 → s.badStores = [(c, st)] → (s.restoreBlocks.ctx c).store = st)))

/-- R459, R461, R462, R526; the bytes of memory are log entry 5. -/
def Obligations.ResetLeavesTheModule : Prop :=
  let s := State.reset
  s.phase = 0 ∧ s.pending = [] ∧ s.flights = [] ∧ s.contexts = [0] ∧ s.tenants = false ∧ s.resident = 0 ∧
  (s.ctx 0).regionGib = 4 ∧ (s.ctx 0).region = s.poolBase 0 ∧ s.pool = 8 ∧ ((s.ctx 0).reg 0x004).toNat = 2000 ∧
  (∀ c, (s.ctx c).ses.state = .none ∧ (s.ctx c).featActive = 0 ∧ (s.ctx c).steps = []) ∧
  (∀ (l : Nat) (t : Strm) (n : Nat), (s.strm l t).run = .idle ∧ (s.strm l t).status = 0 ∧ (s.strm l t).pc = 0 ∧
    (s.strm l t).sreg n = 0 ∧ (s.strm l t).preg n = 0) ∧
  (∀ l, (s.croft l).tiles = [] ∧ (s.croft l).stats = [] ∧ (s.croft l).wires = []) ∧
  (∀ c a, s.semCount c a = 0) ∧ (∀ p, (s.slot p).state = .free) ∧ (∀ n, (s.qp n).used = false) ∧
  s.sec.debug = false ∧ s.pwr.clk = 11 ∧ s.pwr.tray = 1400 ∧ s.pwr.ibiMask = 0x1E ∧ s.group.fenced = false ∧
  s.memOk ∧ (∀ a, Memory.read s.mem a = 0)

/-- R85. -/
def Obligations.ScaleExponentsAreLeast : Prop :=
  (∀ (fmt m : Nat) (sgn : Bool) (k : Int), fmt < 8 → 0 < m →
    let e := scaleExp fmt (.fin sgn m k)
    Val.absLt ((vmax fmt).scale e) (.fin sgn m k) = false ∧
    (∀ e' : Int, e' < e → Val.absLt ((vmax fmt).scale e') (.fin sgn m k) = true)) ∧
  (∀ e : Int, (scaleCode e : Int) = clampInt 0 254 (127 + e)) ∧
  (∀ p ∈ [((0 : Nat), (6 : Nat), (0 : Int)), (1, 7, -2), (2, 15, -1), (3, 28, 0), (4, 448, 0), (5, 57344, 0), (6, 127, -6), (7, 1, 0)],
    Val.eqv (vmax p.1) (.fin false p.2.1 p.2.2) = true)

/-- R64: the data area of a record. -/
def Obligations.TileRecordsArePackedLittleEndian : Prop :=
  ∀ (fmt : Nat) (cs scales : List Nat), (fmt ≤ 9 ∨ fmt = 11 ∨ fmt = 12) → cs.length = 1024 → (∀ c ∈ cs, c < 2 ^ fmtBits fmt) →
    let w := fmtBits fmt
    let rec' := packRecord fmt cs scales
    (∀ i < 32, ∀ j < 32, ∀ b < w, (rec'.getD ((w * (32 * i + j) + b) / 8) 0).getLsbD ((w * (32 * i + j) + b) % 8) =
      (cs.getD (32 * i + j) 0).testBit b) ∧
    codes fmt rec' = cs

/-- Where the sending, update and security forms complete (R221–R229, R488–R493, R509, R536). -/
def Obligations.SendingUpdateAndHostFormsComplete : Prop :=
  (∀ (c : CroftId) (st : Strm) (w : BitVec 128) (s : State),
    let y := s.strm c st
    let n := bits w 83 64
    let q := s.qp n
    let a := (y.preg (bits w 31 24)).toNat
    let len := 64 * max 1 (bits (y.sreg (bits w 23 16)) 23 0)
    let off := 64 * bits (y.sreg (bits w 15 8)) 47 0
    let regs := pRes (bits w 31 24) ++ sRes (bits w 23 16) ++ sRes (bits w 15 8)
    let imm := if bit w 40 then sRes (bits w 39 32) else []
    let count := clampTo 1 16384 (bits (y.sreg (bits w 23 16)) 14 0)
    let inFlight := fun (k : Nat) (op : FlightOp → Prop) (t : State) => (t.strm c st).pc = y.pc + 16 ∧
      (∃ f ∈ t.flights, f.id = s.nextId ∧ f.croft = c.val ∧ f.strm = st ∧ op f.op) ∧
      (t.qp n).work = q.work ++ [⟨.flight s.nextId, q.sqPsn, k⟩]
    q.sends s.resident = true →
    (a % 64 = 0 → inHbmOrOwn c a len = true → off + len ≤ q.rwinLen →
      (s.ready c st 16 { reads := regs ++ imm ++ [memRes a len], units := [.rdma] } = true →
        ∃ t, exec (.put c st w) s = .next t ∧ inFlight (q.packets len) (fun o => o = .put n) t) ∧
      (s.ready c st 16 { reads := regs, writes := [memRes a len], units := [.rdma] } = true →
        ∃ t, exec (.get c st w) s = .next t ∧ inFlight (q.packets len) (fun o => o = .get n a len 0) t)) ∧
    (q.agbel = true → q.ud = false → s.portRole q.port q.sub ≠ 0 → 24 + 1088 ≤ q.mtu → a % 64 = 0 →
      inHbmOrOwn c a (1088 * count) = true → s.entryOpen c st = true →
      s.ready c st 16 { reads := regs ++ sRes (bits w 39 32) ++ [memRes a (1088 * count)], units := [.rdma] } = true →
      ∃ t, exec (.redw c st w) s = .next t ∧
        inFlight ((count + min 3 ((q.mtu - 24) / 1088) - 1) / min 3 ((q.mtu - 24) / 1088)) (fun o => ∃ ps, o = .redw n ps) t) ∧
    (q.agbel = true → q.ud = false → s.portRole q.port q.sub ≠ 0 →
      s.ready c st 16 { reads := sRes (bits w 31 24) ++ (if bit w 40 then sRes (bits w 23 16) else []), units := [.rdma] } = true →
      ∃ t, exec (.nsig c st w) s = .next t ∧ inFlight 1 (fun o => o = .nsig n) t)) ∧
  (∀ (q addr len k : Nat) (s : State),
    let t := s.taken 0 q
    (s.takes 0 6 → t.fw.updState = 0 ∨ t.fw.updState = 2 → ∃ u : State, u.fw.updState = 1 ∧ u.fw.staging.isSome = true ∧
      exec (.fwStage 0 q addr len) s = .next (u.finish 0 q (0, []))) ∧
    (s.takes 0 6 → t.fw.updState = 2 → t.fw.isStaged = true → t.stagedBundle.minPrev.toNat ≤ t.fwVersion →
      ∃ u : State, u.fw.updState = 4 ∧ u.fw.updResult = 0 ∧ u.fw.order = [6, 5, 2, 4, 3, 1, 7].filter (fun k => !t.fw.onStaged.contains k) ∧
      exec (.fwActivate 0 q) s = .next (u.finish 0 q (0, []))) ∧
    (s.takes 0 1 → 1 ≤ k → k ≤ 7 → t.emergency = false → t.fw.updState ∉ [3, 4, 5] → (t.core k).state = 0 →
      exec (.fwRestart 0 q k) s = .next ((t.askRestart k 4).finish 0 q (0, []))) ∧
    (s.takes 0 6 → exec (.fwCatalogue 0 q addr len) s = .next (({ t with fresh := t.fresh + 1 }.toHost 0 addr
      ((Config.free64 t.fresh).setWidth 32) ((t.core 7).img.catalogue.take len)).finish 0 q (0, [])))) ∧
  (∀ (ok : Bool) (res : Nat) (b : Bundle) (s : State), s.fw.staging = some (res, b) → s.up 6 = true → ∃ t, exec (.stagingDone ok) s = .next t ∧
    t.fw.staging = none ∧ t.fw.updResult = (if res ≠ 0 then res else if ok then 0 else 10) ∧
    t.fw.updState = (if res ≠ 0 then if s.fw.isStaged then 2 else 0 else if ok then 2 else 0)) ∧
  (∀ s : State, s.fw.updState = 3 → s.msPast s.fw.waitSince 10000 = true → s.up 6 = true → ∃ t, exec .activationLapse s = .next t ∧
    t.fw.updState = 2 ∧ t.fw.updResult = 8 ∧ t.fw.order = []) ∧
  (∀ (k : Fin 8) (s : State), s.fw.current = some k.val → s.msPast (s.core k).since 50 = true →
    ∃ t, exec (.restartTimeout k) s = .next t ∧ t.fw.updState = (if s.fw.updState = 1 then 1 else 2) ∧ t.fw.updResult = 9 ∧ t.fw.current = none ∧ t.fw.order = []) ∧
  (∀ s : State, s.fw.updState = 5 → s.msPast s.fw.confirmSince 60000 = true → s.up 6 = true → ∃ t, exec .confirmation s = .next t ∧
    t.fw.updState = 0 ∧ t.fw.updResult = 1 ∧ t.fw.activeB = !s.fw.activeB ∧ t.sec.fwSvn = max s.sec.fwSvn s.stagedBundle.svn) ∧
  (∀ (c : CtxId) (q addr : Nat) (key : Reg) (nonce : BitVec 256) (s : State),
    let t := s.taken c q
    let wrote := fun (bs : List Byte) => (t.postHost (t.ctx c).ses.modQpn [(addr, key, bs)]).finish c q (0, [])
    (s.takes c 1 → exec (.attest c q addr key nonce) s =
      .next (wrote (t.reportBody nonce ++ ecdsaSign (t.sec.idKey.getD 0) (t.reportBody nonce)))) ∧
    (s.takes c 1 → exec (.identity c q addr key) s = .next (wrote (publicKey (t.sec.idKey.getD 0) ++ Config.certificate.take 2048))) ∧
    (s.takes c 6 → exec (.hlthDump c q addr key) s = .next (wrote t.hlth.dump))) ∧
  (∀ (q dev host n : Nat) (data : List Byte) (ok : Bool) (s : State), s.takes 0 1 →
    let t := s.taken 0 q
    let a := dev % 2 ^ 48
    let len := n % 2 ^ 32 * 64
    (t.fw.updState ≠ 1 → (readCfg data).result t.sec.cfgSvn ok = 0 → ∃ u : State, u.sec.cfgNext = some (readCfg data) ∧
      exec (.cfgUpdate 0 q data ok) s = .next (u.finish 0 q (0, leBytes 1 0))) ∧
    (t.sec.dbgFail < 8 → ∃ u : State, u.sec.nonce = some (Config.free256 t.fresh) ∧ exec (.dbgChallenge 0 q) s =
      .next (u.finish 0 q (0, leBytes 32 (Config.free256 t.fresh).toNat ++ leBytes 8 Config.serial.toNat))) ∧
    (t.tenants = false → t.tokenResult (data.take 128) = 0 → ∃ u : State, u.sec.debug = true ∧ u.sec.nonce = none ∧
      exec (.dbgUnlock 0 q data) s =
        .next (u.finish 0 q (0, leBytes 1 0 ++ leBytes 7 0 ++ leBytes 8 (u.ctx 0).ses.token.toNat))) ∧
    (t.sec.rdOn = true → t.mapped a len = true → exec (.dbgRead 0 q dev host n) s =
      .next (({ t with fresh := t.fresh + 1 }.toHost 0 host ((Config.free64 t.fresh).setWidth 32) (t.deviceBytes a len)).finish 0 q
        (0, []))) ∧
    (t.sec.wrOn = true → t.mapped a len = true → inHbm a len = true ∨ inSomeStore a len = true → ∃ u : State,
      u.mem = Memory.writeBytes t.mem a (data.take len) ∧ exec (.dbgWrite 0 q dev n data) s = .next (u.finish 0 q (0, []))))
end

