-- ==== Sys2Proof/Laws/Memory.lean ====
section
/-! SUPPORT. Memory: what a read gives after a write or a copy, and that every operation keeps the canonical form. -/

namespace Sys2Proof.Machine

/-! Reading. -/

theorem Memory.read_none {m : Memory} {k : Nat} (h : ∀ e ∈ m, e.1 ≠ k) : Memory.read m k = unlistedByte := by
  induction m with
  | nil => rfl
  | cons e m ih =>
    obtain ⟨a, b⟩ := e
    have h1 : a ≠ k := h (a, b) (by simp)
    simp only [Memory.read, h1, if_false]
    exact ih (fun e he => h e (List.mem_cons_of_mem _ he))

theorem Memory.read_append_right {m n : Memory} {k : Nat} (h : ∀ e ∈ m, e.1 ≠ k) : Memory.read (m ++ n) k = Memory.read n k := by
  induction m with
  | nil => rfl
  | cons e m ih =>
    obtain ⟨a, b⟩ := e
    have h1 : a ≠ k := h (a, b) (by simp)
    simp only [List.cons_append, Memory.read, h1, if_false]
    exact ih (fun e he => h e (List.mem_cons_of_mem _ he))

theorem Memory.read_append_left {m n : Memory} {k : Nat} (h : ∀ e ∈ n, e.1 ≠ k) : Memory.read (m ++ n) k = Memory.read m k := by
  induction m with
  | nil => simpa [Memory.read] using Memory.read_none h
  | cons e m ih =>
    obtain ⟨a, b⟩ := e
    by_cases h1 : a = k <;> simp [Memory.read, h1, ih]

/-- Entries kept by their address. -/
theorem Memory.read_filter (m : Memory) (p : Nat → Bool) (k : Nat) :
    Memory.read (m.filter (fun e => p e.1)) k = if p k then Memory.read m k else unlistedByte := by
  induction m with
  | nil => simp [Memory.read]
  | cons e m ih =>
    obtain ⟨a, b⟩ := e
    by_cases h1 : a = k
    · subst h1; cases h : p a <;> simp [List.filter_cons, h, Memory.read, ih]
    · cases h : p a <;> simp [List.filter_cons, h, Memory.read, h1, ih]

/-- A splice of entries that lie in the range: inside they are read, outside what was there. -/
theorem Memory.read_splice {m : Memory} {lo len : Nat} {mid : Memory} (h : ∀ e ∈ mid, lo ≤ e.1 ∧ e.1 < lo + len) (k : Nat) :
    Memory.read (Memory.splice m lo len mid) k =
      if lo ≤ k ∧ k < lo + len then Memory.read mid k else Memory.read m k := by
  have low : ∀ e ∈ m.filter (fun e => decide (e.1 < lo)), e.1 < lo := by
    intro e he; simpa using (List.mem_filter.1 he).2
  have high : ∀ e ∈ m.filter (fun e => decide (lo + len ≤ e.1)), lo + len ≤ e.1 := by
    intro e he; simpa using (List.mem_filter.1 he).2
  unfold Memory.splice
  by_cases h1 : k < lo
  · rw [Memory.read_append_left (fun e he => by have := high e he; omega),
      Memory.read_append_left (fun e he => by have := h e he; omega), Memory.read_filter m (fun a => decide (a < lo))]
    simp [h1, Nat.not_le.2 h1]
  · by_cases h2 : k < lo + len
    · rw [Memory.read_append_left (fun e he => by have := high e he; omega),
        Memory.read_append_right (fun e he => by have := low e he; omega)]
      simp [h2, Nat.not_lt.1 h1]
    · rw [Memory.read_append_right (fun e he => ?_), Memory.read_filter m (fun a => decide (lo + len ≤ a))]
      · simp [h2, Nat.not_lt.1 h2]
      · rcases List.mem_append.1 he with he | he
        · have := low e he; omega
        · have := h e he; omega

theorem Memory.cells_range {a : Nat} {bs : List Byte} : ∀ e ∈ Memory.cells a bs, a ≤ e.1 ∧ e.1 < a + bs.length := by
  induction bs generalizing a with
  | nil => simp [Memory.cells]
  | cons b bs ih =>
    intro e he
    simp only [Memory.cells] at he
    split at he
    · have := ih e he; simp only [List.length_cons]; omega
    · rcases List.mem_cons.1 he with he | he
      · subst he; simp only [List.length_cons]; omega
      · have := ih e he; simp only [List.length_cons]; omega

theorem Memory.read_cells (a : Nat) (bs : List Byte) (i : Nat) : Memory.read (Memory.cells a bs) (a + i) = bs.getD i 0 := by
  induction bs generalizing a i with
  | nil => simp [Memory.cells, Memory.read, unlistedByte]
  | cons b bs ih =>
    have range := @Memory.cells_range (a + 1) bs
    cases i with
    | zero =>
      simp only [Memory.cells]
      split
      · next h => rw [Memory.read_none (fun e he => by have := range e he; omega)]; simp [h]
      · simp [Memory.read]
    | succ i =>
      have := ih (a + 1) i
      rw [show a + (i + 1) = a + 1 + i by omega]
      simp only [Memory.cells]
      split
      · simpa using this
      · have h1 : a ≠ a + 1 + i := by omega
        simpa [Memory.read, h1] using this

/-- A byte inside a written string. -/
theorem Memory.read_writeBytes_in (m : Memory) (a : Nat) (bs : List Byte) {i : Nat} (h : i < bs.length) :
    Memory.read (Memory.writeBytes m a bs) (a + i) = bs.getD i 0 := by
  rw [Memory.writeBytes, Memory.read_splice Memory.cells_range, if_pos (by omega), Memory.read_cells]

/-- A byte outside it. -/
theorem Memory.read_writeBytes_out (m : Memory) (a : Nat) (bs : List Byte) {k : Nat} (h : k < a ∨ a + bs.length ≤ k) :
    Memory.read (Memory.writeBytes m a bs) k = Memory.read m k := by
  rw [Memory.writeBytes, Memory.read_splice Memory.cells_range, if_neg (by omega)]

/-- A string of bytes, byte by byte. -/
theorem Memory.readBytes_length (m : Memory) (a n : Nat) : (Memory.readBytes m a n).length = n := by
  induction n generalizing a with
  | zero => rfl
  | succ n ih => simp [Memory.readBytes, ih]

theorem Memory.readBytes_getD (m : Memory) (a : Nat) {n i : Nat} (h : i < n) :
    (Memory.readBytes m a n).getD i 0 = Memory.read m (a + i) := by
  induction n generalizing a i with
  | zero => omega
  | succ n ih =>
    cases i with
    | zero => simp [Memory.readBytes]
    | succ i =>
      have := ih (a + 1) (i := i) (by omega)
      rw [show a + (i + 1) = a + 1 + i by omega]
      simpa [Memory.readBytes] using this

/-- A string that was written reads back whole. -/
theorem Memory.readBytes_writeBytes (m : Memory) (a : Nat) (bs : List Byte) :
    Memory.readBytes (Memory.writeBytes m a bs) a bs.length = bs := by
  apply List.ext_getElem
  · exact Memory.readBytes_length ..
  · intro i h1 h2
    have h := Memory.readBytes_getD (Memory.writeBytes m a bs) a h2
    rw [Memory.read_writeBytes_in m a bs h2] at h
    rw [← List.getElem_eq_getD (h := h1) 0, ← List.getElem_eq_getD (h := h2) 0] at h
    exact h

/-! Copying. -/

theorem Memory.shift_range (src : Memory) (a len dst : Nat) :
    ∀ e ∈ (Memory.slice src a len).map (fun e => (e.1 - a + dst, e.2)), dst ≤ e.1 ∧ e.1 < dst + len := by
  intro e he
  obtain ⟨f, hf, rfl⟩ := List.mem_map.1 he
  have : a ≤ f.1 ∧ f.1 < a + len := by simpa [Memory.slice] using (List.mem_filter.1 hf).2
  simp only
  omega

theorem Memory.read_shift (src : Memory) (a len dst i : Nat) (h : i < len) :
    Memory.read ((Memory.slice src a len).map (fun e => (e.1 - a + dst, e.2))) (dst + i) = Memory.read src (a + i) := by
  induction src with
  | nil => rfl
  | cons e m ih =>
    obtain ⟨j, b⟩ := e
    by_cases hj : a ≤ j ∧ j < a + len
    · have e1 : Memory.slice ((j, b) :: m) a len = (j, b) :: Memory.slice m a len := by simp [Memory.slice, hj]
      rw [e1, List.map_cons]
      by_cases h1 : j = a + i
      · have h2 : j - a + dst = dst + i := by omega
        simp [Memory.read, h1, h2]; omega
      · have h2 : ¬ j - a + dst = dst + i := by omega
        simp only [Memory.read, h1, h2, if_false]; exact ih
    · have e1 : Memory.slice ((j, b) :: m) a len = Memory.slice m a len := by simp [Memory.slice, hj]
      have h1 : ¬ j = a + i := by omega
      rw [e1, ih]; simp [Memory.read, h1]

/-- A copied byte. -/
theorem Memory.read_copy_in (m : Memory) (dst : Nat) (src : Memory) (a len : Nat) {i : Nat} (h : i < len) :
    Memory.read (Memory.copy m dst src a len) (dst + i) = Memory.read src (a + i) := by
  rw [Memory.copy, Memory.read_splice (Memory.shift_range src a len dst), if_pos (by omega), Memory.read_shift src a len dst i h]

/-- A byte outside a copy's destination. -/
theorem Memory.read_copy_out (m : Memory) (dst : Nat) (src : Memory) (a len : Nat) {k : Nat} (h : k < dst ∨ dst + len ≤ k) :
    Memory.read (Memory.copy m dst src a len) k = Memory.read m k := by
  rw [Memory.copy, Memory.read_splice (Memory.shift_range src a len dst), if_neg (by omega)]

/-! The canonical form. -/

theorem Memory.wf_cons {e : Host.Cell} {m : Memory} :
    Memory.wf (e :: m) = true ↔ e.2 ≠ unlistedByte ∧ (∀ f ∈ m, e.1 < f.1) ∧ Memory.wf m = true := by
  obtain ⟨a, b⟩ := e
  simp [Memory.wf, and_assoc]

theorem Memory.wf_filter {m : Memory} (p : Host.Cell → Bool) (h : Memory.wf m = true) : Memory.wf (m.filter p) = true := by
  induction m with
  | nil => rfl
  | cons e m ih =>
    obtain ⟨h1, h2, h3⟩ := Memory.wf_cons.1 h
    rw [List.filter_cons]
    split
    · exact Memory.wf_cons.2 ⟨h1, fun f hf => h2 f (List.mem_filter.1 hf).1, ih h3⟩
    · exact ih h3

theorem Memory.wf_append {m n : Memory} (hm : Memory.wf m = true) (hn : Memory.wf n = true)
    (h : ∀ e ∈ m, ∀ f ∈ n, e.1 < f.1) : Memory.wf (m ++ n) = true := by
  induction m with
  | nil => exact hn
  | cons e m ih =>
    obtain ⟨h1, h2, h3⟩ := Memory.wf_cons.1 hm
    rw [List.cons_append]
    refine Memory.wf_cons.2 ⟨h1, fun f hf => ?_, ih h3 (fun e he => h e (List.mem_cons_of_mem _ he))⟩
    rcases List.mem_append.1 hf with hf | hf
    · exact h2 f hf
    · exact h e (by simp) f hf

theorem Memory.wf_cells (a : Nat) (bs : List Byte) : Memory.wf (Memory.cells a bs) = true := by
  induction bs generalizing a with
  | nil => rfl
  | cons b bs ih =>
    simp only [Memory.cells]
    split
    · exact ih _
    · next h => exact Memory.wf_cons.2 ⟨h, fun f hf => by have := Memory.cells_range f hf; simp only; omega, ih _⟩

/-- A splice keeps the form. -/
theorem Memory.wf_splice {m : Memory} {lo len : Nat} {mid : Memory} (hm : Memory.wf m = true) (hmid : Memory.wf mid = true)
    (h : ∀ e ∈ mid, lo ≤ e.1 ∧ e.1 < lo + len) : Memory.wf (Memory.splice m lo len mid) = true := by
  have low : ∀ e ∈ m.filter (fun e => decide (e.1 < lo)), e.1 < lo := by
    intro e he; simpa using (List.mem_filter.1 he).2
  have high : ∀ e ∈ m.filter (fun e => decide (lo + len ≤ e.1)), lo + len ≤ e.1 := by
    intro e he; simpa using (List.mem_filter.1 he).2
  refine Memory.wf_append (Memory.wf_append (Memory.wf_filter _ hm) hmid ?_) (Memory.wf_filter _ hm) ?_
  · intro e he f hf; have := low e he; have := h f hf; omega
  · intro e he f hf
    have h2 := high f hf
    rcases List.mem_append.1 he with he | he
    · have := low e he; omega
    · have := h e he; omega

/-- Writing bytes keeps the form. -/
theorem Memory.wf_writeBytes {m : Memory} (a : Nat) (bs : List Byte) (h : Memory.wf m = true) :
    Memory.wf (Memory.writeBytes m a bs) = true := Memory.wf_splice h (Memory.wf_cells a bs) Memory.cells_range

theorem Memory.wf_shift {m : Memory} (a len dst : Nat) (h : Memory.wf m = true) :
    Memory.wf ((Memory.slice m a len).map (fun e => (e.1 - a + dst, e.2))) = true := by
  induction m with
  | nil => rfl
  | cons e m ih =>
    obtain ⟨h1, h2, h3⟩ := Memory.wf_cons.1 h
    by_cases hj : a ≤ e.1 ∧ e.1 < a + len
    · have e1 : Memory.slice (e :: m) a len = e :: Memory.slice m a len := by simp [Memory.slice, hj]
      rw [e1, List.map_cons]
      refine Memory.wf_cons.2 ⟨h1, fun f hf => ?_, ih h3⟩
      obtain ⟨g, hg, rfl⟩ := List.mem_map.1 hf
      have h4 := h2 g (List.mem_filter.1 hg).1
      have : a ≤ g.1 ∧ g.1 < a + len := by simpa [Memory.slice] using (List.mem_filter.1 hg).2
      simp only
      omega
    · have e1 : Memory.slice (e :: m) a len = Memory.slice m a len := by simp [Memory.slice, hj]
      rw [e1]; exact ih h3

/-- Copying keeps the form. -/
theorem Memory.wf_copy {m src : Memory} (dst a len : Nat) (h : Memory.wf m = true) (h' : Memory.wf src = true) :
    Memory.wf (Memory.copy m dst src a len) = true :=
  Memory.wf_splice h (Memory.wf_shift a len dst h') (Memory.shift_range src a len dst)

/-- Two memories in the form that read the same everywhere are the same. -/
theorem Memory.wf_ext {m n : Memory} (hm : Memory.wf m = true) (hn : Memory.wf n = true)
    (h : ∀ k, Memory.read m k = Memory.read n k) : m = n := by
  induction m generalizing n with
  | nil =>
    cases n with
    | nil => rfl
    | cons f n => exact absurd (h f.1).symm (by simpa [Memory.read] using (Memory.wf_cons.1 hn).1)
  | cons e m ih =>
    cases n with
    | nil => exact absurd (h e.1) (by simpa [Memory.read] using (Memory.wf_cons.1 hm).1)
    | cons f n =>
      obtain ⟨h1, h2, h3⟩ := Memory.wf_cons.1 hm
      obtain ⟨g1, g2, g3⟩ := Memory.wf_cons.1 hn
      have same : e.1 = f.1 := by
        rcases Nat.lt_trichotomy e.1 f.1 with lt | eq | gt
        · have := h e.1
          rw [Memory.read_none (m := f :: n) (k := e.1) (fun x hx => by
            rcases List.mem_cons.1 hx with hx | hx
            · subst hx; omega
            · have := g2 x hx; omega)] at this
          exact absurd this (by simpa [Memory.read] using h1)
        · exact eq
        · have := h f.1
          rw [Memory.read_none (m := e :: m) (k := f.1) (fun x hx => by
            rcases List.mem_cons.1 hx with hx | hx
            · subst hx; omega
            · have := h2 x hx; omega)] at this
          exact absurd this.symm (by simpa [Memory.read] using g1)
      have val : e.2 = f.2 := by have := h e.1; simpa [Memory.read, same] using this
      have tail : ∀ k, Memory.read m k = Memory.read n k := by
        intro k
        by_cases hk : k = e.1
        · subst hk
          rw [Memory.read_none (fun x hx => by have := h2 x hx; omega), Memory.read_none (fun x hx => by have := g2 x hx; omega)]
        · have := h k
          have n1 : ¬ e.1 = k := fun he => hk he.symm
          have n2 : ¬ f.1 = k := by omega
          simpa [Memory.read, n1, n2] using this
      rw [show e = f from Prod.ext same val, ih h3 g3 tail]

end Sys2Proof.Machine
end

