-- ==== Sys2Proof/Laws/State.lean ====
section
/-! SUPPORT. What each update of the state leaves as it was: one lemma for each update and field it does not write, true by
definition, so that no proof unfolds a record update. -/

namespace Sys2Proof.Machine

/-! `State.setCtx` writes ctxs. -/

@[simp] theorem State.setCtx_pending (s : State) (c : Nat) (x : Ctx) : (s.setCtx c x).pending = s.pending := rfl
@[simp] theorem State.setCtx_out (s : State) (c : Nat) (x : Ctx) : (s.setCtx c x).out = s.out := rfl
@[simp] theorem State.setCtx_fresh (s : State) (c : Nat) (x : Ctx) : (s.setCtx c x).fresh = s.fresh := rfl
@[simp] theorem State.setCtx_nextId (s : State) (c : Nat) (x : Ctx) : (s.setCtx c x).nextId = s.nextId := rfl
@[simp] theorem State.setCtx_flights (s : State) (c : Nat) (x : Ctx) : (s.setCtx c x).flights = s.flights := rfl
@[simp] theorem State.setCtx_phase (s : State) (c : Nat) (x : Ctx) : (s.setCtx c x).phase = s.phase := rfl
@[simp] theorem State.setCtx_glbIgnored (s : State) (c : Nat) (x : Ctx) : (s.setCtx c x).glbIgnored = s.glbIgnored := rfl
@[simp] theorem State.setCtx_devid (s : State) (c : Nat) (x : Ctx) : (s.setCtx c x).devid = s.devid := rfl
@[simp] theorem State.setCtx_slotId (s : State) (c : Nat) (x : Ctx) : (s.setCtx c x).slotId = s.slotId := rfl
@[simp] theorem State.setCtx_shadow (s : State) (c : Nat) (x : Ctx) : (s.setCtx c x).shadow = s.shadow := rfl
@[simp] theorem State.setCtx_eff (s : State) (c : Nat) (x : Ctx) : (s.setCtx c x).eff = s.eff := rfl
@[simp] theorem State.setCtx_bellPeriod (s : State) (c : Nat) (x : Ctx) : (s.setCtx c x).bellPeriod = s.bellPeriod := rfl
@[simp] theorem State.setCtx_bellEpoch (s : State) (c : Nat) (x : Ctx) : (s.setCtx c x).bellEpoch = s.bellEpoch := rfl
@[simp] theorem State.setCtx_bellNow (s : State) (c : Nat) (x : Ctx) : (s.setCtx c x).bellNow = s.bellNow := rfl
@[simp] theorem State.setCtx_resident (s : State) (c : Nat) (x : Ctx) : (s.setCtx c x).resident = s.resident := rfl
@[simp] theorem State.setCtx_switching (s : State) (c : Nat) (x : Ctx) : (s.setCtx c x).switching = s.switching := rfl
@[simp] theorem State.setCtx_switches (s : State) (c : Nat) (x : Ctx) : (s.setCtx c x).switches = s.switches := rfl
@[simp] theorem State.setCtx_mem (s : State) (c : Nat) (x : Ctx) : (s.setCtx c x).mem = s.mem := rfl
@[simp] theorem State.setCtx_crofts (s : State) (c : Nat) (x : Ctx) : (s.setCtx c x).crofts = s.crofts := rfl
@[simp] theorem State.setCtx_saved (s : State) (c : Nat) (x : Ctx) : (s.setCtx c x).saved = s.saved := rfl
@[simp] theorem State.setCtx_tally (s : State) (c : Nat) (x : Ctx) : (s.setCtx c x).tally = s.tally := rfl
@[simp] theorem State.setCtx_slots (s : State) (c : Nat) (x : Ctx) : (s.setCtx c x).slots = s.slots := rfl
@[simp] theorem State.setCtx_stations (s : State) (c : Nat) (x : Ctx) : (s.setCtx c x).stations = s.stations := rfl
@[simp] theorem State.setCtx_qps (s : State) (c : Nat) (x : Ctx) : (s.setCtx c x).qps = s.qps := rfl
@[simp] theorem State.setCtx_net (s : State) (c : Nat) (x : Ctx) : (s.setCtx c x).net = s.net := rfl
@[simp] theorem State.setCtx_group (s : State) (c : Nat) (x : Ctx) : (s.setCtx c x).group = s.group := rfl
@[simp] theorem State.setCtx_fw (s : State) (c : Nat) (x : Ctx) : (s.setCtx c x).fw = s.fw := rfl
@[simp] theorem State.setCtx_badBlocks (s : State) (c : Nat) (x : Ctx) : (s.setCtx c x).badBlocks = s.badBlocks := rfl
@[simp] theorem State.setCtx_badStores (s : State) (c : Nat) (x : Ctx) : (s.setCtx c x).badStores = s.badStores := rfl
@[simp] theorem State.setCtx_badQps (s : State) (c : Nat) (x : Ctx) : (s.setCtx c x).badQps = s.badQps := rfl
@[simp] theorem State.setCtx_sramErrors (s : State) (c : Nat) (x : Ctx) : (s.setCtx c x).sramErrors = s.sramErrors := rfl
@[simp] theorem State.setCtx_sec (s : State) (c : Nat) (x : Ctx) : (s.setCtx c x).sec = s.sec := rfl
@[simp] theorem State.setCtx_pwr (s : State) (c : Nat) (x : Ctx) : (s.setCtx c x).pwr = s.pwr := rfl
@[simp] theorem State.setCtx_hlth (s : State) (c : Nat) (x : Ctx) : (s.setCtx c x).hlth = s.hlth := rfl

/-! `State.modCtx` writes ctxs. -/

@[simp] theorem State.modCtx_pending (s : State) (c : Nat) (f : Ctx → Ctx) : (s.modCtx c f).pending = s.pending := rfl
@[simp] theorem State.modCtx_out (s : State) (c : Nat) (f : Ctx → Ctx) : (s.modCtx c f).out = s.out := rfl
@[simp] theorem State.modCtx_fresh (s : State) (c : Nat) (f : Ctx → Ctx) : (s.modCtx c f).fresh = s.fresh := rfl
@[simp] theorem State.modCtx_nextId (s : State) (c : Nat) (f : Ctx → Ctx) : (s.modCtx c f).nextId = s.nextId := rfl
@[simp] theorem State.modCtx_flights (s : State) (c : Nat) (f : Ctx → Ctx) : (s.modCtx c f).flights = s.flights := rfl
@[simp] theorem State.modCtx_phase (s : State) (c : Nat) (f : Ctx → Ctx) : (s.modCtx c f).phase = s.phase := rfl
@[simp] theorem State.modCtx_glbIgnored (s : State) (c : Nat) (f : Ctx → Ctx) : (s.modCtx c f).glbIgnored = s.glbIgnored := rfl
@[simp] theorem State.modCtx_devid (s : State) (c : Nat) (f : Ctx → Ctx) : (s.modCtx c f).devid = s.devid := rfl
@[simp] theorem State.modCtx_slotId (s : State) (c : Nat) (f : Ctx → Ctx) : (s.modCtx c f).slotId = s.slotId := rfl
@[simp] theorem State.modCtx_shadow (s : State) (c : Nat) (f : Ctx → Ctx) : (s.modCtx c f).shadow = s.shadow := rfl
@[simp] theorem State.modCtx_eff (s : State) (c : Nat) (f : Ctx → Ctx) : (s.modCtx c f).eff = s.eff := rfl
@[simp] theorem State.modCtx_bellPeriod (s : State) (c : Nat) (f : Ctx → Ctx) : (s.modCtx c f).bellPeriod = s.bellPeriod := rfl
@[simp] theorem State.modCtx_bellEpoch (s : State) (c : Nat) (f : Ctx → Ctx) : (s.modCtx c f).bellEpoch = s.bellEpoch := rfl
@[simp] theorem State.modCtx_bellNow (s : State) (c : Nat) (f : Ctx → Ctx) : (s.modCtx c f).bellNow = s.bellNow := rfl
@[simp] theorem State.modCtx_resident (s : State) (c : Nat) (f : Ctx → Ctx) : (s.modCtx c f).resident = s.resident := rfl
@[simp] theorem State.modCtx_switching (s : State) (c : Nat) (f : Ctx → Ctx) : (s.modCtx c f).switching = s.switching := rfl
@[simp] theorem State.modCtx_switches (s : State) (c : Nat) (f : Ctx → Ctx) : (s.modCtx c f).switches = s.switches := rfl
@[simp] theorem State.modCtx_mem (s : State) (c : Nat) (f : Ctx → Ctx) : (s.modCtx c f).mem = s.mem := rfl
@[simp] theorem State.modCtx_crofts (s : State) (c : Nat) (f : Ctx → Ctx) : (s.modCtx c f).crofts = s.crofts := rfl
@[simp] theorem State.modCtx_saved (s : State) (c : Nat) (f : Ctx → Ctx) : (s.modCtx c f).saved = s.saved := rfl
@[simp] theorem State.modCtx_tally (s : State) (c : Nat) (f : Ctx → Ctx) : (s.modCtx c f).tally = s.tally := rfl
@[simp] theorem State.modCtx_slots (s : State) (c : Nat) (f : Ctx → Ctx) : (s.modCtx c f).slots = s.slots := rfl
@[simp] theorem State.modCtx_stations (s : State) (c : Nat) (f : Ctx → Ctx) : (s.modCtx c f).stations = s.stations := rfl
@[simp] theorem State.modCtx_qps (s : State) (c : Nat) (f : Ctx → Ctx) : (s.modCtx c f).qps = s.qps := rfl
@[simp] theorem State.modCtx_net (s : State) (c : Nat) (f : Ctx → Ctx) : (s.modCtx c f).net = s.net := rfl
@[simp] theorem State.modCtx_group (s : State) (c : Nat) (f : Ctx → Ctx) : (s.modCtx c f).group = s.group := rfl
@[simp] theorem State.modCtx_fw (s : State) (c : Nat) (f : Ctx → Ctx) : (s.modCtx c f).fw = s.fw := rfl
@[simp] theorem State.modCtx_badBlocks (s : State) (c : Nat) (f : Ctx → Ctx) : (s.modCtx c f).badBlocks = s.badBlocks := rfl
@[simp] theorem State.modCtx_badStores (s : State) (c : Nat) (f : Ctx → Ctx) : (s.modCtx c f).badStores = s.badStores := rfl
@[simp] theorem State.modCtx_badQps (s : State) (c : Nat) (f : Ctx → Ctx) : (s.modCtx c f).badQps = s.badQps := rfl
@[simp] theorem State.modCtx_sramErrors (s : State) (c : Nat) (f : Ctx → Ctx) : (s.modCtx c f).sramErrors = s.sramErrors := rfl
@[simp] theorem State.modCtx_sec (s : State) (c : Nat) (f : Ctx → Ctx) : (s.modCtx c f).sec = s.sec := rfl
@[simp] theorem State.modCtx_pwr (s : State) (c : Nat) (f : Ctx → Ctx) : (s.modCtx c f).pwr = s.pwr := rfl
@[simp] theorem State.modCtx_hlth (s : State) (c : Nat) (f : Ctx → Ctx) : (s.modCtx c f).hlth = s.hlth := rfl

/-! `State.setCroft` writes crofts. -/

@[simp] theorem State.setCroft_pending (s : State) (l : Nat) (x : Croft) : (s.setCroft l x).pending = s.pending := rfl
@[simp] theorem State.setCroft_out (s : State) (l : Nat) (x : Croft) : (s.setCroft l x).out = s.out := rfl
@[simp] theorem State.setCroft_fresh (s : State) (l : Nat) (x : Croft) : (s.setCroft l x).fresh = s.fresh := rfl
@[simp] theorem State.setCroft_nextId (s : State) (l : Nat) (x : Croft) : (s.setCroft l x).nextId = s.nextId := rfl
@[simp] theorem State.setCroft_flights (s : State) (l : Nat) (x : Croft) : (s.setCroft l x).flights = s.flights := rfl
@[simp] theorem State.setCroft_phase (s : State) (l : Nat) (x : Croft) : (s.setCroft l x).phase = s.phase := rfl
@[simp] theorem State.setCroft_glbIgnored (s : State) (l : Nat) (x : Croft) : (s.setCroft l x).glbIgnored = s.glbIgnored := rfl
@[simp] theorem State.setCroft_devid (s : State) (l : Nat) (x : Croft) : (s.setCroft l x).devid = s.devid := rfl
@[simp] theorem State.setCroft_slotId (s : State) (l : Nat) (x : Croft) : (s.setCroft l x).slotId = s.slotId := rfl
@[simp] theorem State.setCroft_shadow (s : State) (l : Nat) (x : Croft) : (s.setCroft l x).shadow = s.shadow := rfl
@[simp] theorem State.setCroft_eff (s : State) (l : Nat) (x : Croft) : (s.setCroft l x).eff = s.eff := rfl
@[simp] theorem State.setCroft_bellPeriod (s : State) (l : Nat) (x : Croft) : (s.setCroft l x).bellPeriod = s.bellPeriod := rfl
@[simp] theorem State.setCroft_bellEpoch (s : State) (l : Nat) (x : Croft) : (s.setCroft l x).bellEpoch = s.bellEpoch := rfl
@[simp] theorem State.setCroft_bellNow (s : State) (l : Nat) (x : Croft) : (s.setCroft l x).bellNow = s.bellNow := rfl
@[simp] theorem State.setCroft_resident (s : State) (l : Nat) (x : Croft) : (s.setCroft l x).resident = s.resident := rfl
@[simp] theorem State.setCroft_switching (s : State) (l : Nat) (x : Croft) : (s.setCroft l x).switching = s.switching := rfl
@[simp] theorem State.setCroft_switches (s : State) (l : Nat) (x : Croft) : (s.setCroft l x).switches = s.switches := rfl
@[simp] theorem State.setCroft_mem (s : State) (l : Nat) (x : Croft) : (s.setCroft l x).mem = s.mem := rfl
@[simp] theorem State.setCroft_saved (s : State) (l : Nat) (x : Croft) : (s.setCroft l x).saved = s.saved := rfl
@[simp] theorem State.setCroft_tally (s : State) (l : Nat) (x : Croft) : (s.setCroft l x).tally = s.tally := rfl
@[simp] theorem State.setCroft_ctxs (s : State) (l : Nat) (x : Croft) : (s.setCroft l x).ctxs = s.ctxs := rfl
@[simp] theorem State.setCroft_slots (s : State) (l : Nat) (x : Croft) : (s.setCroft l x).slots = s.slots := rfl
@[simp] theorem State.setCroft_stations (s : State) (l : Nat) (x : Croft) : (s.setCroft l x).stations = s.stations := rfl
@[simp] theorem State.setCroft_qps (s : State) (l : Nat) (x : Croft) : (s.setCroft l x).qps = s.qps := rfl
@[simp] theorem State.setCroft_net (s : State) (l : Nat) (x : Croft) : (s.setCroft l x).net = s.net := rfl
@[simp] theorem State.setCroft_group (s : State) (l : Nat) (x : Croft) : (s.setCroft l x).group = s.group := rfl
@[simp] theorem State.setCroft_fw (s : State) (l : Nat) (x : Croft) : (s.setCroft l x).fw = s.fw := rfl
@[simp] theorem State.setCroft_badBlocks (s : State) (l : Nat) (x : Croft) : (s.setCroft l x).badBlocks = s.badBlocks := rfl
@[simp] theorem State.setCroft_badStores (s : State) (l : Nat) (x : Croft) : (s.setCroft l x).badStores = s.badStores := rfl
@[simp] theorem State.setCroft_badQps (s : State) (l : Nat) (x : Croft) : (s.setCroft l x).badQps = s.badQps := rfl
@[simp] theorem State.setCroft_sramErrors (s : State) (l : Nat) (x : Croft) : (s.setCroft l x).sramErrors = s.sramErrors := rfl
@[simp] theorem State.setCroft_sec (s : State) (l : Nat) (x : Croft) : (s.setCroft l x).sec = s.sec := rfl
@[simp] theorem State.setCroft_pwr (s : State) (l : Nat) (x : Croft) : (s.setCroft l x).pwr = s.pwr := rfl
@[simp] theorem State.setCroft_hlth (s : State) (l : Nat) (x : Croft) : (s.setCroft l x).hlth = s.hlth := rfl

/-! `State.setStrm` writes crofts. -/

@[simp] theorem State.setStrm_pending (s : State) (l : Nat) (t : Strm) (y : Stream) : (s.setStrm l t y).pending = s.pending := rfl
@[simp] theorem State.setStrm_out (s : State) (l : Nat) (t : Strm) (y : Stream) : (s.setStrm l t y).out = s.out := rfl
@[simp] theorem State.setStrm_fresh (s : State) (l : Nat) (t : Strm) (y : Stream) : (s.setStrm l t y).fresh = s.fresh := rfl
@[simp] theorem State.setStrm_nextId (s : State) (l : Nat) (t : Strm) (y : Stream) : (s.setStrm l t y).nextId = s.nextId := rfl
@[simp] theorem State.setStrm_flights (s : State) (l : Nat) (t : Strm) (y : Stream) : (s.setStrm l t y).flights = s.flights := rfl
@[simp] theorem State.setStrm_phase (s : State) (l : Nat) (t : Strm) (y : Stream) : (s.setStrm l t y).phase = s.phase := rfl
@[simp] theorem State.setStrm_glbIgnored (s : State) (l : Nat) (t : Strm) (y : Stream) : (s.setStrm l t y).glbIgnored = s.glbIgnored := rfl
@[simp] theorem State.setStrm_devid (s : State) (l : Nat) (t : Strm) (y : Stream) : (s.setStrm l t y).devid = s.devid := rfl
@[simp] theorem State.setStrm_slotId (s : State) (l : Nat) (t : Strm) (y : Stream) : (s.setStrm l t y).slotId = s.slotId := rfl
@[simp] theorem State.setStrm_shadow (s : State) (l : Nat) (t : Strm) (y : Stream) : (s.setStrm l t y).shadow = s.shadow := rfl
@[simp] theorem State.setStrm_eff (s : State) (l : Nat) (t : Strm) (y : Stream) : (s.setStrm l t y).eff = s.eff := rfl
@[simp] theorem State.setStrm_bellPeriod (s : State) (l : Nat) (t : Strm) (y : Stream) : (s.setStrm l t y).bellPeriod = s.bellPeriod := rfl
@[simp] theorem State.setStrm_bellEpoch (s : State) (l : Nat) (t : Strm) (y : Stream) : (s.setStrm l t y).bellEpoch = s.bellEpoch := rfl
@[simp] theorem State.setStrm_bellNow (s : State) (l : Nat) (t : Strm) (y : Stream) : (s.setStrm l t y).bellNow = s.bellNow := rfl
@[simp] theorem State.setStrm_resident (s : State) (l : Nat) (t : Strm) (y : Stream) : (s.setStrm l t y).resident = s.resident := rfl
@[simp] theorem State.setStrm_switching (s : State) (l : Nat) (t : Strm) (y : Stream) : (s.setStrm l t y).switching = s.switching := rfl
@[simp] theorem State.setStrm_switches (s : State) (l : Nat) (t : Strm) (y : Stream) : (s.setStrm l t y).switches = s.switches := rfl
@[simp] theorem State.setStrm_mem (s : State) (l : Nat) (t : Strm) (y : Stream) : (s.setStrm l t y).mem = s.mem := rfl
@[simp] theorem State.setStrm_saved (s : State) (l : Nat) (t : Strm) (y : Stream) : (s.setStrm l t y).saved = s.saved := rfl
@[simp] theorem State.setStrm_tally (s : State) (l : Nat) (t : Strm) (y : Stream) : (s.setStrm l t y).tally = s.tally := rfl
@[simp] theorem State.setStrm_ctxs (s : State) (l : Nat) (t : Strm) (y : Stream) : (s.setStrm l t y).ctxs = s.ctxs := rfl
@[simp] theorem State.setStrm_slots (s : State) (l : Nat) (t : Strm) (y : Stream) : (s.setStrm l t y).slots = s.slots := rfl
@[simp] theorem State.setStrm_stations (s : State) (l : Nat) (t : Strm) (y : Stream) : (s.setStrm l t y).stations = s.stations := rfl
@[simp] theorem State.setStrm_qps (s : State) (l : Nat) (t : Strm) (y : Stream) : (s.setStrm l t y).qps = s.qps := rfl
@[simp] theorem State.setStrm_net (s : State) (l : Nat) (t : Strm) (y : Stream) : (s.setStrm l t y).net = s.net := rfl
@[simp] theorem State.setStrm_group (s : State) (l : Nat) (t : Strm) (y : Stream) : (s.setStrm l t y).group = s.group := rfl
@[simp] theorem State.setStrm_fw (s : State) (l : Nat) (t : Strm) (y : Stream) : (s.setStrm l t y).fw = s.fw := rfl
@[simp] theorem State.setStrm_badBlocks (s : State) (l : Nat) (t : Strm) (y : Stream) : (s.setStrm l t y).badBlocks = s.badBlocks := rfl
@[simp] theorem State.setStrm_badStores (s : State) (l : Nat) (t : Strm) (y : Stream) : (s.setStrm l t y).badStores = s.badStores := rfl
@[simp] theorem State.setStrm_badQps (s : State) (l : Nat) (t : Strm) (y : Stream) : (s.setStrm l t y).badQps = s.badQps := rfl
@[simp] theorem State.setStrm_sramErrors (s : State) (l : Nat) (t : Strm) (y : Stream) : (s.setStrm l t y).sramErrors = s.sramErrors := rfl
@[simp] theorem State.setStrm_sec (s : State) (l : Nat) (t : Strm) (y : Stream) : (s.setStrm l t y).sec = s.sec := rfl
@[simp] theorem State.setStrm_pwr (s : State) (l : Nat) (t : Strm) (y : Stream) : (s.setStrm l t y).pwr = s.pwr := rfl
@[simp] theorem State.setStrm_hlth (s : State) (l : Nat) (t : Strm) (y : Stream) : (s.setStrm l t y).hlth = s.hlth := rfl

/-! `State.modStrm` writes crofts. -/

@[simp] theorem State.modStrm_pending (s : State) (l : Nat) (t : Strm) (f : Stream → Stream) : (s.modStrm l t f).pending = s.pending := rfl
@[simp] theorem State.modStrm_out (s : State) (l : Nat) (t : Strm) (f : Stream → Stream) : (s.modStrm l t f).out = s.out := rfl
@[simp] theorem State.modStrm_fresh (s : State) (l : Nat) (t : Strm) (f : Stream → Stream) : (s.modStrm l t f).fresh = s.fresh := rfl
@[simp] theorem State.modStrm_nextId (s : State) (l : Nat) (t : Strm) (f : Stream → Stream) : (s.modStrm l t f).nextId = s.nextId := rfl
@[simp] theorem State.modStrm_flights (s : State) (l : Nat) (t : Strm) (f : Stream → Stream) : (s.modStrm l t f).flights = s.flights := rfl
@[simp] theorem State.modStrm_phase (s : State) (l : Nat) (t : Strm) (f : Stream → Stream) : (s.modStrm l t f).phase = s.phase := rfl
@[simp] theorem State.modStrm_glbIgnored (s : State) (l : Nat) (t : Strm) (f : Stream → Stream) : (s.modStrm l t f).glbIgnored = s.glbIgnored := rfl
@[simp] theorem State.modStrm_devid (s : State) (l : Nat) (t : Strm) (f : Stream → Stream) : (s.modStrm l t f).devid = s.devid := rfl
@[simp] theorem State.modStrm_slotId (s : State) (l : Nat) (t : Strm) (f : Stream → Stream) : (s.modStrm l t f).slotId = s.slotId := rfl
@[simp] theorem State.modStrm_shadow (s : State) (l : Nat) (t : Strm) (f : Stream → Stream) : (s.modStrm l t f).shadow = s.shadow := rfl
@[simp] theorem State.modStrm_eff (s : State) (l : Nat) (t : Strm) (f : Stream → Stream) : (s.modStrm l t f).eff = s.eff := rfl
@[simp] theorem State.modStrm_bellPeriod (s : State) (l : Nat) (t : Strm) (f : Stream → Stream) : (s.modStrm l t f).bellPeriod = s.bellPeriod := rfl
@[simp] theorem State.modStrm_bellEpoch (s : State) (l : Nat) (t : Strm) (f : Stream → Stream) : (s.modStrm l t f).bellEpoch = s.bellEpoch := rfl
@[simp] theorem State.modStrm_bellNow (s : State) (l : Nat) (t : Strm) (f : Stream → Stream) : (s.modStrm l t f).bellNow = s.bellNow := rfl
@[simp] theorem State.modStrm_resident (s : State) (l : Nat) (t : Strm) (f : Stream → Stream) : (s.modStrm l t f).resident = s.resident := rfl
@[simp] theorem State.modStrm_switching (s : State) (l : Nat) (t : Strm) (f : Stream → Stream) : (s.modStrm l t f).switching = s.switching := rfl
@[simp] theorem State.modStrm_switches (s : State) (l : Nat) (t : Strm) (f : Stream → Stream) : (s.modStrm l t f).switches = s.switches := rfl
@[simp] theorem State.modStrm_mem (s : State) (l : Nat) (t : Strm) (f : Stream → Stream) : (s.modStrm l t f).mem = s.mem := rfl
@[simp] theorem State.modStrm_saved (s : State) (l : Nat) (t : Strm) (f : Stream → Stream) : (s.modStrm l t f).saved = s.saved := rfl
@[simp] theorem State.modStrm_tally (s : State) (l : Nat) (t : Strm) (f : Stream → Stream) : (s.modStrm l t f).tally = s.tally := rfl
@[simp] theorem State.modStrm_ctxs (s : State) (l : Nat) (t : Strm) (f : Stream → Stream) : (s.modStrm l t f).ctxs = s.ctxs := rfl
@[simp] theorem State.modStrm_slots (s : State) (l : Nat) (t : Strm) (f : Stream → Stream) : (s.modStrm l t f).slots = s.slots := rfl
@[simp] theorem State.modStrm_stations (s : State) (l : Nat) (t : Strm) (f : Stream → Stream) : (s.modStrm l t f).stations = s.stations := rfl
@[simp] theorem State.modStrm_qps (s : State) (l : Nat) (t : Strm) (f : Stream → Stream) : (s.modStrm l t f).qps = s.qps := rfl
@[simp] theorem State.modStrm_net (s : State) (l : Nat) (t : Strm) (f : Stream → Stream) : (s.modStrm l t f).net = s.net := rfl
@[simp] theorem State.modStrm_group (s : State) (l : Nat) (t : Strm) (f : Stream → Stream) : (s.modStrm l t f).group = s.group := rfl
@[simp] theorem State.modStrm_fw (s : State) (l : Nat) (t : Strm) (f : Stream → Stream) : (s.modStrm l t f).fw = s.fw := rfl
@[simp] theorem State.modStrm_badBlocks (s : State) (l : Nat) (t : Strm) (f : Stream → Stream) : (s.modStrm l t f).badBlocks = s.badBlocks := rfl
@[simp] theorem State.modStrm_badStores (s : State) (l : Nat) (t : Strm) (f : Stream → Stream) : (s.modStrm l t f).badStores = s.badStores := rfl
@[simp] theorem State.modStrm_badQps (s : State) (l : Nat) (t : Strm) (f : Stream → Stream) : (s.modStrm l t f).badQps = s.badQps := rfl
@[simp] theorem State.modStrm_sramErrors (s : State) (l : Nat) (t : Strm) (f : Stream → Stream) : (s.modStrm l t f).sramErrors = s.sramErrors := rfl
@[simp] theorem State.modStrm_sec (s : State) (l : Nat) (t : Strm) (f : Stream → Stream) : (s.modStrm l t f).sec = s.sec := rfl
@[simp] theorem State.modStrm_pwr (s : State) (l : Nat) (t : Strm) (f : Stream → Stream) : (s.modStrm l t f).pwr = s.pwr := rfl
@[simp] theorem State.modStrm_hlth (s : State) (l : Nat) (t : Strm) (f : Stream → Stream) : (s.modStrm l t f).hlth = s.hlth := rfl

/-! `State.setQp` writes qps. -/

@[simp] theorem State.setQp_pending (s : State) (n : Nat) (q : Qp) : (s.setQp n q).pending = s.pending := rfl
@[simp] theorem State.setQp_out (s : State) (n : Nat) (q : Qp) : (s.setQp n q).out = s.out := rfl
@[simp] theorem State.setQp_fresh (s : State) (n : Nat) (q : Qp) : (s.setQp n q).fresh = s.fresh := rfl
@[simp] theorem State.setQp_nextId (s : State) (n : Nat) (q : Qp) : (s.setQp n q).nextId = s.nextId := rfl
@[simp] theorem State.setQp_flights (s : State) (n : Nat) (q : Qp) : (s.setQp n q).flights = s.flights := rfl
@[simp] theorem State.setQp_phase (s : State) (n : Nat) (q : Qp) : (s.setQp n q).phase = s.phase := rfl
@[simp] theorem State.setQp_glbIgnored (s : State) (n : Nat) (q : Qp) : (s.setQp n q).glbIgnored = s.glbIgnored := rfl
@[simp] theorem State.setQp_devid (s : State) (n : Nat) (q : Qp) : (s.setQp n q).devid = s.devid := rfl
@[simp] theorem State.setQp_slotId (s : State) (n : Nat) (q : Qp) : (s.setQp n q).slotId = s.slotId := rfl
@[simp] theorem State.setQp_shadow (s : State) (n : Nat) (q : Qp) : (s.setQp n q).shadow = s.shadow := rfl
@[simp] theorem State.setQp_eff (s : State) (n : Nat) (q : Qp) : (s.setQp n q).eff = s.eff := rfl
@[simp] theorem State.setQp_bellPeriod (s : State) (n : Nat) (q : Qp) : (s.setQp n q).bellPeriod = s.bellPeriod := rfl
@[simp] theorem State.setQp_bellEpoch (s : State) (n : Nat) (q : Qp) : (s.setQp n q).bellEpoch = s.bellEpoch := rfl
@[simp] theorem State.setQp_bellNow (s : State) (n : Nat) (q : Qp) : (s.setQp n q).bellNow = s.bellNow := rfl
@[simp] theorem State.setQp_resident (s : State) (n : Nat) (q : Qp) : (s.setQp n q).resident = s.resident := rfl
@[simp] theorem State.setQp_switching (s : State) (n : Nat) (q : Qp) : (s.setQp n q).switching = s.switching := rfl
@[simp] theorem State.setQp_switches (s : State) (n : Nat) (q : Qp) : (s.setQp n q).switches = s.switches := rfl
@[simp] theorem State.setQp_mem (s : State) (n : Nat) (q : Qp) : (s.setQp n q).mem = s.mem := rfl
@[simp] theorem State.setQp_crofts (s : State) (n : Nat) (q : Qp) : (s.setQp n q).crofts = s.crofts := rfl
@[simp] theorem State.setQp_saved (s : State) (n : Nat) (q : Qp) : (s.setQp n q).saved = s.saved := rfl
@[simp] theorem State.setQp_tally (s : State) (n : Nat) (q : Qp) : (s.setQp n q).tally = s.tally := rfl
@[simp] theorem State.setQp_ctxs (s : State) (n : Nat) (q : Qp) : (s.setQp n q).ctxs = s.ctxs := rfl
@[simp] theorem State.setQp_slots (s : State) (n : Nat) (q : Qp) : (s.setQp n q).slots = s.slots := rfl
@[simp] theorem State.setQp_stations (s : State) (n : Nat) (q : Qp) : (s.setQp n q).stations = s.stations := rfl
@[simp] theorem State.setQp_net (s : State) (n : Nat) (q : Qp) : (s.setQp n q).net = s.net := rfl
@[simp] theorem State.setQp_group (s : State) (n : Nat) (q : Qp) : (s.setQp n q).group = s.group := rfl
@[simp] theorem State.setQp_fw (s : State) (n : Nat) (q : Qp) : (s.setQp n q).fw = s.fw := rfl
@[simp] theorem State.setQp_badBlocks (s : State) (n : Nat) (q : Qp) : (s.setQp n q).badBlocks = s.badBlocks := rfl
@[simp] theorem State.setQp_badStores (s : State) (n : Nat) (q : Qp) : (s.setQp n q).badStores = s.badStores := rfl
@[simp] theorem State.setQp_badQps (s : State) (n : Nat) (q : Qp) : (s.setQp n q).badQps = s.badQps := rfl
@[simp] theorem State.setQp_sramErrors (s : State) (n : Nat) (q : Qp) : (s.setQp n q).sramErrors = s.sramErrors := rfl
@[simp] theorem State.setQp_sec (s : State) (n : Nat) (q : Qp) : (s.setQp n q).sec = s.sec := rfl
@[simp] theorem State.setQp_pwr (s : State) (n : Nat) (q : Qp) : (s.setQp n q).pwr = s.pwr := rfl
@[simp] theorem State.setQp_hlth (s : State) (n : Nat) (q : Qp) : (s.setQp n q).hlth = s.hlth := rfl

/-! `State.modQp` writes qps. -/

@[simp] theorem State.modQp_pending (s : State) (n : Nat) (f : Qp → Qp) : (s.modQp n f).pending = s.pending := rfl
@[simp] theorem State.modQp_out (s : State) (n : Nat) (f : Qp → Qp) : (s.modQp n f).out = s.out := rfl
@[simp] theorem State.modQp_fresh (s : State) (n : Nat) (f : Qp → Qp) : (s.modQp n f).fresh = s.fresh := rfl
@[simp] theorem State.modQp_nextId (s : State) (n : Nat) (f : Qp → Qp) : (s.modQp n f).nextId = s.nextId := rfl
@[simp] theorem State.modQp_flights (s : State) (n : Nat) (f : Qp → Qp) : (s.modQp n f).flights = s.flights := rfl
@[simp] theorem State.modQp_phase (s : State) (n : Nat) (f : Qp → Qp) : (s.modQp n f).phase = s.phase := rfl
@[simp] theorem State.modQp_glbIgnored (s : State) (n : Nat) (f : Qp → Qp) : (s.modQp n f).glbIgnored = s.glbIgnored := rfl
@[simp] theorem State.modQp_devid (s : State) (n : Nat) (f : Qp → Qp) : (s.modQp n f).devid = s.devid := rfl
@[simp] theorem State.modQp_slotId (s : State) (n : Nat) (f : Qp → Qp) : (s.modQp n f).slotId = s.slotId := rfl
@[simp] theorem State.modQp_shadow (s : State) (n : Nat) (f : Qp → Qp) : (s.modQp n f).shadow = s.shadow := rfl
@[simp] theorem State.modQp_eff (s : State) (n : Nat) (f : Qp → Qp) : (s.modQp n f).eff = s.eff := rfl
@[simp] theorem State.modQp_bellPeriod (s : State) (n : Nat) (f : Qp → Qp) : (s.modQp n f).bellPeriod = s.bellPeriod := rfl
@[simp] theorem State.modQp_bellEpoch (s : State) (n : Nat) (f : Qp → Qp) : (s.modQp n f).bellEpoch = s.bellEpoch := rfl
@[simp] theorem State.modQp_bellNow (s : State) (n : Nat) (f : Qp → Qp) : (s.modQp n f).bellNow = s.bellNow := rfl
@[simp] theorem State.modQp_resident (s : State) (n : Nat) (f : Qp → Qp) : (s.modQp n f).resident = s.resident := rfl
@[simp] theorem State.modQp_switching (s : State) (n : Nat) (f : Qp → Qp) : (s.modQp n f).switching = s.switching := rfl
@[simp] theorem State.modQp_switches (s : State) (n : Nat) (f : Qp → Qp) : (s.modQp n f).switches = s.switches := rfl
@[simp] theorem State.modQp_mem (s : State) (n : Nat) (f : Qp → Qp) : (s.modQp n f).mem = s.mem := rfl
@[simp] theorem State.modQp_crofts (s : State) (n : Nat) (f : Qp → Qp) : (s.modQp n f).crofts = s.crofts := rfl
@[simp] theorem State.modQp_saved (s : State) (n : Nat) (f : Qp → Qp) : (s.modQp n f).saved = s.saved := rfl
@[simp] theorem State.modQp_tally (s : State) (n : Nat) (f : Qp → Qp) : (s.modQp n f).tally = s.tally := rfl
@[simp] theorem State.modQp_ctxs (s : State) (n : Nat) (f : Qp → Qp) : (s.modQp n f).ctxs = s.ctxs := rfl
@[simp] theorem State.modQp_slots (s : State) (n : Nat) (f : Qp → Qp) : (s.modQp n f).slots = s.slots := rfl
@[simp] theorem State.modQp_stations (s : State) (n : Nat) (f : Qp → Qp) : (s.modQp n f).stations = s.stations := rfl
@[simp] theorem State.modQp_net (s : State) (n : Nat) (f : Qp → Qp) : (s.modQp n f).net = s.net := rfl
@[simp] theorem State.modQp_group (s : State) (n : Nat) (f : Qp → Qp) : (s.modQp n f).group = s.group := rfl
@[simp] theorem State.modQp_fw (s : State) (n : Nat) (f : Qp → Qp) : (s.modQp n f).fw = s.fw := rfl
@[simp] theorem State.modQp_badBlocks (s : State) (n : Nat) (f : Qp → Qp) : (s.modQp n f).badBlocks = s.badBlocks := rfl
@[simp] theorem State.modQp_badStores (s : State) (n : Nat) (f : Qp → Qp) : (s.modQp n f).badStores = s.badStores := rfl
@[simp] theorem State.modQp_badQps (s : State) (n : Nat) (f : Qp → Qp) : (s.modQp n f).badQps = s.badQps := rfl
@[simp] theorem State.modQp_sramErrors (s : State) (n : Nat) (f : Qp → Qp) : (s.modQp n f).sramErrors = s.sramErrors := rfl
@[simp] theorem State.modQp_sec (s : State) (n : Nat) (f : Qp → Qp) : (s.modQp n f).sec = s.sec := rfl
@[simp] theorem State.modQp_pwr (s : State) (n : Nat) (f : Qp → Qp) : (s.modQp n f).pwr = s.pwr := rfl
@[simp] theorem State.modQp_hlth (s : State) (n : Nat) (f : Qp → Qp) : (s.modQp n f).hlth = s.hlth := rfl

/-! `State.send` writes out. -/

@[simp] theorem State.send_pending (s : State) (o : Output) : (s.send o).pending = s.pending := rfl
@[simp] theorem State.send_fresh (s : State) (o : Output) : (s.send o).fresh = s.fresh := rfl
@[simp] theorem State.send_nextId (s : State) (o : Output) : (s.send o).nextId = s.nextId := rfl
@[simp] theorem State.send_flights (s : State) (o : Output) : (s.send o).flights = s.flights := rfl
@[simp] theorem State.send_phase (s : State) (o : Output) : (s.send o).phase = s.phase := rfl
@[simp] theorem State.send_glbIgnored (s : State) (o : Output) : (s.send o).glbIgnored = s.glbIgnored := rfl
@[simp] theorem State.send_devid (s : State) (o : Output) : (s.send o).devid = s.devid := rfl
@[simp] theorem State.send_slotId (s : State) (o : Output) : (s.send o).slotId = s.slotId := rfl
@[simp] theorem State.send_shadow (s : State) (o : Output) : (s.send o).shadow = s.shadow := rfl
@[simp] theorem State.send_eff (s : State) (o : Output) : (s.send o).eff = s.eff := rfl
@[simp] theorem State.send_bellPeriod (s : State) (o : Output) : (s.send o).bellPeriod = s.bellPeriod := rfl
@[simp] theorem State.send_bellEpoch (s : State) (o : Output) : (s.send o).bellEpoch = s.bellEpoch := rfl
@[simp] theorem State.send_bellNow (s : State) (o : Output) : (s.send o).bellNow = s.bellNow := rfl
@[simp] theorem State.send_resident (s : State) (o : Output) : (s.send o).resident = s.resident := rfl
@[simp] theorem State.send_switching (s : State) (o : Output) : (s.send o).switching = s.switching := rfl
@[simp] theorem State.send_switches (s : State) (o : Output) : (s.send o).switches = s.switches := rfl
@[simp] theorem State.send_mem (s : State) (o : Output) : (s.send o).mem = s.mem := rfl
@[simp] theorem State.send_crofts (s : State) (o : Output) : (s.send o).crofts = s.crofts := rfl
@[simp] theorem State.send_saved (s : State) (o : Output) : (s.send o).saved = s.saved := rfl
@[simp] theorem State.send_tally (s : State) (o : Output) : (s.send o).tally = s.tally := rfl
@[simp] theorem State.send_ctxs (s : State) (o : Output) : (s.send o).ctxs = s.ctxs := rfl
@[simp] theorem State.send_slots (s : State) (o : Output) : (s.send o).slots = s.slots := rfl
@[simp] theorem State.send_stations (s : State) (o : Output) : (s.send o).stations = s.stations := rfl
@[simp] theorem State.send_qps (s : State) (o : Output) : (s.send o).qps = s.qps := rfl
@[simp] theorem State.send_net (s : State) (o : Output) : (s.send o).net = s.net := rfl
@[simp] theorem State.send_group (s : State) (o : Output) : (s.send o).group = s.group := rfl
@[simp] theorem State.send_fw (s : State) (o : Output) : (s.send o).fw = s.fw := rfl
@[simp] theorem State.send_badBlocks (s : State) (o : Output) : (s.send o).badBlocks = s.badBlocks := rfl
@[simp] theorem State.send_badStores (s : State) (o : Output) : (s.send o).badStores = s.badStores := rfl
@[simp] theorem State.send_badQps (s : State) (o : Output) : (s.send o).badQps = s.badQps := rfl
@[simp] theorem State.send_sramErrors (s : State) (o : Output) : (s.send o).sramErrors = s.sramErrors := rfl
@[simp] theorem State.send_sec (s : State) (o : Output) : (s.send o).sec = s.sec := rfl
@[simp] theorem State.send_pwr (s : State) (o : Output) : (s.send o).pwr = s.pwr := rfl
@[simp] theorem State.send_hlth (s : State) (o : Output) : (s.send o).hlth = s.hlth := rfl

/-! `State.hold` writes fw. -/

@[simp] theorem State.hold_pending (s : State) (k : Nat) (i : Instr) : (s.hold k i).pending = s.pending := rfl
@[simp] theorem State.hold_out (s : State) (k : Nat) (i : Instr) : (s.hold k i).out = s.out := rfl
@[simp] theorem State.hold_fresh (s : State) (k : Nat) (i : Instr) : (s.hold k i).fresh = s.fresh := rfl
@[simp] theorem State.hold_nextId (s : State) (k : Nat) (i : Instr) : (s.hold k i).nextId = s.nextId := rfl
@[simp] theorem State.hold_flights (s : State) (k : Nat) (i : Instr) : (s.hold k i).flights = s.flights := rfl
@[simp] theorem State.hold_phase (s : State) (k : Nat) (i : Instr) : (s.hold k i).phase = s.phase := rfl
@[simp] theorem State.hold_glbIgnored (s : State) (k : Nat) (i : Instr) : (s.hold k i).glbIgnored = s.glbIgnored := rfl
@[simp] theorem State.hold_devid (s : State) (k : Nat) (i : Instr) : (s.hold k i).devid = s.devid := rfl
@[simp] theorem State.hold_slotId (s : State) (k : Nat) (i : Instr) : (s.hold k i).slotId = s.slotId := rfl
@[simp] theorem State.hold_shadow (s : State) (k : Nat) (i : Instr) : (s.hold k i).shadow = s.shadow := rfl
@[simp] theorem State.hold_eff (s : State) (k : Nat) (i : Instr) : (s.hold k i).eff = s.eff := rfl
@[simp] theorem State.hold_bellPeriod (s : State) (k : Nat) (i : Instr) : (s.hold k i).bellPeriod = s.bellPeriod := rfl
@[simp] theorem State.hold_bellEpoch (s : State) (k : Nat) (i : Instr) : (s.hold k i).bellEpoch = s.bellEpoch := rfl
@[simp] theorem State.hold_bellNow (s : State) (k : Nat) (i : Instr) : (s.hold k i).bellNow = s.bellNow := rfl
@[simp] theorem State.hold_resident (s : State) (k : Nat) (i : Instr) : (s.hold k i).resident = s.resident := rfl
@[simp] theorem State.hold_switching (s : State) (k : Nat) (i : Instr) : (s.hold k i).switching = s.switching := rfl
@[simp] theorem State.hold_switches (s : State) (k : Nat) (i : Instr) : (s.hold k i).switches = s.switches := rfl
@[simp] theorem State.hold_mem (s : State) (k : Nat) (i : Instr) : (s.hold k i).mem = s.mem := rfl
@[simp] theorem State.hold_crofts (s : State) (k : Nat) (i : Instr) : (s.hold k i).crofts = s.crofts := rfl
@[simp] theorem State.hold_saved (s : State) (k : Nat) (i : Instr) : (s.hold k i).saved = s.saved := rfl
@[simp] theorem State.hold_tally (s : State) (k : Nat) (i : Instr) : (s.hold k i).tally = s.tally := rfl
@[simp] theorem State.hold_ctxs (s : State) (k : Nat) (i : Instr) : (s.hold k i).ctxs = s.ctxs := rfl
@[simp] theorem State.hold_slots (s : State) (k : Nat) (i : Instr) : (s.hold k i).slots = s.slots := rfl
@[simp] theorem State.hold_stations (s : State) (k : Nat) (i : Instr) : (s.hold k i).stations = s.stations := rfl
@[simp] theorem State.hold_qps (s : State) (k : Nat) (i : Instr) : (s.hold k i).qps = s.qps := rfl
@[simp] theorem State.hold_net (s : State) (k : Nat) (i : Instr) : (s.hold k i).net = s.net := rfl
@[simp] theorem State.hold_group (s : State) (k : Nat) (i : Instr) : (s.hold k i).group = s.group := rfl
@[simp] theorem State.hold_badBlocks (s : State) (k : Nat) (i : Instr) : (s.hold k i).badBlocks = s.badBlocks := rfl
@[simp] theorem State.hold_badStores (s : State) (k : Nat) (i : Instr) : (s.hold k i).badStores = s.badStores := rfl
@[simp] theorem State.hold_badQps (s : State) (k : Nat) (i : Instr) : (s.hold k i).badQps = s.badQps := rfl
@[simp] theorem State.hold_sramErrors (s : State) (k : Nat) (i : Instr) : (s.hold k i).sramErrors = s.sramErrors := rfl
@[simp] theorem State.hold_sec (s : State) (k : Nat) (i : Instr) : (s.hold k i).sec = s.sec := rfl
@[simp] theorem State.hold_pwr (s : State) (k : Nat) (i : Instr) : (s.hold k i).pwr = s.pwr := rfl
@[simp] theorem State.hold_hlth (s : State) (k : Nat) (i : Instr) : (s.hold k i).hlth = s.hlth := rfl

/-! `State.setSlot` writes slots. -/

@[simp] theorem State.setSlot_pending (s : State) (p : Nat) (x : Slot) : (s.setSlot p x).pending = s.pending := rfl
@[simp] theorem State.setSlot_out (s : State) (p : Nat) (x : Slot) : (s.setSlot p x).out = s.out := rfl
@[simp] theorem State.setSlot_fresh (s : State) (p : Nat) (x : Slot) : (s.setSlot p x).fresh = s.fresh := rfl
@[simp] theorem State.setSlot_nextId (s : State) (p : Nat) (x : Slot) : (s.setSlot p x).nextId = s.nextId := rfl
@[simp] theorem State.setSlot_flights (s : State) (p : Nat) (x : Slot) : (s.setSlot p x).flights = s.flights := rfl
@[simp] theorem State.setSlot_phase (s : State) (p : Nat) (x : Slot) : (s.setSlot p x).phase = s.phase := rfl
@[simp] theorem State.setSlot_glbIgnored (s : State) (p : Nat) (x : Slot) : (s.setSlot p x).glbIgnored = s.glbIgnored := rfl
@[simp] theorem State.setSlot_devid (s : State) (p : Nat) (x : Slot) : (s.setSlot p x).devid = s.devid := rfl
@[simp] theorem State.setSlot_slotId (s : State) (p : Nat) (x : Slot) : (s.setSlot p x).slotId = s.slotId := rfl
@[simp] theorem State.setSlot_shadow (s : State) (p : Nat) (x : Slot) : (s.setSlot p x).shadow = s.shadow := rfl
@[simp] theorem State.setSlot_eff (s : State) (p : Nat) (x : Slot) : (s.setSlot p x).eff = s.eff := rfl
@[simp] theorem State.setSlot_bellPeriod (s : State) (p : Nat) (x : Slot) : (s.setSlot p x).bellPeriod = s.bellPeriod := rfl
@[simp] theorem State.setSlot_bellEpoch (s : State) (p : Nat) (x : Slot) : (s.setSlot p x).bellEpoch = s.bellEpoch := rfl
@[simp] theorem State.setSlot_bellNow (s : State) (p : Nat) (x : Slot) : (s.setSlot p x).bellNow = s.bellNow := rfl
@[simp] theorem State.setSlot_resident (s : State) (p : Nat) (x : Slot) : (s.setSlot p x).resident = s.resident := rfl
@[simp] theorem State.setSlot_switching (s : State) (p : Nat) (x : Slot) : (s.setSlot p x).switching = s.switching := rfl
@[simp] theorem State.setSlot_switches (s : State) (p : Nat) (x : Slot) : (s.setSlot p x).switches = s.switches := rfl
@[simp] theorem State.setSlot_mem (s : State) (p : Nat) (x : Slot) : (s.setSlot p x).mem = s.mem := rfl
@[simp] theorem State.setSlot_crofts (s : State) (p : Nat) (x : Slot) : (s.setSlot p x).crofts = s.crofts := rfl
@[simp] theorem State.setSlot_saved (s : State) (p : Nat) (x : Slot) : (s.setSlot p x).saved = s.saved := rfl
@[simp] theorem State.setSlot_tally (s : State) (p : Nat) (x : Slot) : (s.setSlot p x).tally = s.tally := rfl
@[simp] theorem State.setSlot_ctxs (s : State) (p : Nat) (x : Slot) : (s.setSlot p x).ctxs = s.ctxs := rfl
@[simp] theorem State.setSlot_stations (s : State) (p : Nat) (x : Slot) : (s.setSlot p x).stations = s.stations := rfl
@[simp] theorem State.setSlot_qps (s : State) (p : Nat) (x : Slot) : (s.setSlot p x).qps = s.qps := rfl
@[simp] theorem State.setSlot_net (s : State) (p : Nat) (x : Slot) : (s.setSlot p x).net = s.net := rfl
@[simp] theorem State.setSlot_group (s : State) (p : Nat) (x : Slot) : (s.setSlot p x).group = s.group := rfl
@[simp] theorem State.setSlot_fw (s : State) (p : Nat) (x : Slot) : (s.setSlot p x).fw = s.fw := rfl
@[simp] theorem State.setSlot_badBlocks (s : State) (p : Nat) (x : Slot) : (s.setSlot p x).badBlocks = s.badBlocks := rfl
@[simp] theorem State.setSlot_badStores (s : State) (p : Nat) (x : Slot) : (s.setSlot p x).badStores = s.badStores := rfl
@[simp] theorem State.setSlot_badQps (s : State) (p : Nat) (x : Slot) : (s.setSlot p x).badQps = s.badQps := rfl
@[simp] theorem State.setSlot_sramErrors (s : State) (p : Nat) (x : Slot) : (s.setSlot p x).sramErrors = s.sramErrors := rfl
@[simp] theorem State.setSlot_sec (s : State) (p : Nat) (x : Slot) : (s.setSlot p x).sec = s.sec := rfl
@[simp] theorem State.setSlot_pwr (s : State) (p : Nat) (x : Slot) : (s.setSlot p x).pwr = s.pwr := rfl
@[simp] theorem State.setSlot_hlth (s : State) (p : Nat) (x : Slot) : (s.setSlot p x).hlth = s.hlth := rfl

/-! `State.modNet` writes net. -/

@[simp] theorem State.modNet_pending (s : State) (f : Net → Net) : (s.modNet f).pending = s.pending := rfl
@[simp] theorem State.modNet_out (s : State) (f : Net → Net) : (s.modNet f).out = s.out := rfl
@[simp] theorem State.modNet_fresh (s : State) (f : Net → Net) : (s.modNet f).fresh = s.fresh := rfl
@[simp] theorem State.modNet_nextId (s : State) (f : Net → Net) : (s.modNet f).nextId = s.nextId := rfl
@[simp] theorem State.modNet_flights (s : State) (f : Net → Net) : (s.modNet f).flights = s.flights := rfl
@[simp] theorem State.modNet_phase (s : State) (f : Net → Net) : (s.modNet f).phase = s.phase := rfl
@[simp] theorem State.modNet_glbIgnored (s : State) (f : Net → Net) : (s.modNet f).glbIgnored = s.glbIgnored := rfl
@[simp] theorem State.modNet_devid (s : State) (f : Net → Net) : (s.modNet f).devid = s.devid := rfl
@[simp] theorem State.modNet_slotId (s : State) (f : Net → Net) : (s.modNet f).slotId = s.slotId := rfl
@[simp] theorem State.modNet_shadow (s : State) (f : Net → Net) : (s.modNet f).shadow = s.shadow := rfl
@[simp] theorem State.modNet_eff (s : State) (f : Net → Net) : (s.modNet f).eff = s.eff := rfl
@[simp] theorem State.modNet_bellPeriod (s : State) (f : Net → Net) : (s.modNet f).bellPeriod = s.bellPeriod := rfl
@[simp] theorem State.modNet_bellEpoch (s : State) (f : Net → Net) : (s.modNet f).bellEpoch = s.bellEpoch := rfl
@[simp] theorem State.modNet_bellNow (s : State) (f : Net → Net) : (s.modNet f).bellNow = s.bellNow := rfl
@[simp] theorem State.modNet_resident (s : State) (f : Net → Net) : (s.modNet f).resident = s.resident := rfl
@[simp] theorem State.modNet_switching (s : State) (f : Net → Net) : (s.modNet f).switching = s.switching := rfl
@[simp] theorem State.modNet_switches (s : State) (f : Net → Net) : (s.modNet f).switches = s.switches := rfl
@[simp] theorem State.modNet_mem (s : State) (f : Net → Net) : (s.modNet f).mem = s.mem := rfl
@[simp] theorem State.modNet_crofts (s : State) (f : Net → Net) : (s.modNet f).crofts = s.crofts := rfl
@[simp] theorem State.modNet_saved (s : State) (f : Net → Net) : (s.modNet f).saved = s.saved := rfl
@[simp] theorem State.modNet_tally (s : State) (f : Net → Net) : (s.modNet f).tally = s.tally := rfl
@[simp] theorem State.modNet_ctxs (s : State) (f : Net → Net) : (s.modNet f).ctxs = s.ctxs := rfl
@[simp] theorem State.modNet_slots (s : State) (f : Net → Net) : (s.modNet f).slots = s.slots := rfl
@[simp] theorem State.modNet_stations (s : State) (f : Net → Net) : (s.modNet f).stations = s.stations := rfl
@[simp] theorem State.modNet_qps (s : State) (f : Net → Net) : (s.modNet f).qps = s.qps := rfl
@[simp] theorem State.modNet_group (s : State) (f : Net → Net) : (s.modNet f).group = s.group := rfl
@[simp] theorem State.modNet_fw (s : State) (f : Net → Net) : (s.modNet f).fw = s.fw := rfl
@[simp] theorem State.modNet_badBlocks (s : State) (f : Net → Net) : (s.modNet f).badBlocks = s.badBlocks := rfl
@[simp] theorem State.modNet_badStores (s : State) (f : Net → Net) : (s.modNet f).badStores = s.badStores := rfl
@[simp] theorem State.modNet_badQps (s : State) (f : Net → Net) : (s.modNet f).badQps = s.badQps := rfl
@[simp] theorem State.modNet_sramErrors (s : State) (f : Net → Net) : (s.modNet f).sramErrors = s.sramErrors := rfl
@[simp] theorem State.modNet_sec (s : State) (f : Net → Net) : (s.modNet f).sec = s.sec := rfl
@[simp] theorem State.modNet_pwr (s : State) (f : Net → Net) : (s.modNet f).pwr = s.pwr := rfl
@[simp] theorem State.modNet_hlth (s : State) (f : Net → Net) : (s.modNet f).hlth = s.hlth := rfl

/-! `State.setSub` writes net. -/

@[simp] theorem State.setSub_pending (s : State) (p k : Nat) (x : Subport) : (s.setSub p k x).pending = s.pending := rfl
@[simp] theorem State.setSub_out (s : State) (p k : Nat) (x : Subport) : (s.setSub p k x).out = s.out := rfl
@[simp] theorem State.setSub_fresh (s : State) (p k : Nat) (x : Subport) : (s.setSub p k x).fresh = s.fresh := rfl
@[simp] theorem State.setSub_nextId (s : State) (p k : Nat) (x : Subport) : (s.setSub p k x).nextId = s.nextId := rfl
@[simp] theorem State.setSub_flights (s : State) (p k : Nat) (x : Subport) : (s.setSub p k x).flights = s.flights := rfl
@[simp] theorem State.setSub_phase (s : State) (p k : Nat) (x : Subport) : (s.setSub p k x).phase = s.phase := rfl
@[simp] theorem State.setSub_glbIgnored (s : State) (p k : Nat) (x : Subport) : (s.setSub p k x).glbIgnored = s.glbIgnored := rfl
@[simp] theorem State.setSub_devid (s : State) (p k : Nat) (x : Subport) : (s.setSub p k x).devid = s.devid := rfl
@[simp] theorem State.setSub_slotId (s : State) (p k : Nat) (x : Subport) : (s.setSub p k x).slotId = s.slotId := rfl
@[simp] theorem State.setSub_shadow (s : State) (p k : Nat) (x : Subport) : (s.setSub p k x).shadow = s.shadow := rfl
@[simp] theorem State.setSub_eff (s : State) (p k : Nat) (x : Subport) : (s.setSub p k x).eff = s.eff := rfl
@[simp] theorem State.setSub_bellPeriod (s : State) (p k : Nat) (x : Subport) : (s.setSub p k x).bellPeriod = s.bellPeriod := rfl
@[simp] theorem State.setSub_bellEpoch (s : State) (p k : Nat) (x : Subport) : (s.setSub p k x).bellEpoch = s.bellEpoch := rfl
@[simp] theorem State.setSub_bellNow (s : State) (p k : Nat) (x : Subport) : (s.setSub p k x).bellNow = s.bellNow := rfl
@[simp] theorem State.setSub_resident (s : State) (p k : Nat) (x : Subport) : (s.setSub p k x).resident = s.resident := rfl
@[simp] theorem State.setSub_switching (s : State) (p k : Nat) (x : Subport) : (s.setSub p k x).switching = s.switching := rfl
@[simp] theorem State.setSub_switches (s : State) (p k : Nat) (x : Subport) : (s.setSub p k x).switches = s.switches := rfl
@[simp] theorem State.setSub_mem (s : State) (p k : Nat) (x : Subport) : (s.setSub p k x).mem = s.mem := rfl
@[simp] theorem State.setSub_crofts (s : State) (p k : Nat) (x : Subport) : (s.setSub p k x).crofts = s.crofts := rfl
@[simp] theorem State.setSub_saved (s : State) (p k : Nat) (x : Subport) : (s.setSub p k x).saved = s.saved := rfl
@[simp] theorem State.setSub_tally (s : State) (p k : Nat) (x : Subport) : (s.setSub p k x).tally = s.tally := rfl
@[simp] theorem State.setSub_ctxs (s : State) (p k : Nat) (x : Subport) : (s.setSub p k x).ctxs = s.ctxs := rfl
@[simp] theorem State.setSub_slots (s : State) (p k : Nat) (x : Subport) : (s.setSub p k x).slots = s.slots := rfl
@[simp] theorem State.setSub_stations (s : State) (p k : Nat) (x : Subport) : (s.setSub p k x).stations = s.stations := rfl
@[simp] theorem State.setSub_qps (s : State) (p k : Nat) (x : Subport) : (s.setSub p k x).qps = s.qps := rfl
@[simp] theorem State.setSub_group (s : State) (p k : Nat) (x : Subport) : (s.setSub p k x).group = s.group := rfl
@[simp] theorem State.setSub_fw (s : State) (p k : Nat) (x : Subport) : (s.setSub p k x).fw = s.fw := rfl
@[simp] theorem State.setSub_badBlocks (s : State) (p k : Nat) (x : Subport) : (s.setSub p k x).badBlocks = s.badBlocks := rfl
@[simp] theorem State.setSub_badStores (s : State) (p k : Nat) (x : Subport) : (s.setSub p k x).badStores = s.badStores := rfl
@[simp] theorem State.setSub_badQps (s : State) (p k : Nat) (x : Subport) : (s.setSub p k x).badQps = s.badQps := rfl
@[simp] theorem State.setSub_sramErrors (s : State) (p k : Nat) (x : Subport) : (s.setSub p k x).sramErrors = s.sramErrors := rfl
@[simp] theorem State.setSub_sec (s : State) (p k : Nat) (x : Subport) : (s.setSub p k x).sec = s.sec := rfl
@[simp] theorem State.setSub_pwr (s : State) (p k : Nat) (x : Subport) : (s.setSub p k x).pwr = s.pwr := rfl
@[simp] theorem State.setSub_hlth (s : State) (p k : Nat) (x : Subport) : (s.setSub p k x).hlth = s.hlth := rfl

/-! `State.modGroup` writes group. -/

@[simp] theorem State.modGroup_pending (s : State) (f : Group → Group) : (s.modGroup f).pending = s.pending := rfl
@[simp] theorem State.modGroup_out (s : State) (f : Group → Group) : (s.modGroup f).out = s.out := rfl
@[simp] theorem State.modGroup_fresh (s : State) (f : Group → Group) : (s.modGroup f).fresh = s.fresh := rfl
@[simp] theorem State.modGroup_nextId (s : State) (f : Group → Group) : (s.modGroup f).nextId = s.nextId := rfl
@[simp] theorem State.modGroup_flights (s : State) (f : Group → Group) : (s.modGroup f).flights = s.flights := rfl
@[simp] theorem State.modGroup_phase (s : State) (f : Group → Group) : (s.modGroup f).phase = s.phase := rfl
@[simp] theorem State.modGroup_glbIgnored (s : State) (f : Group → Group) : (s.modGroup f).glbIgnored = s.glbIgnored := rfl
@[simp] theorem State.modGroup_devid (s : State) (f : Group → Group) : (s.modGroup f).devid = s.devid := rfl
@[simp] theorem State.modGroup_slotId (s : State) (f : Group → Group) : (s.modGroup f).slotId = s.slotId := rfl
@[simp] theorem State.modGroup_shadow (s : State) (f : Group → Group) : (s.modGroup f).shadow = s.shadow := rfl
@[simp] theorem State.modGroup_eff (s : State) (f : Group → Group) : (s.modGroup f).eff = s.eff := rfl
@[simp] theorem State.modGroup_bellPeriod (s : State) (f : Group → Group) : (s.modGroup f).bellPeriod = s.bellPeriod := rfl
@[simp] theorem State.modGroup_bellEpoch (s : State) (f : Group → Group) : (s.modGroup f).bellEpoch = s.bellEpoch := rfl
@[simp] theorem State.modGroup_bellNow (s : State) (f : Group → Group) : (s.modGroup f).bellNow = s.bellNow := rfl
@[simp] theorem State.modGroup_resident (s : State) (f : Group → Group) : (s.modGroup f).resident = s.resident := rfl
@[simp] theorem State.modGroup_switching (s : State) (f : Group → Group) : (s.modGroup f).switching = s.switching := rfl
@[simp] theorem State.modGroup_switches (s : State) (f : Group → Group) : (s.modGroup f).switches = s.switches := rfl
@[simp] theorem State.modGroup_mem (s : State) (f : Group → Group) : (s.modGroup f).mem = s.mem := rfl
@[simp] theorem State.modGroup_crofts (s : State) (f : Group → Group) : (s.modGroup f).crofts = s.crofts := rfl
@[simp] theorem State.modGroup_saved (s : State) (f : Group → Group) : (s.modGroup f).saved = s.saved := rfl
@[simp] theorem State.modGroup_tally (s : State) (f : Group → Group) : (s.modGroup f).tally = s.tally := rfl
@[simp] theorem State.modGroup_ctxs (s : State) (f : Group → Group) : (s.modGroup f).ctxs = s.ctxs := rfl
@[simp] theorem State.modGroup_slots (s : State) (f : Group → Group) : (s.modGroup f).slots = s.slots := rfl
@[simp] theorem State.modGroup_stations (s : State) (f : Group → Group) : (s.modGroup f).stations = s.stations := rfl
@[simp] theorem State.modGroup_qps (s : State) (f : Group → Group) : (s.modGroup f).qps = s.qps := rfl
@[simp] theorem State.modGroup_net (s : State) (f : Group → Group) : (s.modGroup f).net = s.net := rfl
@[simp] theorem State.modGroup_fw (s : State) (f : Group → Group) : (s.modGroup f).fw = s.fw := rfl
@[simp] theorem State.modGroup_badBlocks (s : State) (f : Group → Group) : (s.modGroup f).badBlocks = s.badBlocks := rfl
@[simp] theorem State.modGroup_badStores (s : State) (f : Group → Group) : (s.modGroup f).badStores = s.badStores := rfl
@[simp] theorem State.modGroup_badQps (s : State) (f : Group → Group) : (s.modGroup f).badQps = s.badQps := rfl
@[simp] theorem State.modGroup_sramErrors (s : State) (f : Group → Group) : (s.modGroup f).sramErrors = s.sramErrors := rfl
@[simp] theorem State.modGroup_sec (s : State) (f : Group → Group) : (s.modGroup f).sec = s.sec := rfl
@[simp] theorem State.modGroup_pwr (s : State) (f : Group → Group) : (s.modGroup f).pwr = s.pwr := rfl
@[simp] theorem State.modGroup_hlth (s : State) (f : Group → Group) : (s.modGroup f).hlth = s.hlth := rfl

/-! `State.modPwr` writes pwr. -/

@[simp] theorem State.modPwr_pending (s : State) (f : Power → Power) : (s.modPwr f).pending = s.pending := rfl
@[simp] theorem State.modPwr_out (s : State) (f : Power → Power) : (s.modPwr f).out = s.out := rfl
@[simp] theorem State.modPwr_fresh (s : State) (f : Power → Power) : (s.modPwr f).fresh = s.fresh := rfl
@[simp] theorem State.modPwr_nextId (s : State) (f : Power → Power) : (s.modPwr f).nextId = s.nextId := rfl
@[simp] theorem State.modPwr_flights (s : State) (f : Power → Power) : (s.modPwr f).flights = s.flights := rfl
@[simp] theorem State.modPwr_phase (s : State) (f : Power → Power) : (s.modPwr f).phase = s.phase := rfl
@[simp] theorem State.modPwr_glbIgnored (s : State) (f : Power → Power) : (s.modPwr f).glbIgnored = s.glbIgnored := rfl
@[simp] theorem State.modPwr_devid (s : State) (f : Power → Power) : (s.modPwr f).devid = s.devid := rfl
@[simp] theorem State.modPwr_slotId (s : State) (f : Power → Power) : (s.modPwr f).slotId = s.slotId := rfl
@[simp] theorem State.modPwr_shadow (s : State) (f : Power → Power) : (s.modPwr f).shadow = s.shadow := rfl
@[simp] theorem State.modPwr_eff (s : State) (f : Power → Power) : (s.modPwr f).eff = s.eff := rfl
@[simp] theorem State.modPwr_bellPeriod (s : State) (f : Power → Power) : (s.modPwr f).bellPeriod = s.bellPeriod := rfl
@[simp] theorem State.modPwr_bellEpoch (s : State) (f : Power → Power) : (s.modPwr f).bellEpoch = s.bellEpoch := rfl
@[simp] theorem State.modPwr_bellNow (s : State) (f : Power → Power) : (s.modPwr f).bellNow = s.bellNow := rfl
@[simp] theorem State.modPwr_resident (s : State) (f : Power → Power) : (s.modPwr f).resident = s.resident := rfl
@[simp] theorem State.modPwr_switching (s : State) (f : Power → Power) : (s.modPwr f).switching = s.switching := rfl
@[simp] theorem State.modPwr_switches (s : State) (f : Power → Power) : (s.modPwr f).switches = s.switches := rfl
@[simp] theorem State.modPwr_mem (s : State) (f : Power → Power) : (s.modPwr f).mem = s.mem := rfl
@[simp] theorem State.modPwr_crofts (s : State) (f : Power → Power) : (s.modPwr f).crofts = s.crofts := rfl
@[simp] theorem State.modPwr_saved (s : State) (f : Power → Power) : (s.modPwr f).saved = s.saved := rfl
@[simp] theorem State.modPwr_tally (s : State) (f : Power → Power) : (s.modPwr f).tally = s.tally := rfl
@[simp] theorem State.modPwr_ctxs (s : State) (f : Power → Power) : (s.modPwr f).ctxs = s.ctxs := rfl
@[simp] theorem State.modPwr_slots (s : State) (f : Power → Power) : (s.modPwr f).slots = s.slots := rfl
@[simp] theorem State.modPwr_stations (s : State) (f : Power → Power) : (s.modPwr f).stations = s.stations := rfl
@[simp] theorem State.modPwr_qps (s : State) (f : Power → Power) : (s.modPwr f).qps = s.qps := rfl
@[simp] theorem State.modPwr_net (s : State) (f : Power → Power) : (s.modPwr f).net = s.net := rfl
@[simp] theorem State.modPwr_group (s : State) (f : Power → Power) : (s.modPwr f).group = s.group := rfl
@[simp] theorem State.modPwr_fw (s : State) (f : Power → Power) : (s.modPwr f).fw = s.fw := rfl
@[simp] theorem State.modPwr_badBlocks (s : State) (f : Power → Power) : (s.modPwr f).badBlocks = s.badBlocks := rfl
@[simp] theorem State.modPwr_badStores (s : State) (f : Power → Power) : (s.modPwr f).badStores = s.badStores := rfl
@[simp] theorem State.modPwr_badQps (s : State) (f : Power → Power) : (s.modPwr f).badQps = s.badQps := rfl
@[simp] theorem State.modPwr_sramErrors (s : State) (f : Power → Power) : (s.modPwr f).sramErrors = s.sramErrors := rfl
@[simp] theorem State.modPwr_sec (s : State) (f : Power → Power) : (s.modPwr f).sec = s.sec := rfl
@[simp] theorem State.modPwr_hlth (s : State) (f : Power → Power) : (s.modPwr f).hlth = s.hlth := rfl

/-! `State.modHealth` writes hlth. -/

@[simp] theorem State.modHealth_pending (s : State) (f : Health → Health) : (s.modHealth f).pending = s.pending := rfl
@[simp] theorem State.modHealth_out (s : State) (f : Health → Health) : (s.modHealth f).out = s.out := rfl
@[simp] theorem State.modHealth_fresh (s : State) (f : Health → Health) : (s.modHealth f).fresh = s.fresh := rfl
@[simp] theorem State.modHealth_nextId (s : State) (f : Health → Health) : (s.modHealth f).nextId = s.nextId := rfl
@[simp] theorem State.modHealth_flights (s : State) (f : Health → Health) : (s.modHealth f).flights = s.flights := rfl
@[simp] theorem State.modHealth_phase (s : State) (f : Health → Health) : (s.modHealth f).phase = s.phase := rfl
@[simp] theorem State.modHealth_glbIgnored (s : State) (f : Health → Health) : (s.modHealth f).glbIgnored = s.glbIgnored := rfl
@[simp] theorem State.modHealth_devid (s : State) (f : Health → Health) : (s.modHealth f).devid = s.devid := rfl
@[simp] theorem State.modHealth_slotId (s : State) (f : Health → Health) : (s.modHealth f).slotId = s.slotId := rfl
@[simp] theorem State.modHealth_shadow (s : State) (f : Health → Health) : (s.modHealth f).shadow = s.shadow := rfl
@[simp] theorem State.modHealth_eff (s : State) (f : Health → Health) : (s.modHealth f).eff = s.eff := rfl
@[simp] theorem State.modHealth_bellPeriod (s : State) (f : Health → Health) : (s.modHealth f).bellPeriod = s.bellPeriod := rfl
@[simp] theorem State.modHealth_bellEpoch (s : State) (f : Health → Health) : (s.modHealth f).bellEpoch = s.bellEpoch := rfl
@[simp] theorem State.modHealth_bellNow (s : State) (f : Health → Health) : (s.modHealth f).bellNow = s.bellNow := rfl
@[simp] theorem State.modHealth_resident (s : State) (f : Health → Health) : (s.modHealth f).resident = s.resident := rfl
@[simp] theorem State.modHealth_switching (s : State) (f : Health → Health) : (s.modHealth f).switching = s.switching := rfl
@[simp] theorem State.modHealth_switches (s : State) (f : Health → Health) : (s.modHealth f).switches = s.switches := rfl
@[simp] theorem State.modHealth_mem (s : State) (f : Health → Health) : (s.modHealth f).mem = s.mem := rfl
@[simp] theorem State.modHealth_crofts (s : State) (f : Health → Health) : (s.modHealth f).crofts = s.crofts := rfl
@[simp] theorem State.modHealth_saved (s : State) (f : Health → Health) : (s.modHealth f).saved = s.saved := rfl
@[simp] theorem State.modHealth_tally (s : State) (f : Health → Health) : (s.modHealth f).tally = s.tally := rfl
@[simp] theorem State.modHealth_ctxs (s : State) (f : Health → Health) : (s.modHealth f).ctxs = s.ctxs := rfl
@[simp] theorem State.modHealth_slots (s : State) (f : Health → Health) : (s.modHealth f).slots = s.slots := rfl
@[simp] theorem State.modHealth_stations (s : State) (f : Health → Health) : (s.modHealth f).stations = s.stations := rfl
@[simp] theorem State.modHealth_qps (s : State) (f : Health → Health) : (s.modHealth f).qps = s.qps := rfl
@[simp] theorem State.modHealth_net (s : State) (f : Health → Health) : (s.modHealth f).net = s.net := rfl
@[simp] theorem State.modHealth_group (s : State) (f : Health → Health) : (s.modHealth f).group = s.group := rfl
@[simp] theorem State.modHealth_fw (s : State) (f : Health → Health) : (s.modHealth f).fw = s.fw := rfl
@[simp] theorem State.modHealth_badBlocks (s : State) (f : Health → Health) : (s.modHealth f).badBlocks = s.badBlocks := rfl
@[simp] theorem State.modHealth_badStores (s : State) (f : Health → Health) : (s.modHealth f).badStores = s.badStores := rfl
@[simp] theorem State.modHealth_badQps (s : State) (f : Health → Health) : (s.modHealth f).badQps = s.badQps := rfl
@[simp] theorem State.modHealth_sramErrors (s : State) (f : Health → Health) : (s.modHealth f).sramErrors = s.sramErrors := rfl
@[simp] theorem State.modHealth_sec (s : State) (f : Health → Health) : (s.modHealth f).sec = s.sec := rfl
@[simp] theorem State.modHealth_pwr (s : State) (f : Health → Health) : (s.modHealth f).pwr = s.pwr := rfl

/-! `State.setCore` writes fw. -/

@[simp] theorem State.setCore_pending (s : State) (k : Nat) (x : Core) : (s.setCore k x).pending = s.pending := rfl
@[simp] theorem State.setCore_out (s : State) (k : Nat) (x : Core) : (s.setCore k x).out = s.out := rfl
@[simp] theorem State.setCore_fresh (s : State) (k : Nat) (x : Core) : (s.setCore k x).fresh = s.fresh := rfl
@[simp] theorem State.setCore_nextId (s : State) (k : Nat) (x : Core) : (s.setCore k x).nextId = s.nextId := rfl
@[simp] theorem State.setCore_flights (s : State) (k : Nat) (x : Core) : (s.setCore k x).flights = s.flights := rfl
@[simp] theorem State.setCore_phase (s : State) (k : Nat) (x : Core) : (s.setCore k x).phase = s.phase := rfl
@[simp] theorem State.setCore_glbIgnored (s : State) (k : Nat) (x : Core) : (s.setCore k x).glbIgnored = s.glbIgnored := rfl
@[simp] theorem State.setCore_devid (s : State) (k : Nat) (x : Core) : (s.setCore k x).devid = s.devid := rfl
@[simp] theorem State.setCore_slotId (s : State) (k : Nat) (x : Core) : (s.setCore k x).slotId = s.slotId := rfl
@[simp] theorem State.setCore_shadow (s : State) (k : Nat) (x : Core) : (s.setCore k x).shadow = s.shadow := rfl
@[simp] theorem State.setCore_eff (s : State) (k : Nat) (x : Core) : (s.setCore k x).eff = s.eff := rfl
@[simp] theorem State.setCore_bellPeriod (s : State) (k : Nat) (x : Core) : (s.setCore k x).bellPeriod = s.bellPeriod := rfl
@[simp] theorem State.setCore_bellEpoch (s : State) (k : Nat) (x : Core) : (s.setCore k x).bellEpoch = s.bellEpoch := rfl
@[simp] theorem State.setCore_bellNow (s : State) (k : Nat) (x : Core) : (s.setCore k x).bellNow = s.bellNow := rfl
@[simp] theorem State.setCore_resident (s : State) (k : Nat) (x : Core) : (s.setCore k x).resident = s.resident := rfl
@[simp] theorem State.setCore_switching (s : State) (k : Nat) (x : Core) : (s.setCore k x).switching = s.switching := rfl
@[simp] theorem State.setCore_switches (s : State) (k : Nat) (x : Core) : (s.setCore k x).switches = s.switches := rfl
@[simp] theorem State.setCore_mem (s : State) (k : Nat) (x : Core) : (s.setCore k x).mem = s.mem := rfl
@[simp] theorem State.setCore_crofts (s : State) (k : Nat) (x : Core) : (s.setCore k x).crofts = s.crofts := rfl
@[simp] theorem State.setCore_saved (s : State) (k : Nat) (x : Core) : (s.setCore k x).saved = s.saved := rfl
@[simp] theorem State.setCore_tally (s : State) (k : Nat) (x : Core) : (s.setCore k x).tally = s.tally := rfl
@[simp] theorem State.setCore_ctxs (s : State) (k : Nat) (x : Core) : (s.setCore k x).ctxs = s.ctxs := rfl
@[simp] theorem State.setCore_slots (s : State) (k : Nat) (x : Core) : (s.setCore k x).slots = s.slots := rfl
@[simp] theorem State.setCore_stations (s : State) (k : Nat) (x : Core) : (s.setCore k x).stations = s.stations := rfl
@[simp] theorem State.setCore_qps (s : State) (k : Nat) (x : Core) : (s.setCore k x).qps = s.qps := rfl
@[simp] theorem State.setCore_net (s : State) (k : Nat) (x : Core) : (s.setCore k x).net = s.net := rfl
@[simp] theorem State.setCore_group (s : State) (k : Nat) (x : Core) : (s.setCore k x).group = s.group := rfl
@[simp] theorem State.setCore_badBlocks (s : State) (k : Nat) (x : Core) : (s.setCore k x).badBlocks = s.badBlocks := rfl
@[simp] theorem State.setCore_badStores (s : State) (k : Nat) (x : Core) : (s.setCore k x).badStores = s.badStores := rfl
@[simp] theorem State.setCore_badQps (s : State) (k : Nat) (x : Core) : (s.setCore k x).badQps = s.badQps := rfl
@[simp] theorem State.setCore_sramErrors (s : State) (k : Nat) (x : Core) : (s.setCore k x).sramErrors = s.sramErrors := rfl
@[simp] theorem State.setCore_sec (s : State) (k : Nat) (x : Core) : (s.setCore k x).sec = s.sec := rfl
@[simp] theorem State.setCore_pwr (s : State) (k : Nat) (x : Core) : (s.setCore k x).pwr = s.pwr := rfl
@[simp] theorem State.setCore_hlth (s : State) (k : Nat) (x : Core) : (s.setCore k x).hlth = s.hlth := rfl

/-! `State.setUpd` writes fw. -/

@[simp] theorem State.setUpd_pending (s : State) (a b : Nat) : (s.setUpd a b).pending = s.pending := rfl
@[simp] theorem State.setUpd_out (s : State) (a b : Nat) : (s.setUpd a b).out = s.out := rfl
@[simp] theorem State.setUpd_fresh (s : State) (a b : Nat) : (s.setUpd a b).fresh = s.fresh := rfl
@[simp] theorem State.setUpd_nextId (s : State) (a b : Nat) : (s.setUpd a b).nextId = s.nextId := rfl
@[simp] theorem State.setUpd_flights (s : State) (a b : Nat) : (s.setUpd a b).flights = s.flights := rfl
@[simp] theorem State.setUpd_phase (s : State) (a b : Nat) : (s.setUpd a b).phase = s.phase := rfl
@[simp] theorem State.setUpd_glbIgnored (s : State) (a b : Nat) : (s.setUpd a b).glbIgnored = s.glbIgnored := rfl
@[simp] theorem State.setUpd_devid (s : State) (a b : Nat) : (s.setUpd a b).devid = s.devid := rfl
@[simp] theorem State.setUpd_slotId (s : State) (a b : Nat) : (s.setUpd a b).slotId = s.slotId := rfl
@[simp] theorem State.setUpd_shadow (s : State) (a b : Nat) : (s.setUpd a b).shadow = s.shadow := rfl
@[simp] theorem State.setUpd_eff (s : State) (a b : Nat) : (s.setUpd a b).eff = s.eff := rfl
@[simp] theorem State.setUpd_bellPeriod (s : State) (a b : Nat) : (s.setUpd a b).bellPeriod = s.bellPeriod := rfl
@[simp] theorem State.setUpd_bellEpoch (s : State) (a b : Nat) : (s.setUpd a b).bellEpoch = s.bellEpoch := rfl
@[simp] theorem State.setUpd_bellNow (s : State) (a b : Nat) : (s.setUpd a b).bellNow = s.bellNow := rfl
@[simp] theorem State.setUpd_resident (s : State) (a b : Nat) : (s.setUpd a b).resident = s.resident := rfl
@[simp] theorem State.setUpd_switching (s : State) (a b : Nat) : (s.setUpd a b).switching = s.switching := rfl
@[simp] theorem State.setUpd_switches (s : State) (a b : Nat) : (s.setUpd a b).switches = s.switches := rfl
@[simp] theorem State.setUpd_mem (s : State) (a b : Nat) : (s.setUpd a b).mem = s.mem := rfl
@[simp] theorem State.setUpd_crofts (s : State) (a b : Nat) : (s.setUpd a b).crofts = s.crofts := rfl
@[simp] theorem State.setUpd_saved (s : State) (a b : Nat) : (s.setUpd a b).saved = s.saved := rfl
@[simp] theorem State.setUpd_tally (s : State) (a b : Nat) : (s.setUpd a b).tally = s.tally := rfl
@[simp] theorem State.setUpd_ctxs (s : State) (a b : Nat) : (s.setUpd a b).ctxs = s.ctxs := rfl
@[simp] theorem State.setUpd_slots (s : State) (a b : Nat) : (s.setUpd a b).slots = s.slots := rfl
@[simp] theorem State.setUpd_stations (s : State) (a b : Nat) : (s.setUpd a b).stations = s.stations := rfl
@[simp] theorem State.setUpd_qps (s : State) (a b : Nat) : (s.setUpd a b).qps = s.qps := rfl
@[simp] theorem State.setUpd_net (s : State) (a b : Nat) : (s.setUpd a b).net = s.net := rfl
@[simp] theorem State.setUpd_group (s : State) (a b : Nat) : (s.setUpd a b).group = s.group := rfl
@[simp] theorem State.setUpd_badBlocks (s : State) (a b : Nat) : (s.setUpd a b).badBlocks = s.badBlocks := rfl
@[simp] theorem State.setUpd_badStores (s : State) (a b : Nat) : (s.setUpd a b).badStores = s.badStores := rfl
@[simp] theorem State.setUpd_badQps (s : State) (a b : Nat) : (s.setUpd a b).badQps = s.badQps := rfl
@[simp] theorem State.setUpd_sramErrors (s : State) (a b : Nat) : (s.setUpd a b).sramErrors = s.sramErrors := rfl
@[simp] theorem State.setUpd_sec (s : State) (a b : Nat) : (s.setUpd a b).sec = s.sec := rfl
@[simp] theorem State.setUpd_pwr (s : State) (a b : Nat) : (s.setUpd a b).pwr = s.pwr := rfl
@[simp] theorem State.setUpd_hlth (s : State) (a b : Nat) : (s.setUpd a b).hlth = s.hlth := rfl

/-! `State.spoil` writes mem and fresh. -/

@[simp] theorem State.spoil_pending (s : State) (a n : Nat) : (s.spoil a n).pending = s.pending := rfl
@[simp] theorem State.spoil_out (s : State) (a n : Nat) : (s.spoil a n).out = s.out := rfl
@[simp] theorem State.spoil_nextId (s : State) (a n : Nat) : (s.spoil a n).nextId = s.nextId := rfl
@[simp] theorem State.spoil_flights (s : State) (a n : Nat) : (s.spoil a n).flights = s.flights := rfl
@[simp] theorem State.spoil_phase (s : State) (a n : Nat) : (s.spoil a n).phase = s.phase := rfl
@[simp] theorem State.spoil_glbIgnored (s : State) (a n : Nat) : (s.spoil a n).glbIgnored = s.glbIgnored := rfl
@[simp] theorem State.spoil_devid (s : State) (a n : Nat) : (s.spoil a n).devid = s.devid := rfl
@[simp] theorem State.spoil_slotId (s : State) (a n : Nat) : (s.spoil a n).slotId = s.slotId := rfl
@[simp] theorem State.spoil_shadow (s : State) (a n : Nat) : (s.spoil a n).shadow = s.shadow := rfl
@[simp] theorem State.spoil_eff (s : State) (a n : Nat) : (s.spoil a n).eff = s.eff := rfl
@[simp] theorem State.spoil_bellPeriod (s : State) (a n : Nat) : (s.spoil a n).bellPeriod = s.bellPeriod := rfl
@[simp] theorem State.spoil_bellEpoch (s : State) (a n : Nat) : (s.spoil a n).bellEpoch = s.bellEpoch := rfl
@[simp] theorem State.spoil_bellNow (s : State) (a n : Nat) : (s.spoil a n).bellNow = s.bellNow := rfl
@[simp] theorem State.spoil_resident (s : State) (a n : Nat) : (s.spoil a n).resident = s.resident := rfl
@[simp] theorem State.spoil_switching (s : State) (a n : Nat) : (s.spoil a n).switching = s.switching := rfl
@[simp] theorem State.spoil_switches (s : State) (a n : Nat) : (s.spoil a n).switches = s.switches := rfl
@[simp] theorem State.spoil_crofts (s : State) (a n : Nat) : (s.spoil a n).crofts = s.crofts := rfl
@[simp] theorem State.spoil_saved (s : State) (a n : Nat) : (s.spoil a n).saved = s.saved := rfl
@[simp] theorem State.spoil_tally (s : State) (a n : Nat) : (s.spoil a n).tally = s.tally := rfl
@[simp] theorem State.spoil_ctxs (s : State) (a n : Nat) : (s.spoil a n).ctxs = s.ctxs := rfl
@[simp] theorem State.spoil_slots (s : State) (a n : Nat) : (s.spoil a n).slots = s.slots := rfl
@[simp] theorem State.spoil_stations (s : State) (a n : Nat) : (s.spoil a n).stations = s.stations := rfl
@[simp] theorem State.spoil_qps (s : State) (a n : Nat) : (s.spoil a n).qps = s.qps := rfl
@[simp] theorem State.spoil_net (s : State) (a n : Nat) : (s.spoil a n).net = s.net := rfl
@[simp] theorem State.spoil_group (s : State) (a n : Nat) : (s.spoil a n).group = s.group := rfl
@[simp] theorem State.spoil_fw (s : State) (a n : Nat) : (s.spoil a n).fw = s.fw := rfl
@[simp] theorem State.spoil_badBlocks (s : State) (a n : Nat) : (s.spoil a n).badBlocks = s.badBlocks := rfl
@[simp] theorem State.spoil_badStores (s : State) (a n : Nat) : (s.spoil a n).badStores = s.badStores := rfl
@[simp] theorem State.spoil_badQps (s : State) (a n : Nat) : (s.spoil a n).badQps = s.badQps := rfl
@[simp] theorem State.spoil_sramErrors (s : State) (a n : Nat) : (s.spoil a n).sramErrors = s.sramErrors := rfl
@[simp] theorem State.spoil_sec (s : State) (a n : Nat) : (s.spoil a n).sec = s.sec := rfl
@[simp] theorem State.spoil_pwr (s : State) (a n : Nat) : (s.spoil a n).pwr = s.pwr := rfl
@[simp] theorem State.spoil_hlth (s : State) (a n : Nat) : (s.spoil a n).hlth = s.hlth := rfl

end Sys2Proof.Machine
end

