-- ==== Sys2Proof/Laws/Table.lean ====
section
/-! SUPPORT. Sparse tables: what a read gives after a write. -/

namespace Sys2Proof.Machine

variable {α : Type}

@[simp] theorem Table.get_nil (d : α) (k : Nat) : Table.get d [] k = d := rfl

@[simp] theorem Table.get_put_same (d : α) (t : Table α) (k : Nat) (v : α) : Table.get d (Table.put t k v) k = v := by
  induction t with
  | nil => simp [Table.put, Table.get]
  | cons e t ih =>
    obtain ⟨j, w⟩ := e
    by_cases h : j = k <;> simp [Table.put, Table.get, h, ih]

theorem Table.get_put_ne (d : α) (t : Table α) {j k : Nat} (v : α) (h : j ≠ k) :
    Table.get d (Table.put t k v) j = Table.get d t j := by
  induction t with
  | nil => simp [Table.put, Table.get, Ne.symm h]
  | cons e t ih =>
    obtain ⟨i, w⟩ := e
    by_cases hi : i = k
    · subst hi; simp [Table.put, Table.get, Ne.symm h]
    · by_cases hj : i = j
      · subst hj; simp [Table.put, Table.get, hi]
      · simp [Table.put, Table.get, hi, hj, ih]

theorem Table.get_put (d : α) (t : Table α) (j k : Nat) (v : α) :
    Table.get d (Table.put t k v) j = if j = k then v else Table.get d t j := by
  by_cases h : j = k
  · subst h; simp
  · simp [h, Table.get_put_ne d t v h]

/-- A key that is filtered out reads as the default; every other key reads as before. -/
theorem Table.get_filter (d : α) (t : Table α) (p : Nat → Bool) (k : Nat) :
    Table.get d (t.filter (fun e => p e.1)) k = if p k then Table.get d t k else d := by
  induction t with
  | nil => simp [Table.get]
  | cons e t ih =>
    obtain ⟨j, w⟩ := e
    by_cases hj : j = k
    · subst hj; cases h : p j <;> simp [List.filter_cons, h, Table.get, ih]
    · cases h : p j <;> simp [List.filter_cons, h, Table.get, hj, ih]

theorem Table.get_drop (d : α) (t : Table α) (j k : Nat) :
    Table.get d (Table.drop t k) j = if j = k then d else Table.get d t j := by
  have := Table.get_filter d t (fun i => i != k) j
  by_cases h : j = k <;> simp_all [Table.drop]

/-- Every entry of a table after a write is the new one or an old one. -/
theorem Table.mem_put {t : Table α} {k : Nat} {v : α} {e : Nat × α} (h : e ∈ Table.put t k v) : e = (k, v) ∨ e ∈ t := by
  induction t with
  | nil => simpa [Table.put] using h
  | cons f t ih =>
    obtain ⟨j, w⟩ := f
    by_cases hj : j = k
    · simp only [Table.put, hj, if_true, List.mem_cons] at h
      rcases h with h | h
      · exact .inl h
      · exact .inr (List.mem_cons_of_mem _ h)
    · simp only [Table.put, hj, if_false, List.mem_cons] at h
      rcases h with h | h
      · exact .inr (by simp [h])
      · rcases ih h with h | h
        · exact .inl h
        · exact .inr (List.mem_cons_of_mem _ h)

/-- What a read gives is the default or an entry. -/
theorem Table.get_mem (d : α) (t : Table α) (k : Nat) : Table.get d t k = d ∨ (k, Table.get d t k) ∈ t := by
  induction t with
  | nil => exact .inl rfl
  | cons f t ih =>
    obtain ⟨j, w⟩ := f
    by_cases hj : j = k
    · subst hj; simp [Table.get]
    · simp only [Table.get, hj, if_false, List.mem_cons]
      rcases ih with h | h
      · exact .inl h
      · exact .inr (.inr h)

end Sys2Proof.Machine
end

