-- ==== Sys2Proof/Laws/Ops.lean ====
section
/-! SUPPORT. What the shared operations over the state do, said once for each: what a read gives after a write, which fields an
operation can change at all, and that memory stays in form. -/

namespace Sys2Proof.Machine

/-! Reads after writes. -/

@[simp] theorem State.ctx_setCtx (s : State) (c d : Nat) (x : Ctx) :
    (s.setCtx c x).ctx d = if d = c then x else s.ctx d := by
  simp only [State.ctx, State.setCtx, Table.get_put]

@[simp] theorem State.ctx_modCtx (s : State) (c d : Nat) (f : Ctx → Ctx) :
    (s.modCtx c f).ctx d = if d = c then f (s.ctx c) else s.ctx d := by
  simp only [State.modCtx, State.ctx_setCtx]

@[simp] theorem State.croft_setCroft (s : State) (l k : Nat) (x : Croft) :
    (s.setCroft l x).croft k = if k = l then x else s.croft k := by
  simp only [State.croft, State.setCroft, Table.get_put]

@[simp] theorem Croft.strm_setStrm (x : Croft) (t u : Strm) (y : Stream) :
    (x.setStrm t y).strm u = if u = t then y else x.strm u := by
  cases t <;> cases u <;> rfl

@[simp] theorem State.strm_setStrm (s : State) (l k : Nat) (t u : Strm) (y : Stream) :
    (s.setStrm l t y).strm k u = if k = l ∧ u = t then y else s.strm k u := by
  unfold State.strm State.setStrm
  by_cases h : k = l
  · subst h; simp
  · simp [h]

theorem State.croftOf_resident (s : State) (l : Nat) : s.croftOf s.resident l = s.croft l := by simp [State.croftOf]

theorem State.strmOf_resident (s : State) (l : Nat) (t : Strm) : s.strmOf s.resident l t = s.strm l t := by
  simp [State.strmOf, State.strm, State.croftOf_resident]

theorem State.setStrmOf_resident (s : State) (l : Nat) (t : Strm) (y : Stream) :
    s.setStrmOf s.resident l t y = s.setStrm l t y := by
  simp [State.setStrmOf, State.setStrm, State.setCroftOf, State.croftOf_resident]

@[simp] theorem State.qp_setQp (s : State) (n m : Nat) (q : Qp) : (s.setQp n q).qp m = if m = n then q else s.qp m := by
  simp only [State.qp, State.setQp, Table.get_put]

@[simp] theorem State.qp_modQp (s : State) (n m : Nat) (f : Qp → Qp) :
    (s.modQp n f).qp m = if m = n then f (s.qp n) else s.qp m := by
  simp only [State.modQp, State.qp_setQp]

@[simp] theorem Stream.sreg_zero (y : Stream) : y.sreg 0 = 0 := rfl

/-- A scalar register reads what was written to it; S0 reads 0 (R133). -/
theorem Stream.sreg_setS (y : Stream) (n m : Nat) (v : Word) (hn : n < 32) (hm : m < 32) :
    (y.setS n v).sreg m = if m = 0 then 0 else if m = n then v else y.sreg m := by
  unfold Stream.sreg Stream.setS
  rw [Nat.mod_eq_of_lt hn, Nat.mod_eq_of_lt hm]
  by_cases h0 : m = 0
  · simp [h0]
  · by_cases hn0 : n = 0
    · subst hn0; simp [h0]
    · simp only [h0, hn0, if_false, Table.get_put]

theorem Stream.preg_setP (y : Stream) (n m : Nat) (v : Ptr) :
    (y.setP n v).preg m = if m % 16 = n % 16 then v else y.preg m := by
  simp only [Stream.preg, Stream.setP, Table.get_put]

/-! What an operation can change. Each lemma names the fields; everything else is as it was. -/

theorem State.ibi_fields (s : State) (code : Nat) : ∃ o, s.ibi code = { s with out := o } := by
  unfold State.ibi State.send
  split
  · exact ⟨_, rfl⟩
  · exact ⟨s.out, rfl⟩

theorem State.setPhase_fields (s : State) (p : Nat) : ∃ o, s.setPhase p = { s with phase := p, out := o } := by
  unfold State.setPhase
  split
  · subst p; exact ⟨s.out, rfl⟩
  · exact State.ibi_fields _ _

/-- Sending on a queue pair changes the cache and the subport's queue, or what the queue pair holds back. -/
theorem State.transmit_fields (s : State) (n : Nat) (o : Output) :
    ∃ q w, s.transmit n o = { s with qps := q, net := w } := by
  unfold State.transmit State.cacheIn State.enqueue
  dsimp only
  split
  · exact ⟨s.qps, s.net, rfl⟩
  · split
    · split <;> exact ⟨s.qps, _, rfl⟩
    · exact ⟨_, s.net, rfl⟩

/-- What each step of a fold changes, all of it changes. -/
theorem foldl_keeps {α β : Type} (P : β → Prop) (f : β → α → β) (step : ∀ b a, P b → P (f b a)) (xs : List α) :
    ∀ b, P b → P (xs.foldl f b) := by
  induction xs with
  | nil => exact fun b h => h
  | cons x xs ih => exact fun b h => ih _ (step b x h)

/-- Queuing a work request and sending its packets changes what `transmit` changes. -/
theorem State.postAll_fields (s : State) (n : Nat) (o : Owner) (k : Nat) (d : Bool) (outs : Nat → List Output) :
    ∃ q w, s.postAll n o k d outs = { s with qps := q, net := w } := by
  unfold State.postAll
  refine foldl_keeps (fun r => ∃ q w, r = { s with qps := q, net := w }) _ (fun r a h => ?_) _ _ ?_
  rotate_left
  · exact ⟨_, s.net, rfl⟩
  obtain ⟨q, w, h⟩ := h
  obtain ⟨q', w', h'⟩ := r.transmit_fields n a
  exact ⟨q', w', by rw [h', h]⟩

theorem State.postHost_fields (s : State) (n : Nat) (ws : List (Nat × Reg × List Byte)) :
    ∃ q w, s.postHost n ws = { s with qps := q, net := w } := by
  unfold State.postHost
  refine foldl_keeps (fun r => ∃ q w, r = { s with qps := q, net := w }) _ (fun r a h => ?_) _ _ ?_
  rotate_left
  · exact ⟨_, s.net, rfl⟩
  obtain ⟨q, w, h⟩ := h
  obtain ⟨q', w', h'⟩ := r.postAll_fields n .control _ true _
  exact ⟨q', w', by rw [State.post, h', h]⟩

/-- A record into a session's ring changes the session and its queue pair's sending. -/
theorem State.writeEvent_fields (s : State) (c : Nat) (e : Event) :
    ∃ x q w, s.writeEvent c e = { s with ctxs := x, qps := q, net := w } := by
  unfold State.writeEvent
  obtain ⟨q, w, h⟩ := s.postHost_fields (s.ctx c).ses.modQpn
    [((s.ctx c).ses.slotAddr + 4, (s.ctx c).ses.evrKey, (e.record (s.ctx c).ses.head (s.ctx c).ses.phaseBit).drop 4),
     ((s.ctx c).ses.slotAddr, (s.ctx c).ses.evrKey, (e.record (s.ctx c).ses.head (s.ctx c).ses.phaseBit).take 4)]
  exact ⟨_, q, w, by dsimp only; rw [h]; rfl⟩

/-- An event changes a context's session and its queue pair's sending. -/
theorem State.raise_fields (s : State) (c tag code : Nat) (p : List (Nat × Nat)) :
    ∃ x q w, s.raise c tag code p = { s with ctxs := x, qps := q, net := w } := by
  simp only [State.raise]
  split
  · split
    · exact ⟨_, s.qps, s.net, rfl⟩
    · exact State.writeEvent_fields _ _ _
  · exact ⟨_, s.qps, s.net, rfl⟩
  · exact ⟨s.ctxs, s.qps, s.net, rfl⟩

theorem State.event_fields (s : State) (c code : Nat) (p : List (Nat × Nat)) :
    ∃ x q w, s.event c code p = { s with ctxs := x, qps := q, net := w } := State.raise_fields s c c code p

theorem State.raise_fold_fields (cs : List Nat) (tag code : Nat) (p : List (Nat × Nat)) (s : State) :
    ∃ x q w, cs.foldl (fun s c => s.raise c tag code p) s = { s with ctxs := x, qps := q, net := w } := by
  refine foldl_keeps (fun r => ∃ x q w, r = { s with ctxs := x, qps := q, net := w }) _ (fun r a h => ?_) _ _
    ⟨s.ctxs, s.qps, s.net, rfl⟩
  obtain ⟨x, q, w, h⟩ := h
  obtain ⟨x', q', w', h'⟩ := r.raise_fields a tag code p
  exact ⟨x', q', w', by rw [h', h]⟩

/-- A module-wide event changes the sessions and their queue pairs' sending. -/
theorem State.eventAll_fields (s : State) (code : Nat) (p : List (Nat × Nat)) :
    ∃ x q w, s.eventAll code p = { s with ctxs := x, qps := q, net := w } := State.raise_fold_fields _ _ _ _ _

theorem flushGo_fields (n : Nat) (s : State) (c : Nat) : ∃ x q w, flushGo n s c = { s with ctxs := x, qps := q, net := w } := by
  induction n generalizing s with
  | zero => exact ⟨s.ctxs, s.qps, s.net, rfl⟩
  | succ n ih =>
    simp only [flushGo]
    split
    · exact ⟨s.ctxs, s.qps, s.net, rfl⟩
    · split
      · exact ⟨s.ctxs, s.qps, s.net, rfl⟩
      · have key : ∀ (f : Ctx → Ctx) (e : Event), ∃ x q w,
            flushGo n ((s.modCtx c f).writeEvent c e) c = { s with ctxs := x, qps := q, net := w } := by
          intro f e
          obtain ⟨x, q, w, h⟩ := (s.modCtx c f).writeEvent_fields c e
          obtain ⟨x', q', w', h'⟩ := ih ((s.modCtx c f).writeEvent c e)
          exact ⟨x', q', w', by rw [h', h]; rfl⟩
        split <;> exact key _ _

theorem State.finish_fields (s : State) (c n : Nat) (r : Nat × List Byte) :
    ∃ x q w, s.finish c n r = { s with ctxs := x, qps := q, net := w } := by
  unfold State.finish
  split
  · exact ⟨s.ctxs, s.qps, s.net, rfl⟩
  · obtain ⟨x, q, w, h⟩ := State.event_fields (s.modCtx c _) c 0x000D _
    exact ⟨x, q, w, by rw [h]; rfl⟩

/-- A frame that a subport sends changes its queues and what is sent, and so does the tick of all of them. -/
theorem State.sendFrame_fields (s : State) (k : Nat) : ∃ w o, s.sendFrame k = { s with net := w, out := o } := by
  unfold State.sendFrame
  split
  · exact ⟨s.net, s.out, rfl⟩
  · split <;> first | exact ⟨s.net, s.out, rfl⟩ | exact ⟨_, _, rfl⟩

theorem State.portTick_fields (s : State) : ∃ w o, s.portTick = { s with net := w, out := o } := by
  have key : ∀ (ks : List Nat) (r : State), (∃ w o, r = { s with net := w, out := o }) →
      ∃ w o, ks.foldl State.sendFrame r = { s with net := w, out := o } := by
    intro ks
    induction ks with
    | nil => exact fun r h => h
    | cons k ks ih =>
      intro r ⟨w, o, h⟩
      obtain ⟨w', o', h'⟩ := r.sendFrame_fields k
      exact ih _ ⟨w', o', by rw [h', h]⟩
  exact key _ _ ⟨s.net, s.out, rfl⟩

/-- An instruction that issues changes its croft, the flights and their names. -/
theorem State.issue_fields (s : State) (l : Nat) (t : Strm) (b : Nat) (n : Need) (op : FlightOp) (ds da : Nat) (far : Option Nat)
    (p : Bool) : ∃ k fl i, s.issue l t b n op ds da far p = { s with crofts := k, flights := fl, nextId := i } := ⟨_, _, _, rfl⟩

/-- A transfer of control moves the stream's PC, or halts the stream with ADDRESS_FAULT. -/
theorem State.goTo_spec (s : State) (l : Nat) (t : Strm) (a : Nat) (link : Bool) :
    (inAnyHbm a ∧ a % 8 = 0 ∧ ((s.goTo l t a link).strm l t).pc = BitVec.ofNat 48 a) ∨
    (¬ (inAnyHbm a ∧ a % 8 = 0) ∧ s.goTo l t a link = s.faultAt l t stAddress) := by
  unfold State.goTo
  by_cases h : inAnyHbm a ∧ a % 8 = 0
  · refine .inl ⟨h.1, h.2, ?_⟩
    rw [if_pos h]; simp [State.modStrm]
  · exact .inr ⟨h, if_neg h⟩

/-- A stream that faults changes its croft, its context's session and that session's queue pair. -/
theorem State.faultAt_fields (s : State) (l : Nat) (t : Strm) (code : Nat) :
    ∃ k x q w, s.faultAt l t code = { s with crofts := k, ctxs := x, qps := q, net := w } := by
  obtain ⟨x, q, w, h⟩ := State.event_fields (s.setStrm l t ((s.strm l t).halt (s.strm l t).pc code (s.ctx s.resident).liveAttempts))
    s.resident 0x0001 [(l, 16), (t.num, 8), ((s.strm l t).pc.toNat, 48), (code, 8)]
  exact ⟨_, x, q, w, h⟩

theorem State.setCroftOf_fields (s : State) (c l : Nat) (x : Croft) :
    ∃ k a, s.setCroftOf c l x = { s with crofts := k, saved := a } := by
  unfold State.setCroftOf
  split
  · exact ⟨_, s.saved, rfl⟩
  · exact ⟨s.crofts, _, rfl⟩

theorem State.applyChange_fields (s : State) (c a : Nat) (n : Int) :
    ∃ t x, s.applyChange c a n = { s with tally := t, ctxs := x } := by
  have key : ∀ (r : State) (b : Prop) [Decidable b] (f : Ctx → Ctx), (∃ t x, r = { s with tally := t, ctxs := x }) →
      ∃ t x, (if b then r else r.modCtx c f) = { s with tally := t, ctxs := x } := by
    intro r b _ f ⟨t, x, h⟩
    by_cases hb : b
    · exact ⟨t, x, by rw [if_pos hb, h]⟩
    · rw [if_neg hb, h]; exact ⟨t, _, rfl⟩
  apply key
  split
  · exact ⟨_, s.ctxs, rfl⟩
  · exact ⟨s.tally, _, rfl⟩

/-- A change of a semaphore touches the Tally and the contexts' images and saturation notes. -/
theorem State.change_fields (s : State) (c a : Nat) (n : Int) (f : Option Nat) :
    ∃ t x, s.change c a n f = { s with tally := t, ctxs := x } := by
  simp only [State.change]
  split
  · exact ⟨s.tally, s.ctxs, rfl⟩
  · split
    · exact ⟨_, s.ctxs, rfl⟩
    · split
      · exact ⟨_, s.ctxs, rfl⟩
      · exact State.applyChange_fields s c _ n

/-- The completion of an instruction changes flights, crofts, save areas, the Tally and the contexts. -/
theorem State.complete_fields (s : State) (f : Flight) (code : Nat) :
    ∃ fl k a t x, s.complete f code = { s with flights := fl, crofts := k, saved := a, tally := t, ctxs := x } := by
  simp only [State.complete, State.setStrmOf]
  obtain ⟨k, a, h⟩ := State.setCroftOf_fields (s.dropFlight f.id) f.ctx f.croft
    (((s.dropFlight f.id).croftOf f.ctx f.croft).setStrm f.strm (((s.dropFlight f.id).strmOf f.ctx f.croft f.strm).note f.pc code))
  rw [h]
  split
  · obtain ⟨t, x, h'⟩ := State.change_fields { s.dropFlight f.id with crofts := k, saved := a } f.ctx f.doneSem f.doneAdd none
    exact ⟨_, k, a, t, x, h'⟩
  · exact ⟨_, k, a, s.tally, s.ctxs, rfl⟩

/-! The mailbox. -/

theorem State.renew_fields (s : State) (c : Nat) : ∃ x, s.renew c = { s with ctxs := x } := by
  unfold State.renew
  split
  · exact ⟨_, rfl⟩
  · exact ⟨s.ctxs, rfl⟩

/-- A command of a session whose mailbox takes it runs on the state after FP1 took it. -/
theorem State.offer_eq (s : State) (c q k : Nat) (i : Instr) (run : State → State) (h : s.takes c k) :
    s.offer c q k i run = run (s.taken c q) := by
  obtain ⟨h1, h2, h3, h4, h5⟩ := h
  obtain ⟨x, hx⟩ := s.renew_fields c
  have f2 : ∀ j, ((s.renew c).modCtx c (fun x => { x with ses := { x.ses with lastGo := q % 65536 } })).up j = s.up j := by
    intro j; rw [hx]; rfl
  have f1 : (s.renew c).group.fenced = false := by rw [hx]; exact h3
  simp [State.offer, h1, h2, f1, State.takeIn, f2, h4, h5, State.taken]

/-! Memory stays in form. -/

/-- Whatever leaves main memory and the save areas alone keeps their form. -/
theorem State.memOk_of_eq {s t : State} (hm : t.mem = s.mem) (hs : t.saved = s.saved) (h : s.memOk) : t.memOk := by
  unfold State.memOk at *; rw [hm, hs]; exact h

theorem State.memOk_mem {s : State} {m : Memory} (hm : Memory.wf m = true) (h : s.memOk) : State.memOk { s with mem := m } := ⟨hm, h.2⟩

/-- A save area that keeps its store keeps the form; so does one no save has written. -/
theorem State.memOk_area {s : State} (h : s.memOk) (c l : Nat) : Memory.wf (s.area c l).store = true := by
  rcases Table.get_mem {} s.saved (c * 288 + l) with e | e
  · unfold State.area; rw [e]; rfl
  · exact h.2 _ e

theorem State.setCroftOf_memOk {s : State} (h : s.memOk) (c l : Nat) (x : Croft) : (s.setCroftOf c l x).memOk := by
  unfold State.setCroftOf
  split
  · exact State.memOk_of_eq rfl rfl h
  · refine ⟨h.1, fun e he => ?_⟩
    rcases Table.mem_put he with rfl | he
    · exact State.memOk_area h c l
    · exact h.2 _ he

theorem State.spoil_memOk {s : State} (h : s.memOk) (a len : Nat) : (s.spoil a len).memOk :=
  State.memOk_mem (s := (s.drawBytes len).2) (Memory.wf_writeBytes _ _ h.1) (State.memOk_of_eq rfl rfl h)

theorem State.complete_memOk {s : State} (h : s.memOk) (f : Flight) (code : Nat) : (s.complete f code).memOk := by
  have h1 : (s.dropFlight f.id).memOk := State.memOk_of_eq rfl rfl h
  have h2 := State.setCroftOf_memOk h1 f.ctx f.croft (((s.dropFlight f.id).croftOf f.ctx f.croft).setStrm f.strm
    (((s.dropFlight f.id).strmOf f.ctx f.croft f.strm).note f.pc code))
  simp only [State.complete, State.setStrmOf]
  split
  · obtain ⟨t, x, e⟩ := State.change_fields _ f.ctx f.doneSem (f.doneAdd : Int) none
    simp only [State.signal]
    rw [e]; exact State.memOk_of_eq rfl rfl h2
  · exact h2

end Sys2Proof.Machine
end

