-- ==== Sys2Proof/Laws/PerInstr.lean ====
section
/-! SUPPORT. Per-instruction laws. Family WordFit: the word of a well-formed instruction carries its row's major opcode (R137, R145),
so that no two rows take one word. -/

namespace Sys2Proof.Laws.WordFit

open Sys2Proof

/-- The major opcode of a row (R145); rows that are no instruction, and the row of the unassigned opcodes, have none. -/
def row : Instr → Option Nat
  | .nop _ _ _ => some 0x00
  | .jmp _ _ _ => some 0x01
  | .br _ _ _ => some 0x02
  | .loop _ _ _ => some 0x03
  | .call _ _ _ => some 0x04
  | .ret _ _ _ => some 0x05
  | .sli _ _ _ => some 0x06
  | .salu _ _ _ => some 0x07
  | .pset _ _ _ => some 0x08
  | .bellw _ _ _ => some 0x09
  | .rdstat _ _ _ => some 0x0A
  | .rdctx _ _ _ => some 0x0B
  | .halt _ _ _ => some 0x0C
  | .mma _ _ _ => some 0x10
  | .mmat _ _ _ => some 0x11
  | .drain _ _ _ => some 0x12
  | .accld _ _ _ => some 0x13
  | .accst _ _ _ => some 0x14
  | .comet _ _ _ => some 0x15
  | .cvt _ _ _ => some 0x20
  | .cvtt _ _ _ => some 0x21
  | .rot _ _ _ => some 0x22
  | .stat _ _ _ => some 0x23
  | .vadd _ _ _ => some 0x30
  | .vsub _ _ _ => some 0x31
  | .vmul _ _ _ => some 0x32
  | .vfma _ _ _ => some 0x33
  | .vmax _ _ _ => some 0x34
  | .vmin _ _ _ => some 0x35
  | .vscl _ _ _ => some 0x39
  | .vun _ _ _ => some 0x36
  | .vred _ _ _ => some 0x37
  | .vbcast _ _ _ => some 0x38
  | .vcmpsel _ _ _ => some 0x3A
  | .vmov _ _ _ => some 0x3B
  | .ld _ _ _ => some 0x40
  | .st _ _ _ => some 0x41
  | .ldt _ _ _ => some 0x42
  | .stt _ _ _ => some 0x43
  | .gather _ _ _ => some 0x44
  | .prefetch _ _ _ => some 0x45
  | .wait _ _ _ => some 0x50
  | .sadd _ _ _ => some 0x51
  | .ssub _ _ _ => some 0x52
  | .sread _ _ _ => some 0x53
  | .put _ _ _ => some 0x60
  | .get _ _ _ => some 0x61
  | .redw _ _ _ => some 0x62
  | .nsig _ _ _ => some 0x63
  | .vote _ _ _ => some 0x64
  | .upel _ _ _ => some 0x70
  | .uplw _ _ _ => some 0x71
  | .upskip _ _ _ => some 0x72
  | .upcmt _ _ _ => some 0x73
  | _ => none

/-- The major opcode that the word of an instruction carries. -/
def carried : Instr → Option Nat
  | .nop _ _ w => some (opcodeOf w)
  | .jmp _ _ w => some (opcodeOf w)
  | .br _ _ w => some (opcodeOf w)
  | .loop _ _ w => some (opcodeOf w)
  | .call _ _ w => some (opcodeOf w)
  | .ret _ _ w => some (opcodeOf w)
  | .sli _ _ w => some (opcodeOf w)
  | .salu _ _ w => some (opcodeOf w)
  | .pset _ _ w => some (opcodeOf w)
  | .bellw _ _ w => some (opcodeOf w)
  | .rdstat _ _ w => some (opcodeOf w)
  | .rdctx _ _ w => some (opcodeOf w)
  | .halt _ _ w => some (opcodeOf w)
  | .reservedOpcode _ _ w => some (opcodeOf w)
  | .mma _ _ w => some (opcodeOf w)
  | .mmat _ _ w => some (opcodeOf w)
  | .drain _ _ w => some (opcodeOf w)
  | .accld _ _ w => some (opcodeOf w)
  | .accst _ _ w => some (opcodeOf w)
  | .comet _ _ w => some (opcodeOf w)
  | .cvt _ _ w => some (opcodeOf w)
  | .cvtt _ _ w => some (opcodeOf w)
  | .rot _ _ w => some (opcodeOf w)
  | .stat _ _ w => some (opcodeOf w)
  | .vadd _ _ w => some (opcodeOf w)
  | .vsub _ _ w => some (opcodeOf w)
  | .vmul _ _ w => some (opcodeOf w)
  | .vfma _ _ w => some (opcodeOf w)
  | .vmax _ _ w => some (opcodeOf w)
  | .vmin _ _ w => some (opcodeOf w)
  | .vscl _ _ w => some (opcodeOf w)
  | .vun _ _ w => some (opcodeOf w)
  | .vred _ _ w => some (opcodeOf w)
  | .vbcast _ _ w => some (opcodeOf w)
  | .vcmpsel _ _ w => some (opcodeOf w)
  | .vmov _ _ w => some (opcodeOf w)
  | .ld _ _ w => some (opcodeOf w)
  | .st _ _ w => some (opcodeOf w)
  | .ldt _ _ w => some (opcodeOf w)
  | .stt _ _ w => some (opcodeOf w)
  | .gather _ _ w => some (opcodeOf w)
  | .prefetch _ _ w => some (opcodeOf w)
  | .wait _ _ w => some (opcodeOf w)
  | .sadd _ _ w => some (opcodeOf w)
  | .ssub _ _ w => some (opcodeOf w)
  | .sread _ _ w => some (opcodeOf w)
  | .put _ _ w => some (opcodeOf w)
  | .get _ _ w => some (opcodeOf w)
  | .redw _ _ w => some (opcodeOf w)
  | .nsig _ _ w => some (opcodeOf w)
  | .vote _ _ w => some (opcodeOf w)
  | .upel _ _ w => some (opcodeOf w)
  | .uplw _ _ w => some (opcodeOf w)
  | .upskip _ _ w => some (opcodeOf w)
  | .upcmt _ _ w => some (opcodeOf w)
  | _ => none

/-- A well-formed instruction of a row with an opcode carries that opcode; a well-formed reserved one carries none of them. -/
def Statement (i : Instr) : Prop :=
  i.wf = true → (∀ o, row i = some o → carried i = some o) ∧ (row i = none → ∀ o, carried i = some o → o ∉ assignedOpcodes)

/-- A row that is no instruction carries no opcode. -/
theorem of_none (i : Instr) (h : row i = none) (h' : carried i = none) : Statement i := by
  intro _; simp [h, h']

/-- A row with an opcode. -/
theorem of_some (i : Instr) (o p : Nat) (h : row i = some o) (h' : carried i = some p) (w : i.wf = (p == o)) : Statement i := by
  intro hw
  rw [w, beq_iff_eq] at hw
  simp [h, h', hw]

theorem nop (c : CroftId) (t : Strm) (w) : Statement (.nop c t w) := of_some _ _ _ rfl rfl rfl
theorem jmp (c : CroftId) (t : Strm) (w) : Statement (.jmp c t w) := of_some _ _ _ rfl rfl rfl
theorem br (c : CroftId) (t : Strm) (w) : Statement (.br c t w) := of_some _ _ _ rfl rfl rfl
theorem loop (c : CroftId) (t : Strm) (w) : Statement (.loop c t w) := of_some _ _ _ rfl rfl rfl
theorem call (c : CroftId) (t : Strm) (w) : Statement (.call c t w) := of_some _ _ _ rfl rfl rfl
theorem ret (c : CroftId) (t : Strm) (w) : Statement (.ret c t w) := of_some _ _ _ rfl rfl rfl
theorem sli (c : CroftId) (t : Strm) (w) : Statement (.sli c t w) := of_some _ _ _ rfl rfl rfl
theorem salu (c : CroftId) (t : Strm) (w) : Statement (.salu c t w) := of_some _ _ _ rfl rfl rfl
theorem pset (c : CroftId) (t : Strm) (w) : Statement (.pset c t w) := of_some _ _ _ rfl rfl rfl
theorem bellw (c : CroftId) (t : Strm) (w) : Statement (.bellw c t w) := of_some _ _ _ rfl rfl rfl
theorem rdstat (c : CroftId) (t : Strm) (w) : Statement (.rdstat c t w) := of_some _ _ _ rfl rfl rfl
theorem rdctx (c : CroftId) (t : Strm) (w) : Statement (.rdctx c t w) := of_some _ _ _ rfl rfl rfl
theorem halt (c : CroftId) (t : Strm) (w) : Statement (.halt c t w) := of_some _ _ _ rfl rfl rfl
theorem reservedOpcode (c : CroftId) (t : Strm) (w) : Statement (.reservedOpcode c t w) := by
  intro hw
  refine ⟨fun o h => (by cases h), fun _ o h => ?_⟩
  cases h
  simpa [Instr.wf] using hw
theorem mma (c : CroftId) (t : Strm) (w) : Statement (.mma c t w) := of_some _ _ _ rfl rfl rfl
theorem mmat (c : CroftId) (t : Strm) (w) : Statement (.mmat c t w) := of_some _ _ _ rfl rfl rfl
theorem drain (c : CroftId) (t : Strm) (w) : Statement (.drain c t w) := of_some _ _ _ rfl rfl rfl
theorem accld (c : CroftId) (t : Strm) (w) : Statement (.accld c t w) := of_some _ _ _ rfl rfl rfl
theorem accst (c : CroftId) (t : Strm) (w) : Statement (.accst c t w) := of_some _ _ _ rfl rfl rfl
theorem comet (c : CroftId) (t : Strm) (w) : Statement (.comet c t w) := of_some _ _ _ rfl rfl rfl
theorem cvt (c : CroftId) (t : Strm) (w) : Statement (.cvt c t w) := of_some _ _ _ rfl rfl rfl
theorem cvtt (c : CroftId) (t : Strm) (w) : Statement (.cvtt c t w) := of_some _ _ _ rfl rfl rfl
theorem rot (c : CroftId) (t : Strm) (w) : Statement (.rot c t w) := of_some _ _ _ rfl rfl rfl
theorem stat (c : CroftId) (t : Strm) (w) : Statement (.stat c t w) := of_some _ _ _ rfl rfl rfl
theorem vadd (c : CroftId) (t : Strm) (w) : Statement (.vadd c t w) := of_some _ _ _ rfl rfl rfl
theorem vsub (c : CroftId) (t : Strm) (w) : Statement (.vsub c t w) := of_some _ _ _ rfl rfl rfl
theorem vmul (c : CroftId) (t : Strm) (w) : Statement (.vmul c t w) := of_some _ _ _ rfl rfl rfl
theorem vfma (c : CroftId) (t : Strm) (w) : Statement (.vfma c t w) := of_some _ _ _ rfl rfl rfl
theorem vmax (c : CroftId) (t : Strm) (w) : Statement (.vmax c t w) := of_some _ _ _ rfl rfl rfl
theorem vmin (c : CroftId) (t : Strm) (w) : Statement (.vmin c t w) := of_some _ _ _ rfl rfl rfl
theorem vscl (c : CroftId) (t : Strm) (w) : Statement (.vscl c t w) := of_some _ _ _ rfl rfl rfl
theorem vun (c : CroftId) (t : Strm) (w) : Statement (.vun c t w) := of_some _ _ _ rfl rfl rfl
theorem vred (c : CroftId) (t : Strm) (w) : Statement (.vred c t w) := of_some _ _ _ rfl rfl rfl
theorem vbcast (c : CroftId) (t : Strm) (w) : Statement (.vbcast c t w) := of_some _ _ _ rfl rfl rfl
theorem vcmpsel (c : CroftId) (t : Strm) (w) : Statement (.vcmpsel c t w) := of_some _ _ _ rfl rfl rfl
theorem vmov (c : CroftId) (t : Strm) (w) : Statement (.vmov c t w) := of_some _ _ _ rfl rfl rfl
theorem ld (c : CroftId) (t : Strm) (w) : Statement (.ld c t w) := of_some _ _ _ rfl rfl rfl
theorem st (c : CroftId) (t : Strm) (w) : Statement (.st c t w) := of_some _ _ _ rfl rfl rfl
theorem ldt (c : CroftId) (t : Strm) (w) : Statement (.ldt c t w) := of_some _ _ _ rfl rfl rfl
theorem stt (c : CroftId) (t : Strm) (w) : Statement (.stt c t w) := of_some _ _ _ rfl rfl rfl
theorem gather (c : CroftId) (t : Strm) (w) : Statement (.gather c t w) := of_some _ _ _ rfl rfl rfl
theorem prefetch (c : CroftId) (t : Strm) (w) : Statement (.prefetch c t w) := of_some _ _ _ rfl rfl rfl
theorem wait (c : CroftId) (t : Strm) (w) : Statement (.wait c t w) := of_some _ _ _ rfl rfl rfl
theorem sadd (c : CroftId) (t : Strm) (w) : Statement (.sadd c t w) := of_some _ _ _ rfl rfl rfl
theorem ssub (c : CroftId) (t : Strm) (w) : Statement (.ssub c t w) := of_some _ _ _ rfl rfl rfl
theorem sread (c : CroftId) (t : Strm) (w) : Statement (.sread c t w) := of_some _ _ _ rfl rfl rfl
theorem put (c : CroftId) (t : Strm) (w) : Statement (.put c t w) := of_some _ _ _ rfl rfl rfl
theorem get (c : CroftId) (t : Strm) (w) : Statement (.get c t w) := of_some _ _ _ rfl rfl rfl
theorem redw (c : CroftId) (t : Strm) (w) : Statement (.redw c t w) := of_some _ _ _ rfl rfl rfl
theorem nsig (c : CroftId) (t : Strm) (w) : Statement (.nsig c t w) := of_some _ _ _ rfl rfl rfl
theorem vote (c : CroftId) (t : Strm) (w) : Statement (.vote c t w) := of_some _ _ _ rfl rfl rfl
theorem upel (c : CroftId) (t : Strm) (w) : Statement (.upel c t w) := of_some _ _ _ rfl rfl rfl
theorem uplw (c : CroftId) (t : Strm) (w) : Statement (.uplw c t w) := of_some _ _ _ rfl rfl rfl
theorem upskip (c : CroftId) (t : Strm) (w) : Statement (.upskip c t w) := of_some _ _ _ rfl rfl rfl
theorem upcmt (c : CroftId) (t : Strm) (w) : Statement (.upcmt c t w) := of_some _ _ _ rfl rfl rfl
theorem instructionWindowArrival (a b c) : Statement (.instructionWindowArrival a b c) := of_none _ rfl rfl
theorem mmaBlockLanding (a) : Statement (.mmaBlockLanding a) := of_none _ rfl rfl
theorem conversionComplete (a) : Statement (.conversionComplete a) := of_none _ rfl rfl
theorem statRingWrite (a) : Statement (.statRingWrite a) := of_none _ rfl rfl
theorem dataMoveComplete (a b) : Statement (.dataMoveComplete a b) := of_none _ rfl rfl
theorem prefetchBlockLanding (a b) : Statement (.prefetchBlockLanding a b) := of_none _ rfl rfl
theorem farMemoryTimeout (a) : Statement (.farMemoryTimeout a) := of_none _ rfl rfl
theorem putAck (a) : Statement (.putAck a) := of_none _ rfl rfl
theorem getResponse (a b) : Statement (.getResponse a b) := of_none _ rfl rfl
theorem redwAck (a) : Statement (.redwAck a) := of_none _ rfl rfl
theorem nsigAck (a) : Statement (.nsigAck a) := of_none _ rfl rfl
theorem voteRecorded (a) : Statement (.voteRecorded a) := of_none _ rfl rfl
theorem upelComplete (a) : Statement (.upelComplete a) := of_none _ rfl rfl
theorem uplwComplete (a) : Statement (.uplwComplete a) := of_none _ rfl rfl
theorem waitRegistration (a b) : Statement (.waitRegistration a b) := of_none _ rfl rfl
theorem wakeNotice (a b) : Statement (.wakeNotice a b) := of_none _ rfl rfl
theorem withdrawalConfirm (a b) : Statement (.withdrawalConfirm a b) := of_none _ rfl rfl
theorem tallyDeferredApply (a) : Statement (.tallyDeferredApply a) := of_none _ rfl rfl
theorem contextRestoreDone : Statement (Instr.contextRestoreDone) := of_none _ rfl rfl
theorem bell (a b) : Statement (.bell a b) := of_none _ rfl rfl
theorem leaseLapse (a) : Statement (.leaseLapse a) := of_none _ rfl rfl
theorem releaseTimeout (a) : Statement (.releaseTimeout a) := of_none _ rfl rfl
theorem heartbeatTimeout (a) : Statement (.heartbeatTimeout a) := of_none _ rfl rfl
theorem parentSilence : Statement (Instr.parentSilence) := of_none _ rfl rfl
theorem suspectDeclare (a) : Statement (.suspectDeclare a) := of_none _ rfl rfl
theorem waitStall (a b) : Statement (.waitStall a b) := of_none _ rfl rfl
theorem heartbeat (a b c d) : Statement (.heartbeat a b c d) := of_none _ rfl rfl
theorem report (a b c d e f) : Statement (.report a b c d e f) := of_none _ rfl rfl
theorem notice (a b c) : Statement (.notice a b c) := of_none _ rfl rfl
theorem probe (a b c) : Statement (.probe a b c) := of_none _ rfl rfl
theorem probeReply (a b) : Statement (.probeReply a b) := of_none _ rfl rfl
theorem ballot (a b c) : Statement (.ballot a b c) := of_none _ rfl rfl
theorem decision (a b) : Statement (.decision a b) := of_none _ rfl rfl
theorem state (a b c) : Statement (.state a b c) := of_none _ rfl rfl
theorem resume (a b c d) : Statement (.resume a b c d) := of_none _ rfl rfl
theorem quietReached (a) : Statement (.quietReached a) := of_none _ rfl rfl
theorem takeover (a b c d) : Statement (.takeover a b c d) := of_none _ rfl rfl
theorem gratuitousArp : Statement (Instr.gratuitousArp) := of_none _ rfl rfl
theorem groupLoss (a b c) : Statement (.groupLoss a b c) := of_none _ rfl rfl
theorem sesOpen (a b c d) : Statement (.sesOpen a b c d) := of_none _ rfl rfl
theorem reduceWrite (a b c d e) : Statement (.reduceWrite a b c d e) := of_none _ rfl rfl
theorem sig (a b c d e) : Statement (.sig a b c d e) := of_none _ rfl rfl
theorem holdSigApply (a) : Statement (.holdSigApply a) := of_none _ rfl rfl
theorem rdmaWriteInbound (a b c d e f) : Statement (.rdmaWriteInbound a b c d e f) := of_none _ rfl rfl
theorem rdmaReadInbound (a b c d e f) : Statement (.rdmaReadInbound a b c d e f) := of_none _ rfl rfl
theorem fetchAndAdd (a b c d e f) : Statement (.fetchAndAdd a b c d e f) := of_none _ rfl rfl
theorem compareAndSwap (a b c d e f g) : Statement (.compareAndSwap a b c d e f g) := of_none _ rfl rfl
theorem writeWithImmediate (a b c d e f g) : Statement (.writeWithImmediate a b c d e f g) := of_none _ rfl rfl
theorem sendInbound (a b c d) : Statement (.sendInbound a b c d) := of_none _ rfl rfl
theorem rnrNak (a b c) : Statement (.rnrNak a b c) := of_none _ rfl rfl
theorem ackTimeout (a) : Statement (.ackTimeout a) := of_none _ rfl rfl
theorem rnrTimer (a) : Statement (.rnrTimer a) := of_none _ rfl rfl
theorem cnp (a) : Statement (.cnp a) := of_none _ rfl rfl
theorem alphaDecay (a) : Statement (.alphaDecay a) := of_none _ rfl rfl
theorem rateRecovery (a) : Statement (.rateRecovery a) := of_none _ rfl rfl
theorem pfcFrame (a b c d) : Statement (.pfcFrame a b c d) := of_none _ rfl rfl
theorem pfcStorm (a b c) : Statement (.pfcStorm a b c) := of_none _ rfl rfl
theorem arpRequest (a b c) : Statement (.arpRequest a b c) := of_none _ rfl rfl
theorem neighborSolicitation (a b c) : Statement (.neighborSolicitation a b c) := of_none _ rfl rfl
theorem echoRequest (a b c d) : Statement (.echoRequest a b c d) := of_none _ rfl rfl
theorem macResolutionTimeout (a) : Statement (.macResolutionTimeout a) := of_none _ rfl rfl
theorem contextFetchDone (a) : Statement (.contextFetchDone a) := of_none _ rfl rfl
theorem linkDown (a b) : Statement (.linkDown a b) := of_none _ rfl rfl
theorem linkUp (a b) : Statement (.linkUp a b) := of_none _ rfl rfl
theorem ptpSync (a b) : Statement (.ptpSync a b) := of_none _ rfl rfl
theorem syncTimeout : Statement (Instr.syncTimeout) := of_none _ rfl rfl
theorem ppsEdge (a) : Statement (.ppsEdge a) := of_none _ rfl rfl
theorem registerWrite (a b c) : Statement (.registerWrite a b c) := of_none _ rfl rfl
theorem sesRenew (a b) : Statement (.sesRenew a b) := of_none _ rfl rfl
theorem applyRcp (a) : Statement (.applyRcp a) := of_none _ rfl rfl
theorem applyThr (a) : Statement (.applyThr a) := of_none _ rfl rfl
theorem applyRung (a) : Statement (.applyRung a) := of_none _ rfl rfl
theorem ledgerRegionAllocate (a b) : Statement (.ledgerRegionAllocate a b) := of_none _ rfl rfl
theorem renew (a b) : Statement (.renew a b) := of_none _ rfl rfl
theorem closeDetach (a b) : Statement (.closeDetach a b) := of_none _ rfl rfl
theorem closeRelease (a b) : Statement (.closeRelease a b) := of_none _ rfl rfl
theorem launch (a b) : Statement (.launch a b) := of_none _ rfl rfl
theorem switch (a b c d) : Statement (.switch a b c d) := of_none _ rfl rfl
theorem submit (a b c) : Statement (.submit a b c) := of_none _ rfl rfl
theorem semAdd (a b c d) : Statement (.semAdd a b c d) := of_none _ rfl rfl
theorem qpCreate (a b c) : Statement (.qpCreate a b c) := of_none _ rfl rfl
theorem qpModify (a b c d) : Statement (.qpModify a b c d) := of_none _ rfl rfl
theorem qpQuery (a b c) : Statement (.qpQuery a b c) := of_none _ rfl rfl
theorem qpDestroy (a b c) : Statement (.qpDestroy a b c) := of_none _ rfl rfl
theorem portAddr (a b c d e f) : Statement (.portAddr a b c d e f) := of_none _ rfl rfl
theorem bellSet (a b c d) : Statement (.bellSet a b c d) := of_none _ rfl rfl
theorem fwStage (a b c d) : Statement (.fwStage a b c d) := of_none _ rfl rfl
theorem stagingDone (a) : Statement (.stagingDone a) := of_none _ rfl rfl
theorem fwActivate (a b) : Statement (.fwActivate a b) := of_none _ rfl rfl
theorem fwRestart (a b c) : Statement (.fwRestart a b c) := of_none _ rfl rfl
theorem fwCatalogue (a b c d) : Statement (.fwCatalogue a b c d) := of_none _ rfl rfl
theorem attest (a b c d e) : Statement (.attest a b c d e) := of_none _ rfl rfl
theorem identity (a b c d) : Statement (.identity a b c d) := of_none _ rfl rfl
theorem cfgUpdate (a b c d) : Statement (.cfgUpdate a b c d) := of_none _ rfl rfl
theorem dbgChallenge (a b) : Statement (.dbgChallenge a b) := of_none _ rfl rfl
theorem dbgUnlock (a b c) : Statement (.dbgUnlock a b c) := of_none _ rfl rfl
theorem dbgRead (a b c d e) : Statement (.dbgRead a b c d e) := of_none _ rfl rfl
theorem dbgWrite (a b c d e) : Statement (.dbgWrite a b c d e) := of_none _ rfl rfl
theorem hlthDump (a b c d) : Statement (.hlthDump a b c d) := of_none _ rfl rfl
theorem eventFlush (a) : Statement (.eventFlush a) := of_none _ rfl rfl
theorem logCopy : Statement (Instr.logCopy) := of_none _ rfl rfl
theorem watchdogExpiry (a) : Statement (.watchdogExpiry a) := of_none _ rfl rfl
theorem coreRunning (a) : Statement (.coreRunning a) := of_none _ rfl rfl
theorem restartTimeout (a) : Statement (.restartTimeout a) := of_none _ rfl rfl
theorem activationLapse : Statement (Instr.activationLapse) := of_none _ rfl rfl
theorem confirmation : Statement (Instr.confirmation) := of_none _ rfl rfl
theorem inputTurnOn (a b) : Statement (.inputTurnOn a b) := of_none _ rfl rfl
theorem undervoltage : Statement (Instr.undervoltage) := of_none _ rfl rfl
theorem overvoltage : Statement (Instr.overvoltage) := of_none _ rfl rfl
theorem pwrAlert : Statement (Instr.pwrAlert) := of_none _ rfl rfl
theorem alertEnd : Statement (Instr.alertEnd) := of_none _ rfl rfl
theorem sensorRead (a) : Statement (.sensorRead a) := of_none _ rfl rfl
theorem tripClear (a) : Statement (.tripClear a) := of_none _ rfl rfl
theorem resetN (a) : Statement (.resetN a) := of_none _ rfl rfl
theorem sidebandReset (a) : Statement (.sidebandReset a) := of_none _ rfl rfl
theorem setdasa (a b) : Statement (.setdasa a b) := of_none _ rfl rfl
theorem entdaa (a) : Statement (.entdaa a) := of_none _ rfl rfl
theorem sidebandWrite (a b) : Statement (.sidebandWrite a b) := of_none _ rfl rfl
theorem powerGoodTimeout : Statement (Instr.powerGoodTimeout) := of_none _ rfl rfl
theorem boot : Statement (Instr.boot) := of_none _ rfl rfl
theorem hbmTrainDone (a) : Statement (.hbmTrainDone a) := of_none _ rfl rfl
theorem linkUpTimeout : Statement (Instr.linkUpTimeout) := of_none _ rfl rfl
theorem grandmasterTimeout : Statement (Instr.grandmasterTimeout) := of_none _ rfl rfl
theorem healthDailyUpdate (a b) : Statement (.healthDailyUpdate a b) := of_none _ rfl rfl
theorem ringOscillatorMeasure (a b) : Statement (.ringOscillatorMeasure a b) := of_none _ rfl rfl
theorem patrolScrub (a) : Statement (.patrolScrub a) := of_none _ rfl rfl
theorem croftFault (a) : Statement (.croftFault a) := of_none _ rfl rfl
theorem remapSelfTestDone (a b) : Statement (.remapSelfTestDone a b) := of_none _ rfl rfl
theorem uncorrectableError (a b c) : Statement (.uncorrectableError a b c) := of_none _ rfl rfl
theorem frontHandover (a) : Statement (.frontHandover a) := of_none _ rfl rfl
theorem stationTileDone (a) : Statement (.stationTileDone a) := of_none _ rfl rfl
theorem mirrorAck (a) : Statement (.mirrorAck a) := of_none _ rfl rfl
theorem twinLedgerAck (a b) : Statement (.twinLedgerAck a b) := of_none _ rfl rfl
theorem numericsCheck (a b) : Statement (.numericsCheck a b) := of_none _ rfl rfl
theorem gatherEntryComplete (a b) : Statement (.gatherEntryComplete a b) := of_none _ rfl rfl
theorem remoteAccessError (a b c) : Statement (.remoteAccessError a b c) := of_none _ rfl rfl
theorem semaphoreChangeApplied (a) : Statement (.semaphoreChangeApplied a) := of_none _ rfl rfl
theorem upcmtRecorded (a) : Statement (.upcmtRecorded a) := of_none _ rfl rfl
theorem upskipRecorded (a) : Statement (.upskipRecorded a) := of_none _ rfl rfl
theorem vectorComplete (a) : Statement (.vectorComplete a) := of_none _ rfl rfl
theorem rotationComplete (a) : Statement (.rotationComplete a) := of_none _ rfl rfl
theorem cometComplete (a) : Statement (.cometComplete a) := of_none _ rfl rfl
theorem stateTransferDone (a) : Statement (.stateTransferDone a) := of_none _ rfl rfl
theorem announce (a b c) : Statement (.announce a b c) := of_none _ rfl rfl
theorem delayReq (a b) : Statement (.delayReq a b) := of_none _ rfl rfl

end Sys2Proof.Laws.WordFit
end

