-- ==== Sys2Proof/Tests/Slice0.lean ====
section
/-! SUPPORT. Tests of the model: ill-formed commands that the checks refuse, the worked examples of the spec, and for the statements
concrete states that meet their hypotheses. Expected results come from the spec's examples and tables or by hand from its rules. -/

namespace Sys2Proof.Tests

open Sys2Proof.Machine

/-! Helpers: a small state in which context 1 runs step 5 on croft 0. -/

/-- A word with the major opcode in its top byte. -/
def word (op rest : Nat) : Word := BitVec.ofNat 64 (op * 2 ^ 56 + rest)

/-- The two words of a long form. -/
def long (first second : Nat) : BitVec 128 := BitVec.ofNat 128 (second * 2 ^ 64 + first)

def desc (n : Nat) : StepDesc := ⟨n, 0x1000, 0x1000, 0x1000, 0, 0, 2, 1, 0⟩

/-- A step whose entry is open. -/
def held (n : Nat) : HeldStep := { desc := desc n, state := .running, opened := true }

def strm : Stream :=
  { pc := 0x1000, run := .running, step := 5, windows := [1, 2]
    s := [(1, 5), (2, 3), (4, 0x00000700000400A0), (5, 0x0000003820201000)]
    p := [(1, 0x10000), (2, 0x20000), (3, 0x30000), (4, 0x10020), (5, 0x3C00000000), (6, 0x010000000000), (15, 0x2000)] }

def ses : Session := { state := .opened, hostQpn := 9, modQpn := 8 }

def c1 : Ctx := { exist := true, ses := ses, steps := [held 5], first := some 5, lastSub := some 5, lastCmt := 4, cmtSeen := true }

def qp7 : Qp :=
  { used := true, state := 3, agbel := true, ctx := 1, port := 1, pmtu := 5, rwinBase := 0x100000, rwinLen := 0x100000
    lwinBase := 0x1000, lwinLen := 0x1000, lkey := 3, lacc := 7 }

/-- The queue pair of context 1's session. -/
def qp8 : Qp := { used := true, state := 3, session := true, ctx := 1, dqpn := 9, pmtu := 5 }

def base : State :=
  { State.reset with
    phase := 6, resident := 1, tally := { holds := 1 }, bellNow := 100
    crofts := [(0, { f := strm, b := strm, u := strm })]
    ctxs := [(0, { Ctx.system with ses := ses }), (1, c1)]
    qps := [(7, qp7), (8, qp8)], net := { cache := [7, 8] } }

def flight (op : FlightOp) : Flight :=
  { id := 3, ctx := 1, croft := 0, strm := .F, pc := 0x1000, doneSem := 5000, doneAdd := 1, units := [], reads := [], writes := [],
    op := op, far := none, posted := false }

/-- The base state with one instruction in flight. -/
def flying (op : FlightOp) : State := { base with flights := [flight op], nextId := 4 }

/-- The state a command leaves. -/
def run (i : Instr) (s : State) : State := s.after (exec i s)

/-- What waits on port 1, subport 0, and a frame there. -/
def sent (s : State) : List Output := (Table.get [] s.net.egress 4).map (·.out)
/-- What waits on the HOST subport, port 0, subport 0. -/
def hostSent (s : State) : List Output := (Table.get [] s.net.egress 0).map (·.out)
/-- A frame of opcode `op`. -/
def frOf (op : Nat) : Frame := { len := 128, tag := some (3, 0), dscp := 26, ce := false, plain := true, opcode := op }
def fr : Frame := frOf 0x0A

/-- The base state with another croft 0. -/
def withCroft (f : Croft → Croft) : State := base.setCroft 0 (f (base.croft 0))

/-- The base state with another context 1. -/
def withCtx (f : Ctx → Ctx) : State := base.modCtx 1 f

/-! Well-formedness: one command for each check, refused. -/

theorem test_wf_opcode : (Instr.nop 0 .F (word 1 0)).wf = false ∧ (Instr.nop 0 .F (word 0 7)).wf = true := by decide
theorem test_wf_long_opcode : (Instr.mma 0 .F (long (0x11 * 2 ^ 56) 0)).wf = false ∧
    (Instr.mma 0 .F (long (0x10 * 2 ^ 56) 0)).wf = true := by decide
theorem test_wf_reserved : (Instr.reservedOpcode 0 .F (word 0x73 0)).wf = false ∧
    (Instr.reservedOpcode 0 .F (word 0x74 0)).wf = true := by decide
theorem test_wf_wires : (Instr.wakeNotice 0 16).wf = false ∧ (Instr.withdrawalConfirm 0 16).wf = false ∧
    (Instr.wakeNotice 0 15).wf = true := by decide
theorem test_wf_bank : (Instr.tallyDeferredApply 3).wf = false ∧ (Instr.tallyDeferredApply 2).wf = true := by decide
theorem test_wf_ports : (Instr.linkUp 8 0).wf = false ∧ (Instr.linkUp 0 4).wf = false ∧ (Instr.pfcFrame 0 0 8 true).wf = false ∧
    (Instr.ptpSync 8 0).wf = false ∧ (Instr.linkUp 7 3).wf = true := by decide
theorem test_wf_qp : (Instr.sendInbound (2 ^ 20) 0 (frOf 4) []).wf = false ∧ (Instr.sendInbound 0 (2 ^ 24) (frOf 4) []).wf = false ∧
    (Instr.rdmaReadInbound 0 0 (frOf 0x0C) (2 ^ 64) 0 0).wf = false ∧ (Instr.sendInbound 7 0 fr []).wf = false ∧
    (Instr.sendInbound 7 0 (frOf 4) []).wf = true := by decide
theorem test_wf_headers : (Instr.reduceWrite 7 0 (frOf 0xC0) ⟨0, 0, 4, false, 8192, 0⟩ []).wf = false ∧
    (Instr.sig 7 0 (frOf 0xC1) ⟨2 ^ 24, 0, 0⟩ true).wf = false ∧ (Instr.sig 7 0 (frOf 0xC1) ⟨0, 0, 2 ^ 24⟩ true).wf = false ∧
    (Instr.sig 7 0 (frOf 0xC1) ⟨0, 0, 0⟩ true).wf = true ∧ (Instr.sig 7 0 (frOf 0xC0) ⟨0, 0, 0⟩ true).wf = false := by decide
theorem test_wf_vote : (Instr.groupLoss (.packet 7 0 (frOf 0xC5) ⟨10, 0, 8, 0⟩) 5 2).wf = true ∧
    (Instr.groupLoss (.packet 7 0 (frOf 0xC5) ⟨9, 0, 8, 0⟩) 5 2).wf = false ∧ (Instr.groupLoss (.packet 7 0 (frOf 0xC3) ⟨10, 0, 8, 0⟩) 5 2).wf = false := by
  decide
theorem test_wf_register : (Instr.registerWrite 0 0x110000 0).wf = false ∧ (Instr.registerWrite 0 2 0).wf = false ∧
    (Instr.registerWrite 0 0x10FFFC 0).wf = true := by decide
theorem test_wf_submit : (Instr.submit 1 0 []).wf = false ∧ (Instr.submit 1 0 [desc 1, desc 2, desc 3, desc 4]).wf = false ∧
    (Instr.submit 1 0 [desc 1]).wf = true := by decide

/-! Worked examples: formats (02, "reading an element and sizing a layer"). -/

theorem test_element_3_20 : decode 0 0xD = .fin true 3 0 ∧ (scaleBy 0x81 (decode 0 0xD)).eqv (.fin true 12 0) = true := by decide
theorem test_element_3_5 : (scaleBy 0x7C (decode 0 0x3)).eqv (.fin false 3 (-4)) = true := by decide
theorem test_record_sizes : recordBytes 0 = 576 ∧ recordBytes 8 = 2048 ∧ recordBytes 4 = 1088 := by decide
theorem test_scale_bytes : scaleByte 1 3 20 = 7 ∧ scaleByte 1 3 5 = 6 ∧ scaleByte 0 3 20 = 3 := by decide

/-- A conversion of one tile: E2M1, BLK 1, MAXNOW, RNE. -/
def plan (k t : Nat) : ConvPlan :=
  { fmt := 0, blk := 1, mode := 0, code := none, gradW := false, boosts := [], round := 0, rotate := 0, cometK := k, cometT := t,
    clip := 0, tid := 0, base := 0, cols := 32, vr := 32, rotId := 0, seed := 0, step := 0, dst := 0, tiles := 1, sideAddr := none,
    sta := 0, flag := false }

def elems (first : Nat) (vs : List Val) : List Elem := vs.zipIdx.map (fun p => ⟨first + p.2, p.1, false⟩)

/-- The dyadic n · 2^e. -/
def v (n : Int) (e : Int) : Val := .fin (n < 0) n.natAbs e

/-- 03, "one block with two outliers": row 3, columns 16–31, in sixteenths. -/
def outlierBlock : List Elem :=
  elems 112 (([8, -6, 640, 12, -16, 1, 14, 192, 4, -10, 6, 0, -4, 8, 2, -12] : List Int).map (fun n => v n (-4)))

theorem test_comet_codes : (convertBlock (plan 1 3) 0 0 64 outlierBlock).codes =
    [0x4, 0xB, 0x0, 0x5, 0xE, 0x0, 0x6, 0x7, 0x2, 0xC, 0x3, 0x0, 0xA, 0x4, 0x1, 0xD] := by decide
theorem test_comet_block : (convertBlock (plan 1 3) 0 0 64 outlierBlock).scale = 0x7D ∧
    (convertBlock (plan 1 3) 0 0 64 outlierBlock).entries = [0x80724220] := by decide
theorem test_comet_counts : (convertBlock (plan 1 3) 0 0 64 outlierBlock).stat =
    { elements := 16, zeros := 2, saturated := 1, satblk := 1, cometOvf := 1, extracted := 1 } := by decide
set_option maxRecDepth 8192 in
/-- 110.28515625 = 28,233 / 256. -/
theorem test_comet_error : (ofA40 (errSum (convertBlock (plan 1 3) 0 0 64 outlierBlock).squares)).eqv (v 28233 (-8)) = true := by decide
set_option maxRecDepth 8192 in
theorem test_comet_both : (convertBlock (plan 2 3) 0 0 64 outlierBlock).entries.length = 2 ∧
    (convertBlock (plan 2 3) 0 0 64 outlierBlock).stat.cometOvf = 0 ∧
    (ofA40 (errSum (convertBlock (plan 2 3) 0 0 64 outlierBlock).squares)).eqv (v 9 (-8)) = true := by decide

/-- 21, "Converting one activation block", in thirty-seconds. -/
def activation : List Elem :=
  elems 0 (([28, -10, 54, 2, -84, 13, 36, -26, 0, 72, -44, 20, 4, 100, 22, -60] : List Int).map (fun n => v n (-5)))

theorem test_activation_codes : (convertBlock (plan 1 3) 0 0 64 activation).codes =
    [0x2, 0x9, 0x3, 0x0, 0xD, 0x1, 0x2, 0xA, 0x0, 0x4, 0xB, 0x1, 0x0, 0x5, 0x1, 0xC] := by decide
theorem test_activation_counts : (convertBlock (plan 1 3) 0 0 64 activation).scale = 0x7F ∧
    (convertBlock (plan 1 3) 0 0 64 activation).stat = { elements := 16, zeros := 3 } ∧
    (toA40 (convertBlock (plan 1 3) 0 0 64 activation).amax).1 = 0x4048000000 := by decide
set_option maxRecDepth 8192 in
/-- 0.4658203125 = 477 / 1,024. -/
theorem test_activation_error : (ofA40 (errSum (convertBlock (plan 1 3) 0 0 64 activation).squares)).eqv (v 477 (-10)) = true := by
  decide

/-- 21, "One block in the array". -/
theorem test_block_sum : blockSum
    ([0x2, 0x9, 0x3, 0x0, 0xD, 0x1, 0x2, 0xA, 0x0, 0x4, 0xB, 0x1, 0x0, 0x5, 0x1, 0xC].map (elemInt 0))
    ([0x2, 0x1, 0xA, 0x3, 0x4, 0x9, 0x0, 0x5, 0xB, 0x2, 0xC, 0x6, 0x1, 0xA, 0x3, 0x7].map (elemInt 0)) = some (-69) := by decide
theorem test_block_value : (blockVal (-1) (-1) 0x7F 0x7A (some (-69))).eqv (v (-69) (-7)) = true ∧
    scaleCode (scaleExp 0 (v 3 (-4))) = 0x7A := by decide

/-- 04, the side entry 0x8072_4220 against B(7, 18) = 1.5: cell (3, 7) receives 60.0. -/
theorem test_comet_product : cometProduct (decode 8 0x4220) (scaleBy 0x7E (decode 0 0x5)) = (toA40 (v 60 0)).1 := by decide

/-- 11, "one saturating element": eight contributors of 80.0, then of 40.0, at element 5 of block 3. -/
theorem test_slot_saturates : let x : Slot := { scales := [(3, 0x77)], sums := List.replicate 101 0 ++ [327680] }
    (x.block 3 0).sat = true ∧ (x.block 3 0).next = 5 ∧ (x.block 3 0).elems.getD 5 0 = (toA40 (v 7 (-2))).1 := by decide
theorem test_slot_fits : let x : Slot := { scales := [(3, 0x78)], sums := List.replicate 101 0 ++ [163840] }
    (x.block 3 1).sat = false ∧ (x.block 3 1).next = 1 ∧ (x.block 3 1).elems.getD 5 0 = (toA40 (v 5 (-1))).1 := by decide

/-- 21, "Update at the station": 17,984 × 2^−17 times 0.125, then MOMENTUM with M1. -/
def momentum : Shard :=
  { readShard [] 0x40000 0x50000 5 with
    rule := 0, m1 := true, beta1 := (toA40 (v 7 (-3))).1, wd := 0, lr := (toA40 (v 1 (-10))).1 }
theorem test_momentum : let g := mulA (toA40 (v 17984 (-17))).1 (toA40 (v 1 (-3))).1
    (ofA40 (momentum.moments g (toA40 (v 1 (-6))).1 0).1).eqv (v 2020 (-16)) = true ∧
    (ofA40 (momentum.param (toA40 (v 1 (-1))).1 (toA40 (v 2020 (-16))).1)).eqv (v (2 ^ 24 - 1010) (-25)) = true := by decide
/-- The result is hi exactly when u is below F = 8,388,608 (m) or 16,518,656 (p). -/
theorem test_stochastic : (encode 8 (.sr 8388607) (v 2020 (-16))).1 = (encode 8 .rne (v 253 (-13))).1 ∧
    (encode 8 (.sr 8388608) (v 2020 (-16))).1 = (encode 8 .rne (v 252 (-13))).1 ∧
    (encode 8 (.sr 16518655) (v (2 ^ 24 - 1010) (-25))).1 = (encode 8 .rne (v 1 (-1))).1 ∧
    (encode 8 (.sr 16518656) (v (2 ^ 24 - 1010) (-25))).1 = (encode 8 .rne (v 255 (-9))).1 := by decide

/-! Steps and the control class. Each `…_met` theorem shows states that meet a statement's hypotheses, clause by clause. -/

theorem test_front_met : ({ base with pending := [.eventFlush 1, .boot] }).pending = [.eventFlush 1, .boot] ∧ base.pending = [] := by
  decide
theorem test_step_takes_front : (match step { base with pending := [.eventFlush 1, .boot] } with | .next t => t.pending | _ => []) =
    [.boot] := by decide

theorem test_control_met : base.ready 0 .F 8 {} = true ∧ base.allDone 0 .F = true ∧ (flying (.put 7)).allDone 0 .F = false := by decide
theorem test_nop_and_halt : ((run (.nop 0 .F (word 0 0)) base).strm 0 .F).pc = 0x1008 ∧
    ((run (.halt 0 .F (word 0x0C 0)) base).strm 0 .F).run = .idle := by decide

/-- R143: the target is the PC plus 8 × IMM24, forwards, backwards and out of HBM. -/
theorem test_branch_targets : ((run (.jmp 0 .F (word 1 3)) base).strm 0 .F).pc = 0x1018 ∧
    ((run (.call 0 .F (word 4 0xFFFFFF)) base).strm 0 .F).pc = 0x0FF8 ∧
    ((run (.call 0 .F (word 4 0xFFFFFF)) base).strm 0 .F).preg 15 = 0x1008 ∧
    ((run (.ret 0 .F (word 5 0)) base).strm 0 .F).pc = 0x2000 := by decide
theorem test_branch_out_met : inAnyHbm (ptrPlus (base.strm 0 .F).pc (signed 24 (bits (word 1 0xFFFDFF) 23 0)) 8) = false ∧
    inAnyHbm ((base.strm 0 .F).preg 15).toNat = true ∧ ((base.strm 0 .F).preg 15).toNat % 8 = 0 ∧
    base.ready 0 .F 8 { reads := pRes 15 } = true ∧ base.ready 0 .F 8 { writes := pRes 15 } = true := by decide
/-- P15 out of HBM, for RET; BR with COND 1 (S1 ≠ S2) and LOOP with 5 in the counter, 0x1008 bytes back. -/
def astray : State := withCroft (fun x => { x with f := { x.f with p := [(15, 0x8000000000)] } })
theorem test_branch_faults : inAnyHbm ((astray.strm 0 .F).preg 15).toNat = false ∧ astray.ready 0 .F 8 { reads := pRes 15 } = true ∧
    ((run (.ret 0 .F (word 5 0)) astray).strm 0 .F).status = 0x10001180 ∧
    ((run (.br 0 .F (word 2 (1 * 2 ^ 48 + 1 * 2 ^ 32 + 2 * 2 ^ 24 + 0xFFFDFF))) base).strm 0 .F).status = 0x10001180 ∧
    ((run (.loop 0 .F (word 3 (1 * 2 ^ 40 + 0xFFFDFF))) base).strm 0 .F).sreg 1 = 5 := by decide
/-- BR with each COND: S1 = 5, S2 = 3. -/
theorem test_br_conditions :
    (List.range 6).map (fun k => ((run (.br 0 .F (word 2 (k * 2 ^ 48 + 1 * 2 ^ 32 + 2 * 2 ^ 24 + 3))) base).strm 0 .F).pc) =
    [0x1008, 0x1018, 0x1008, 0x1018, 0x1008, 0x1018] := by decide
/-- LOOP with 5, 1 and 0 in the counter (S1, S3 after a write, S6). -/
theorem test_loop : let one := withCroft (fun x => { x with f := x.f.setS 3 1 })
    ((run (.loop 0 .F (word 3 (1 * 2 ^ 40 + 3))) base).strm 0 .F).sreg 1 = 4 ∧
    ((run (.loop 0 .F (word 3 (1 * 2 ^ 40 + 3))) base).strm 0 .F).pc = 0x1018 ∧
    ((run (.loop 0 .F (word 3 (3 * 2 ^ 40 + 3))) one).strm 0 .F).pc = 0x1008 ∧
    ((run (.loop 0 .F (word 3 (6 * 2 ^ 40 + 3))) base).strm 0 .F).pc = 0x1008 := by decide

/-- 07: "Three SLIs build any 64-bit value"; the locator word needs two. -/
theorem test_sli_pair : let a := run (.sli 0 .F (word 6 (0 * 2 ^ 48 + 7 * 2 ^ 40 + 0x0400A0))) base
    let b := run (.sli 0 .F (word 6 (1 * 2 ^ 48 + 7 * 2 ^ 40 + 0x070000))) (withCroft (fun _ => a.croft 0))
    let c := run (.sli 0 .F (word 6 (1 * 2 ^ 48 + 7 * 2 ^ 40 + 0x070000))) (withCroft (fun _ => { a.croft 0 with f := { (a.croft 0).f with pc := 0x1000 } }))
    (b.strm 0 .F).sreg 7 = 0x00000700000400A0 ∧ (c.strm 0 .F).pc = 0x1008 := by decide
theorem test_salu_and_pset : ((run (.salu 0 .F (word 7 (1 * 2 ^ 48 + 8 * 2 ^ 40 + 1 * 2 ^ 32 + 2 * 2 ^ 24 + 0))) base).strm 0 .F).sreg 8 = 2 ∧
    ((run (.salu 0 .F (word 7 (0 * 2 ^ 48 + 0 * 2 ^ 40 + 1 * 2 ^ 32 + 2 * 2 ^ 24 + 0))) base).strm 0 .F).sreg 0 = 0 ∧
    ((run (.pset 0 .F (word 8 (1 * 2 ^ 48 + 4 * 2 ^ 40 + 1 * 2 ^ 32 + 0xFFFFFF))) base).strm 0 .F).preg 4 = 0xFFC0 := by decide
theorem test_reads_met : base.ready 0 .F 8 { writes := sRes 3 } = true ∧ base.entryOpen 0 .F = true ∧
    (withCtx (fun x => { x with steps := [] })).entryOpen 0 .F = false ∧ base.ready 0 .F 8 { reads := sRes 1 } = true ∧
    ((base.strm 0 .F).sreg 1).toNat ≤ base.bellNow ∧
    base.bellNow < (((withCroft (fun x => { x with f := x.f.setS 1 101 })).strm 0 .F).sreg 1).toNat := by decide
/-- RDCTX selects BELL, STEP, ATTEMPT, CROFT, CTX, STREAM; the clock of 1.20 GHz is the eighth. -/
theorem test_rdctx :
    (List.range 8).map (fun k => ((run (.rdctx 0 .F (word 0x0B (k * 2 ^ 48 + 9 * 2 ^ 40))) base).strm 0 .F).sreg 9) =
    [100, 5, 0, 0, 1, 0, 0, 1200] := by decide
/-- A completion notes its code: ADDRESS_FAULT with the PC, then NET_TIMEOUT beside it; OK leaves the word. -/
theorem test_completion_met : (flight (.put 7)).doneAdd ≠ 0 ∧ ({ flight (.put 7) with doneAdd := 0 } : Flight).doneAdd = 0 ∧
    noteStatus 0 0x1000 0x11 = 0x10001180 ∧ noteStatus 0x10001180 0x2000 0x30 = 0x100011A0 ∧ noteStatus 5 0x1000 0 = 5 ∧
    bits (0x10001180 : Word) 15 8 ≠ 0 ∧ bits (5 : Word) 63 8 = 0 := by decide
theorem test_reserved_halts : ((run (.reservedOpcode 0 .F (word 0x74 0)) base).strm 0 .F).run = .halted ∧
    ((run (.reservedOpcode 0 .F (word 0x74 0)) base).strm 0 .F).pc = 0x1000 ∧
    (hostSent (run (.reservedOpcode 0 .F (word 0x74 0)) base)).length = 2 := by decide
theorem test_window_arrives : ((run (.instructionWindowArrival 0 .F 2) (withCroft (fun x => { x with f := { x.f with windows := [1] } }))).strm
    0 .F).windows.contains 2 = true := by decide
theorem test_control_frame_met : Instr.nop 0 .F (word 0 0) ∈ [Instr.nop 0 .F (word 0 0), .jmp 0 .F (word 0 0)] ∧
    (∃ t, exec (.nop 0 .F (word 0 0)) base = .next t) ∧ (State.reset.ctx 0).ses.state ≠ .opened := ⟨by decide, ⟨_, rfl⟩, by decide⟩

/-! Compute. -/

/-- 05, "encoding an MMA". -/
def exampleMma : BitVec 128 := long 0x100021050C280008 0x0013880100000000

/-- DONE_SEM, DONE_ADD, formats, block modes and CHUNK of what is in flight. -/
def mmaFields (f : Flight) : List Nat :=
  match f.op with
  | .mma _ fa ba _ ts fb bb _ init chunk =>
    [f.doneSem, f.doneAdd, fa, ba, fb, bb, if init then 1 else 0, chunk] ++ ts.flatMap (fun p => [p.1, p.2.1])
  | _ => []

theorem test_mma_example : (run (.mma 0 .F exampleMma) base).flights.map mmaFields = [[5000, 1, 0, 0, 0, 2, 1, 8, 5, 0]] := by decide
theorem test_mma_met : base.ready 0 .F 16 (mmaNeed (base.croft 0) exampleMma) = true ∧ bit exampleMma 38 = false ∧
    mmaBad true exampleMma = false ∧ bit (long (0x100021050C280008 + 2 ^ 38) 0) 38 = true ∧
    mmaBad true (long (0x110021050C280008 + 2 ^ 42) 0) = true := by decide
/-- R131: a row-blocked operand A under TA. -/
theorem test_mmat_row_blocked : ((run (.mmat 0 .F (long (0x110021050C280008 + 2 ^ 42) 0)) base).strm 0 .F).run = .halted ∧
    ((run (.mmat 0 .F (long (0x110021050C280008 + 2 ^ 43) 0)) base).strm 0 .F).pc = 0x1010 := by decide
theorem test_mma_lands_met : let op : FlightOp := .mma [] 0 0 false [(5, 0, []), (6, 0, [])] 0 2 false true 8
    (flying op).flight? 3 = some (flight op) ∧ ([(5, 0, []), (6, 0, [])] : List (Nat × Nat × List Byte)).map (·.1) = [5, 6] ∧
    [5, 6].Nodup := by decide
theorem test_block_sum_met : pairOk 0 4 = true ∧ fmtBits 0 = 4 ∧
    blockSum ([1, 7].map (elemInt 0)) ([2, 3].map (elemInt 0)) = some 38 ∧ elemInt 4 0x7F = none := by decide
/-- R108: a scaled operand A with a BF16 operand B clamps B to the nearest accepted format. -/
theorem test_pairing_clamp : clampFmtB 8 0 = 8 ∧ pairOk 0 8 = false := by decide
theorem test_promotion_met : (List.replicate 1024 (v 1 0)).length = 1024 ∧ (v 1 0).isFinite = true ∧
    (({ } : ArrayState).set 0).count + 1 < 8 ∧ 1 ≤ (({ } : ArrayState).set 0).count + 1 ∧ ({ } : ArrayState).comet = [] :=
  ⟨List.length_replicate, by decide⟩
/-- R112: −69 × 2^−7 onto a chunk of +0. -/
theorem test_chunk_add : (ofFp32 (chunkAdd 0 (v (-69) (-7))).1).eqv (v (-69) (-7)) = true := by decide

def accWord (op p : Nat) : BitVec 128 := long (op * 2 ^ 56 + 3 * 2 ^ 32 + 3 * 2 ^ 24 + p * 2 ^ 8) 0

theorem test_accumulator_moves_met :
    base.ready 0 .F 16 { reads := pRes 1 ++ [memRes 0x10000 5120], writes := [.set 3 0], units := [.accPort 3, .dataMove] } = true ∧
    base.setBusy 0 3 0 = false ∧ 0x10000 % 64 = 0 ∧ inHbmOrOwn 0 0x10000 5120 = true ∧ 0x10020 % 64 ≠ 0 ∧
    inHbmOrOwn 0 0x3C00000000 5120 = false := by decide
theorem test_accld_accst : (run (.accld 0 .F (accWord 0x13 1)) base).flights.length = 1 ∧
    (run (.accst 0 .F (accWord 0x14 1)) base).flights.length = 1 ∧
    ((run (.accld 0 .F (accWord 0x13 4)) base).strm 0 .F).run = .halted ∧
    ((run (.accst 0 .F (accWord 0x14 5)) base).strm 0 .F).status ≠ 0 := by decide
theorem test_comet_met : base.ready 0 .F 16 { reads := pRes 1 ++ [.tile 12, .tile 40, .set 5 0, memRes 0x10000 256], writes := [.set 5 0], units := [.cometUnit] } = true ∧ sideOk 0 0x10000 1 = true ∧ sideOk 0 0x10020 1 = false ∧
    ((run (.comet 0 .F (long (0x1500010000000000 + 5 * 2 ^ 32 + 12 * 2 ^ 24 + 40 * 2 ^ 16 + 256) 0)) base).strm 0 .F).pc = 0x1010 ∧
    ((run (.comet 0 .F (long (0x1500014000000000 + 256) 0)) base).strm 0 .F).run = .halted ∧
    ((run (.comet 0 .F (long (0x1500010000000000 + 4 * 256) 0)) base).strm 0 .F).run = .halted := by decide
theorem test_comet_lands_met : let p : CometPair := ⟨0, false, 3, []⟩
    (flying (.comet 5 0 [p])).flight? 3 = some (flight (.comet 5 0 [p])) ∧ 0 + 1 ≤ 6 ∧
    (((run (.cometComplete 3) (flying (.comet 5 0 [p]))).croft 0).array 5).comet = [p] := by decide

/-- 06, "converting one tile through the locator". -/
def exampleCvt : Word := 0x2020140302000414

theorem test_cvt_example : let p := (cvtJob 0 .F exampleCvt base).plan
    (p.tid, p.base, p.cols, p.vr, p.dst, p.tiles, p.sta) = (7, 262304, 4096, 32, 20, 1, 2) := by decide

theorem test_cvt_met : let j := cvtJob 0 .F exampleCvt base
    base.entryOpen 0 .F = true ∧ base.ready 0 .F 8 j.need = true ∧ j.wait = false ∧ j.operandOk = true ∧ j.addressOk = true := by decide
/-- A set whose block counter is not 0 (R184), and a side list off its alignment under entry 1 (R183). -/
theorem test_cvt_faults_met :
    let acc := withCroft (fun x => x.putArray 3 { set0 := { count := 1 } })
    let loc := withCroft (fun x => { x with f := x.f.setS 5 0x0000001820201000 })
    let j := cvtJob 0 .F 0x2024140302000414 acc
    let k := cvtJob 0 .F 0x2020140304000000 loc
    acc.ready 0 .F 8 j.need = true ∧ j.wait = false ∧ j.operandOk = false ∧
    loc.ready 0 .F 8 k.need = true ∧ k.wait = false ∧ k.operandOk = true ∧ k.addressOk = false := by decide
theorem test_cvtt_met : let j := cvttJob 0 .F 0x2120140302000000 base
    base.ready 0 .F 8 j.need = true ∧ j.wait = false ∧ j.operandOk = true ∧ j.addressOk = true ∧
    (run (.cvtt 0 .F 0x2120140302000000) base).flights.length = 1 := by decide
theorem test_drain_met : let w := long (0x1200000000000000 + 20 * 2 ^ 32 + 3 * 2 ^ 24 + 4 * 2 ^ 16 + 2 * 2 ^ 8) 0
    let j := drainJob 0 .F w base
    base.ready 0 .F 16 j.need = true ∧ j.wait = false ∧ j.operandOk = true ∧ j.addressOk = true ∧ drainIds 0 .F w base = [3] ∧
    (((run (.drain 0 .F w) base).croft 0).array 3).active = 1 := by decide
theorem test_conversion_lands_met : let op : FlightOp := .convert (plan 0 0) []
    let o2 : FlightOp := .convert { plan 1 3 with sideAddr := some 0x10000 } []
    (flying op).flight? 3 = some (flight op) ∧ (flying o2).flight? 3 = some (flight o2) := by decide
theorem test_stat_met : base.ready 0 .F 8 { reads := [.stat 2], writes := [.stat 2], units := [.statPath] } = true ∧
    base.ownFlights 0 .F = [] ∧
    (run (.stat 0 .F (word 0x23 (2 * 2 ^ 48 + 9))) base).flights.map (·.op) = [.stat 2 9 5 0] ∧
    (base.ctx 1).rings.1.length < 131072 := by decide
/-- A CVT of the stream holds STAT back; the conversion of a DRAIN, which writes the set it drains, does not (R100). -/
theorem test_stat_waits : run (.stat 0 .F (word 0x23 (2 * 2 ^ 48 + 9))) (flying (.convert (plan 0 0) [])) = flying (.convert (plan 0 0) []) ∧
    (let d := { flying (.convert (plan 0 0) []) with flights := [{ flight (.convert (plan 0 0) []) with writes := [.set 3 0] }] }
     (run (.stat 0 .F (word 0x23 (2 * 2 ^ 48 + 9))) d).flights.length = 2) := by decide
theorem test_stat_ring_takes : ((run (.statRingWrite 3) (flying (.stat 2 9 5 0))).ctx 1).rings.1.map (fun r => (r.2.step, r.2.seq, r.2.croft)) =
    [(5, 9, 0)] := by decide

/-! Vectors: 1.0 and 2.0 in T1 and T2, BF16, as codes. -/

theorem test_vector_met : base.ready 0 .F 8 (vecNeed [.tile 1, .tile 2] (.tile 3) []) = true ∧
    base.vecBusy 0 [.tile 3, .tile 1, .tile 2] = false ∧ [VecReg.tile 3, .tile 1].all (base.croft 0).vecClean = true ∧
    [VecReg.set 3 0].all (withCroft (fun x => x.putArray 3 { set0 := { count := 1 } }) |>.croft 0).vecClean = false ∧
    base.ready 0 .F 8 (vecNeed [.tile 1] (.tile 3) (sRes 2)) = true ∧
    base.ready 0 .F 8 { reads := [.tile 1], writes := [.tile 3], units := [.vector] } = true := by decide
theorem test_vector_values : (vecCode 8 (Val.add (decode 8 0x3F80) (decode 8 0x4000))).1 = 0x4040 ∧
    (vecCode 8 (Val.add (decode 8 0x3F80) (Val.neg (decode 8 0x4000)))).1 = 0xBF80 ∧
    (maxVal (decode 8 0x8000) (decode 8 0)).isNeg = false ∧ (vunResult 8 0 (decode 8 0x3F80)).1 = 0xBF80 := by decide
theorem test_reduce : (reduceVals 0 [v 1 0, v 2 0, v 4 0]).eqv (v 7 0) = true ∧ (reduceVals 1 [v 1 0, v 2 0]).eqv (v 2 0) = true ∧
    (reduceVals 2 [v 1 0, v 2 0]).eqv (v 5 0) = true := by decide
theorem test_vector_issues : (run (.vmov 0 .F (word 0x3B (3 * 2 ^ 40 + 1 * 2 ^ 32))) base).flights.map (·.writes) = [[.tile 3]] ∧
    bits (word 0x3B (3 * 2 ^ 40 + 1 * 2 ^ 32)) 49 48 = 0 ∧ bits (word 0x3B (2 ^ 48)) 49 48 = 1 ∧ bits (word 0x3B (3 * 2 ^ 48)) 49 48 = 3 ∧
    ((run (.vadd 0 .F (word 0x30 (2 ^ 48 + 3 * 2 ^ 32))) (withCroft (fun x => x.putArray 3 { set0 := { count := 1 } }))).strm 0 .F).run =
      .halted := by decide
theorem test_rotation_met : base.ready 0 .F 8 { reads := sRes 2 ++ tileRes 1 1, writes := tileRes 3 1, units := [.rotation] } = true ∧
    base.entryOpen 0 .F = true := by decide
set_option maxRecDepth 8192 in
/-- R74: x_3 = 8 gives ±1 with the signs of popcount(i AND 3). -/
theorem test_rotation : (((rotSegment false 5 (List.replicate 32 false) ((List.range 32).map (fun k => v (if k = 3 then 8 else 0) 0))).take 8).map
    Val.isNeg) = [false, true, true, false, false, true, true, false] := by decide
/-- T1 holds 3 in its byte 1. -/
def tiled (op : FlightOp) : State := (flying op).setCroft 0 { (flying op).croft 0 with tiles := [(2049, 3)] }
theorem test_results_land_met : let a : FlightOp := .vector .bytes 8 [.tile 1] (.tile 3)
    let b : FlightOp := .vector .copy 11 [.set 3 0] (.set 4 0)
    let k : FlightOp := .rotate false 5 8 1 3 []
    (flying a).flight? 3 = some (flight a) ∧ (flying b).flight? 3 = some (flight b) ∧ (flying k).flight? 3 = some (flight k) ∧
    Memory.read ((run (.vectorComplete 3) (tiled a)).croft 0).tiles (3 * 2048 + 1) = 3 := by decide
/-- A ROT that issued after another one waits for it (R188). -/
theorem test_rotation_order : let s : State := { base with flights := [{ flight (.rotate false 5 8 1 3 []) with id := 2 }, flight (.rotate false 5 8 4 6 [])] }
    (run (.rotationComplete 3) s).flights.length = 2 := by decide
/-- So does one that issued after a conversion that rotates. -/
theorem test_rotation_behind_conversion :
    let s := fun k => ({ base with flights := [{ flight (.convert { plan 0 0 with rotate := k } []) with id := 2 }, flight (.rotate false 5 8 4 6 [])] } : State)
    (run (.rotationComplete 3) (s 5)).flights.length = 2 := by decide

/-! Moves. -/

/-- LD of S2 = 3 blocks from P1 to P6, the own store. -/
def ldWord (op dst src : Nat) : Word := word op (dst * 2 ^ 40 + src * 2 ^ 32 + 2 * 2 ^ 24)

theorem test_moves_met :
    let n : Need := { reads := sRes 2 ++ pRes 1 ++ pRes 6 ++ [memRes 0x10000 192], writes := [memRes 0x010000000000 192], units := [.dataMove] }
    base.ready 0 .F 8 n = true ∧ base.loadSource 0 0x10000 192 = some (.dev 0x10000) ∧ loadDest 0 0x010000000000 192 = true ∧
    base.loadSource 0 0x10020 192 = none ∧ loadDest 0 0x10000 192 = false ∧ base.storeDest 0 0x10000 192 = some (.dev 0x10000) ∧
    storeSource 0 0x010000000000 192 = true ∧ base.storeDest 0 0x3C00000000 192 = none ∧ storeSource 0 0x10020 192 = false := by decide
theorem test_moves_issue : (run (.ld 0 .F (ldWord 0x40 6 1)) base).flights.map (·.op) = [.copy (.dev 0x10000) (.dev 0x010000000000) 3] ∧
    ((run (.ld 0 .F (ldWord 0x40 2 1)) base).strm 0 .F).run = .halted ∧
    (run (.st 0 .F (ldWord 0x41 1 6)) base).flights.map (·.op) = [.copy (.dev 0x010000000000) (.dev 0x10000) 3] ∧
    ((run (.prefetch 0 .F (ldWord 0x45 6 4)) base).strm 0 .F).run = .halted := by decide
theorem test_tile_moves_met :
    base.ready 0 .F 8 { reads := pRes 1 ++ [memRes 0x10000 2048], writes := [.tile 3], units := [.dataMove] } = true ∧
    base.ready 0 .F 8 { reads := pRes 1 ++ [.tile 3], writes := [memRes 0x10000 2048], units := [.dataMove] } = true ∧
    (run (.ldt 0 .F (word 0x42 (8 * 2 ^ 52 + 3 * 2 ^ 40 + 1 * 2 ^ 32))) base).flights.map (·.op) = [.loadTile (.dev 0x10000) 3 2048] ∧
    ((run (.ldt 0 .F (word 0x42 (8 * 2 ^ 52 + 3 * 2 ^ 40 + 4 * 2 ^ 32))) base).strm 0 .F).run = .halted ∧
    ((run (.stt 0 .F (word 0x43 (8 * 2 ^ 52 + 5 * 2 ^ 40 + 3 * 2 ^ 32))) base).strm 0 .F).run = .halted := by decide
/-- GATHER of COUNT 2, indices 0 and 3 of E2M1 records (576 B) from P2 to P6; the list lies at P1. -/
def listed : State := { base with mem := [(0x10000, 2), (0x10008, 3)] }
theorem test_gather : (run (.gather 0 .F (word 0x44 (6 * 2 ^ 40 + 2 * 2 ^ 32 + 1 * 2 ^ 24))) listed).flights.map (·.op) =
    [.gather [(.dev 0x20000, 0x010000000000), (.dev (0x20000 + 1728), 0x010000000000 + 576)] 576] ∧
    ((run (.gather 0 .F (word 0x44 (6 * 2 ^ 40 + 4 * 2 ^ 32 + 1 * 2 ^ 24))) listed).strm 0 .F).run = .halted := by decide

/-- Memory with 7 at 0x10001, and a move in flight. -/
def moving (op : FlightOp) : State := { flying op with mem := [(0x10001, 7)] }
theorem test_moves_land_met : let a : FlightOp := .copy (.dev 0x10000) (.dev 0x20000) 1
    let b : FlightOp := .copy (.dev 0x10000) (.dev 0x10020) 1
    (moving a).flight? 3 = some (flight a) ∧ (flight a).far = none ∧ overlap 0x10000 0x20000 64 = false ∧
    (moving b).flight? 3 = some (flight b) ∧ overlap 0x10000 0x10020 64 = true ∧
    ({ moving a with flights := [{ flight (.copy (.far 7 0 0) (.dev 0x20000) 1) with far := some 7 }] } : State).flight? 3 ≠ none := by decide
theorem test_moves_land : Memory.read (run (.dataMoveComplete 3 ⟨[], false⟩) (moving (.copy (.dev 0x10000) (.dev 0x20000) 1))).mem 0x20001 = 7 ∧
    Memory.read ((run (.dataMoveComplete 3 ⟨[], false⟩) (moving (.loadTile (.dev 0x10000) 3 576))).croft 0).tiles (3 * 2048 + 1) = 7 := by decide
/-- Far memory over queue pair 7: a window, an access whose READ is outstanding, and one whose data do not fit. -/
def fetching (op : FlightOp) : State :=
  { moving op with flights := [{ flight op with far := some 7 }], qps := [(7, { qp7 with work := [⟨.flight 3, 0, 1⟩] })] }
def far1 : FlightOp := .copy (.far 7 0x100000 0) (.dev 0x20000) 1
theorem test_far_met : (fetching far1).outstanding 3 = true ∧ (moving far1).outstanding 3 = false ∧ far1.farBytes = 64 ∧
    Memory.read (run (.dataMoveComplete 3 ⟨List.replicate 63 0 ++ [9], false⟩) (fetching far1)).mem 0x2003F = 9 ∧
    (run (.dataMoveComplete 3 ⟨[], false⟩) (fetching far1)).flights.length = 1 ∧
    (run (.dataMoveComplete 3 ⟨[], false⟩) (fetching (.copy (.dev 0x10000) (.far 7 0x100000 0) 1))).flights = [] := by decide
def windowed : State := withCtx (fun x => { x with shadow := [(0x010, 0x3F), (0x300, 2 ^ 31 + 7), (0x304, 1)] })
theorem test_far_place : windowed.loadSource 0 (2 ^ 47) 64 = some (.far 7 0x100000 0) ∧ base.loadSource 0 (2 ^ 47) 64 = none ∧
    (base.qp 7).state = 3 ∧ (base.qp 6).state ≠ 3 ∧ (base.qp 6).state ≠ 4 ∧ ({ qp7 with state := 4 } : Qp).state = 4 ∧ base.flight? 3 = none := by decide
/-- GATHER of two records of 64 bytes, the second from far memory. -/
def gathers : FlightOp := .gather [(.dev 0x10000, 0x20000), (.far 7 0x100000 0, 0x20040)] 64
theorem test_gather_lands : let s := run (.dataMoveComplete 3 ⟨List.replicate 64 5, false⟩) (fetching gathers)
    Memory.read s.mem 0x20001 = 7 ∧ Memory.read s.mem 0x20041 = 5 ∧ s.flights = [] ∧ overlap 0x20000 0x20040 64 = false ∧
    overlap 0x10000 0x20000 64 = false ∧ overlap 0x10000 0x20040 64 = false := by decide
theorem test_prefetch_met : let p : FlightOp := .prefetch (.dev 0x10000) 0x010000000000 2 0
    let q : FlightOp := .prefetch (.dev 0x10000) 0x010000000000 2 1
    (moving p).flight? 3 = some (flight p) ∧ (moving q).flight? 3 = some (flight q) ∧ overlap 0x10000 0x010000000000 128 = false ∧
    Memory.read (run (.prefetchBlockLanding 3 ⟨[], false⟩) (moving p)).mem 0x010000000001 = 7 ∧
    (run (.prefetchBlockLanding 3 ⟨[], false⟩) (moving q)).flights = [] := by decide

/-! Semaphores and waits. -/

/-- WAIT on context semaphore 5,000 of die 0 until 3, and until 0. -/
def waitWord (n : Nat) : Word := word 0x50 (2 ^ 49 + n * 2 ^ 32 + 5000)

/-- Stream F waits on wire 0, its registration on the way (r = false) or in the bank. -/
def waits (r : Bool) : State :=
  { withCroft (fun x => { x with f := { x.f with run := .waiting, waiting := .sem 5000 3 0 r }, wires := [0] }) with
    tally := { holds := 1, watches := if r then [⟨5000, 3, 0, 0⟩] else [] } }

theorem test_wait_met : base.ready 0 .F 8 { reads := syncReads (waitWord 3) } = true ∧ semAddr 5000 = 5000 ∧
    base.semCount 1 5000 = 0 ∧ 0 ∉ (base.croft 0).wires ∧ (∀ w < 16, w ∈ (withCroft (fun x => { x with wires := List.range 16 }) |>.croft 0).wires) := by
  decide
theorem test_wait : ((run (.wait 0 .F (waitWord 0)) base).strm 0 .F).pc = 0x1008 ∧
    ((run (.wait 0 .F (waitWord 3)) base).strm 0 .F).waiting = .sem 5000 3 0 false ∧
    ((run (.wait 0 .F (waitWord 3)) base).croft 0).wires = [0] := by decide
theorem test_registration_met : ((waits false).strm 0 .F).waiting = .sem 5000 3 0 false ∧ (waits false).switching = false ∧
    (waits false).semCount (waits false).resident 5000 < 3 ∧
    (3 : Int) ≤ ({ waits false with tally := { holds := 1, counts := [(5000, 3)] } } : State).semCount 1 5000 ∧
    (run (.waitRegistration 0 .F) (waits false)).tally.watches = [⟨5000, 3, 0, 0⟩] := by decide
theorem test_wake_met : let s : State := { waits true with tally := { holds := 1, notices := [(0, 0)] } }
    (((0 : CroftId) : Nat), 0) ∈ s.tally.notices ∧ (((0 : CroftId) : Nat), 0) ∉ s.tally.withdrawn ∧ (s.croft 0).waiter 0 = some .F ∧
    ((run (.wakeNotice 0 0) s).strm 0 .F).pc = 0x1008 ∧ ((run (.wakeNotice 0 0) s).croft 0).wires = [] := by decide
theorem test_withdrawal_met : let s : State := { waits false with tally := { holds := 1, withdrawn := [(0, 0)] } }
    (((0 : CroftId) : Nat), 0) ∈ s.tally.withdrawn ∧ ((run (.withdrawalConfirm 0 0) s).croft 0).wires = [] := by decide

def addWord (op : Nat) : Word := word op (2 ^ 49 + 3 * 2 ^ 32 + 5000)

theorem test_semaphore_met : base.ready 0 .F 8 { reads := syncReads (addWord 0x51), units := [.tallyPort] } = true ∧
    base.ownFlights 0 .F = [] ∧ base.ready 0 .F 8 { reads := [], writes := sRes 9, units := [.tallyPort] } = true ∧
    (flying (.semAdd 5000 3)).semHeld 1 5000 = false ∧ (flying (.semAdd 5000 3)).flight? 3 = some (flight (.semAdd 5000 3)) ∧
    (flying (.semRead 5000 9)).flight? 3 = some (flight (.semRead 5000 9)) ∧ 0 ∈ ({ busy := [0, 1] } : Tally).busy := by decide
theorem test_semaphore_ops : (run (.sadd 0 .F (addWord 0x51)) base).flights.map (·.op) = [.semAdd 5000 3] ∧
    (run (.ssub 0 .F (addWord 0x52)) base).flights.map (·.op) = [.semAdd 5000 (-3)] ∧
    (run (.sread 0 .F (word 0x53 (9 * 2 ^ 40 + 5000))) base).flights.map (·.op) = [.semRead 5000 9] := by decide
/-- 09, the barrier: hub semaphore 4,200 has the address 0x80_1068. A change wakes the watch whose N it reaches. -/
theorem test_semaphore_change : semAddr 0x801068 = 2 * 2 ^ 22 + 4200 ∧ semDiscarded 1 5000 = false ∧ base.semHeld 1 5000 = false ∧
    ((waits true).change 1 5000 3 none).tally.notices = [(0, 0)] ∧ ((waits true).change 1 5000 2 none).tally.notices = [] ∧
    (base.change 1 5000 (2 ^ 40) none).semCount 1 5000 = 2 ^ 31 - 1 ∧ semDiscarded 1 7 = true := by decide
theorem test_deferred : (run (.tallyDeferredApply 0) { base with tally := { holds := 1, busy := [0], swapIn := 1, deferred := [(0, [⟨1, 5000, 2, none⟩])] } }).semCount
    1 5000 = 2 := by decide

/-! The network class: queue pair 7, S2 = 3 blocks from P1, offset S9 = 0. -/

def putWord (op p : Nat) : BitVec 128 := long (op * 2 ^ 56 + p * 2 ^ 24 + 2 * 2 ^ 16 + 9 * 2 ^ 8) 7

theorem test_put_met :
    base.ready 0 .F 16 { reads := pRes 1 ++ sRes 2 ++ sRes 9 ++ [memRes 0x10000 192], units := [.rdma] } = true ∧
    base.ready 0 .F 16 { reads := pRes 1 ++ sRes 2 ++ sRes 9, writes := [memRes 0x10000 192], units := [.rdma] } = true ∧
    (base.qp 7).sends 1 = true ∧ (base.qp 6).sends 1 = false ∧ inHbmOrOwn 0 0x10000 192 = true ∧ 192 ≤ (base.qp 7).rwinLen ∧
    0x10020 % 64 ≠ 0 := by decide
theorem test_put_get : sent (run (.put 0 .F (putWord 0x60 1)) base) = [.rdmaWrite 7 0 0x100000 0x10000 192 none] ∧
    sent (run (.get 0 .F (putWord 0x61 1)) base) = [.rdmaRead 7 0 0x100000 192] ∧
    ((run (.put 0 .F (putWord 0x60 4)) base).strm 0 .F).status = 0x10001180 := by decide
theorem test_redw_nsig_met :
    base.ready 0 .F 16 { reads := pRes 1 ++ sRes 2 ++ sRes 9 ++ sRes 10 ++ [memRes 0x10000 3264], units := [.rdma] } = true ∧
    base.ready 0 .F 16 { reads := sRes 1, units := [.rdma] } = true ∧ (base.qp 7).agbel = true ∧ ({ } : Qp).agbel = false ∧
    min 3 (((base.qp 7).mtu - 24) / 1088) = 3 ∧ inHbmOrOwn 0 0x10000 3264 = true := by decide
/-- R312: three records fill a packet of 4,096 B; 3 records at the position in S9. -/
theorem test_redw : sent (run (.redw 0 .F (long (0x6240000000000000 + 10 * 2 ^ 32 + 1 * 2 ^ 24 + 2 * 2 ^ 16 + 9 * 2 ^ 8) 7)) base) =
    [.reduceWrite 7 0 ⟨5, 0, 4, false, 0, 0⟩ 0x10000 3] := by decide
/-- R229: no data has gone out, so the watermark is the PSN before the first. -/
theorem test_nsig : sent (run (.nsig 0 .F (long (0x6300000000000000 + 1 * 2 ^ 24) 7)) base) = [.sig 7 0 ⟨5, 1, 2 ^ 24 - 1⟩] := by decide
theorem test_network_completes_met : (flying (.put 7)).flight? 3 = some (flight (.put 7)) ∧
    (flying (.redw 7 [])).flight? 3 = some (flight (.redw 7 [])) ∧ (flying (.nsig 7)).flight? 3 = some (flight (.nsig 7)) ∧
    (flying (.get 7 0x20000 64 0)).flight? 3 = some (flight (.get 7 0x20000 64 0)) ∧ 0 + ([1, 2] : List Byte).length ≤ 64 := by decide
theorem test_ack_signals : ((run (.putAck ⟨3, false⟩) (flying (.put 7))).semCount 1 5000) = 1 ∧
    Memory.read (run (.getResponse 3 ⟨[1, 2], false⟩) (flying (.get 7 0x20000 64 0))).mem 0x20001 = 2 := by decide

/-- A PUT's acknowledgment marked CE brings one CNP (R427). -/
theorem test_marked_ack : sent (run (.putAck ⟨3, true⟩) { flying (.put 7) with qps := [(7, { qp7 with work := [⟨.flight 3, 0, 1⟩] })] }) = [.cnp 7] := by
  decide

/-! Votes. -/

theorem test_vote_met : base.ready 0 .F 16 { reads := sRes 1, units := [.fp3] } = true ∧ (base.ctx 1).step? 5 = some (held 5) ∧
    (held 5).settled = false ∧ (held 5).ballots < max 1 (held 5).desc.ballots ∧
    max 1 (held 5).desc.ballots ≤ ({ held 5 with ballots := 2 } : HeldStep).ballots ∧ (base.ctx 1).step? 3 = none ∧
    ({ held 5 with state := .committed } : HeldStep).settled = true ∧ base.ready 0 .U 16 { reads := sRes 1, units := [.fp3] } = true ∧
    base.ready 0 .F 16 {} = true ∧ (Strm.F ≠ .U) := by decide
theorem test_votes : ((run (.vote 0 .F (long (0x6400000000000000 + 1 * 2 ^ 24) 0)) base).strm 0 .F).step = 6 ∧
    ((run (.vote 0 .F (long (0x6400000000000000 + 2 * 2 ^ 24) 0)) base).strm 0 .F).run = .halted ∧
    ((run (.upcmt 0 .F (long (0x7300000000000000 + 1 * 2 ^ 24) 0)) base).strm 0 .F).run = .halted ∧
    (run (.upcmt 0 .U (long (0x7300000000000000 + 1 * 2 ^ 24) 0)) base).flights.map (·.op) = [.upcmt 5] := by decide
/-- A PREPARED step's VOTE waits (R231, R364). -/
theorem test_vote_waits : let s := withCtx (fun x => { x with steps := [{ desc := desc 5 }] })
    ((s.ctx 1).step? 5).map (fun h => (h.opened, h.settled)) = some (false, false) ∧
    run (.vote 0 .F (long (0x6400000000000000 + 1 * 2 ^ 24) 0)) s = s ∧
    run (.upcmt 0 .U (long (0x7300000000000000 + 1 * 2 ^ 24) 0)) s = s := ⟨by decide, rfl, rfl⟩
theorem test_vote_recorded : (((run (.voteRecorded 3) (flying (.vote 5))).ctx 1).step? 5).map (·.ballots) = some 1 ∧
    (((run (.upcmtRecorded 3) (flying (.upcmt 5))).ctx 1).step? 5).map (·.upcmts) = some 1 ∧
    (((run (.upskipRecorded 3) (flying (.upskip 5 9))).ctx 1).step? 5).map (fun h => (h.skip, h.skipWhy)) = some (true, 9) := by decide

/-! The Mill: S1 = 5 names the step, P2 the shard, P3 the rule, P1 the result. -/

def upelWord : BitVec 128 := long (0x7000000000000000 + 1 * 2 ^ 24 + 3 * 2 ^ 16 + 2 * 2 ^ 8) 0
def uplwWord : BitVec 128 := long (0x7100000000000000 + 2 * 2 ^ 32 + 1 * 2 ^ 24 + 3 * 2 ^ 16 + 1 * 2 ^ 8) 0
def upelNeed : Need := { reads := sRes 1 ++ pRes 3 ++ pRes 2 ++ [memRes 0x30000 64, memRes 0x20000 64], units := [.mill] }

/-- The shard of the zero descriptor at 0x20000. -/
def shard : Shard := readShard [] 0x20000 0x30000 5

/-- A shard with LW and M1, in a context with the layerwise feature. -/
def layerwise : State := { withCtx (fun x => { x with shadow := [(0x010, 0x3F)] }) with mem := [(0x20029, 9)] }

theorem test_upel_met : base.ready 0 .U 16 upelNeed = true ∧ descOk 0x20000 = true ∧ descOk 0x30000 = true ∧ shard.lw = false ∧
    shard.lwOk = true ∧ base.placed shard = true ∧ (base.ctx 1).mirrorsShard shard = true ∧
    ({ base with mem := [(0x2000C, 4)] } : State).placed (readShard [(0x2000C, 4)] 0x20000 0x30000 5) = false ∧ descOk 0x10020 = false ∧
    shard.conflicts shard = true := by decide
theorem test_upel : (run (.upel 0 .U upelWord) base).flights.map (·.op) = [.upel 5 0x20000] ∧
    ((run (.upel 0 .U upelWord) base).ctx 1).shards = [shard] ∧
    ((run (.upel 0 .U upelWord) (withCtx (fun x => { x with shards := [shard] }))).strm 0 .U).status.toNat / 256 % 256 = 0x10 ∧
    ((run (.upel 0 .U upelWord) { base with mem := [(0x2000C, 4)] }).strm 0 .U).status.toNat / 256 % 256 = 0x11 := by decide
theorem test_uplw_met : let d := readShard layerwise.mem 0x20000 0x30000 5
    d.lw = true ∧ (layerwise.ctx 1).feat 2 = true ∧ d.lwOk = true ∧ layerwise.uplwSeen 1 5 0x20000 = false ∧ (base.ctx 1).feat 2 = false ∧
    descOk 0x10000 = true ∧ inHbm 0x10000 d.resultBytes = true ∧ (layerwise.ctx 1).mirrorsShard d = true ∧
    layerwise.ready 0 .U 16 { upelNeed with reads := sRes 1 ++ pRes 2 ++ pRes 3 ++ pRes 1 ++ [memRes 0x30000 64, memRes 0x20000 64] } = true := by
  decide
theorem test_uplw : (run (.uplw 0 .U uplwWord) layerwise).flights.map (·.writes) = [[]] ∧
    ((run (.uplw 0 .U uplwWord) base).strm 0 .U).status.toNat / 256 % 256 = 0x10 := by decide
/-- An armed shard with its one tile written, and not. -/
def armed (n : Nat) (nan : Bool) (op : FlightOp) : State :=
  { flying op with ctxs := [(1, { c1 with steps := [{ held 5 with nan := nan }], shards := [{ shard with written := n, upelDone := n == 1 }] })] }
theorem test_mill_completes_met : (armed 1 false (.upel 5 0x20000)).flight? 3 = some (flight (.upel 5 0x20000)) ∧
    ((armed 1 false (.upel 5 0x20000)).ctx 1).shard? 5 0x20000 = some { shard with written := 1, upelDone := true } ∧
    ((armed 1 true (.uplw shard 0x10000 0)).ctx 1).step? 5 = some { held 5 with nan := true } ∧ shard.nt = 1 ∧
    (run (.upelComplete 3) (armed 1 false (.upel 5 0x20000))).flights = [] ∧
    (run (.upelComplete 3) (armed 0 false (.upel 5 0x20000))).flights.length = 1 ∧
    (run (.uplwComplete 3) (armed 1 true (.uplw shard 0x10000 0))).flights = [] := by decide

/-- A UPLW outside the mirrored range faults once its generation is known, though its shard is not armed (R357). -/
theorem test_uplw_outside : let s := (armed 1 false (.uplw shard 0x10000 0)).modCtx 1 (fun x => { x with shadow := [(0x010, 0x3F), (0x384, 2 ^ 31)], shards := [] })
    (s.ctx 1).flippedBefore shard.step = true ∧ (s.ctx 1).mirrorsShard shard = false ∧ (run (.uplwComplete 3) s).flights = [] := by decide
/-- Position 0 complete for step 5, and the shard armed over it. -/
def delivered (n : Nat) (st : SlotState) : State :=
  { withCtx (fun x => { x with shards := [{ shard with binds := [(0, n)] }] }) with slots := [(0, { state := st, ctx := 1, step := 5, count := 1 })] }
theorem test_front_handover_met : (delivered 0 .complete).slot 0 = { state := .complete, ctx := 1, step := 5, count := 1 } ∧
    (base.ctx 1).flippedBefore 5 = true ∧
    ((delivered 0 .complete).ctx 1).covering 0 ((delivered 0 .complete).slot 0) = some { shard with binds := [(0, 0)] } ∧ 0 * max 1 1 + 0 < shard.nt ∧
    shard.nt ≤ 1 * max 1 1 + 0 ∧ ((delivered 0 .opened).slot 0).state ≠ .complete := by decide
theorem test_front_discards : ((run (.frontHandover 0) (delivered 1 .complete)).slot 0).state = .free ∧
    ((run (.frontHandover 0) (delivered 1 .complete)).ctx 1).xerr = 2 ^ 30 := by decide
/-- A station with a tile of one element, +0 or the canonical NaN. -/
def station (e : A40) : State :=
  { withCtx (fun x => { x with shards := [shard] }) with stations := [(0, [⟨1, 5, shard, 0, 0, [e]⟩])] }
theorem test_station_met : Table.get [] (station 0).stations 0 = [⟨1, 5, shard, 0, 0, [0]⟩] ∧
    ((station 0).ctx 1).shard? 5 0x20000 = some shard ∧ (ofA40 (mulA 0 shard.gscale)).isNan = false ∧
    (ofA40 (mulA (toA40 .nan).1 shard.gscale)).isNan = true := by decide
theorem test_station_nan : (((run (.stationTileDone 0) (station (toA40 .nan).1)).ctx 1).step? 5).map (fun h => (h.skipWhy, h.nan)) =
    some (0xFFF0, true) := by decide
theorem test_mirror_ack_met : let s := withCtx (fun x => { x with mirrors := [⟨9, 5⟩, ⟨10, 5⟩] })
    1 ∈ s.contexts ∧ (⟨9, 5⟩ : MirrorWrite) ∈ (s.ctx 1).mirrors ∧ ((run (.mirrorAck ⟨9, false⟩) s).ctx 1).mirrors = [⟨10, 5⟩] := by decide

/-! Queue pair 7 as a responder: its window is 0x1000–0x1FFF under key 3. -/

theorem test_inbound_met : base.receives 7 = true ∧ base.cached 7 = true ∧ (base.qp 7).rqPsn = 0 ∧
    (base.qp 7).admits 0x1008 8 3 1 = true ∧ (base.qp 7).admits 0x1008 8 4 1 = false ∧ (base.qp 7).admits 0x1FF9 8 3 0 = false ∧
    (base.qp 7).admits 0x1FF8 8 3 2 = true ∧ inHbm 0x1008 8 = true ∧ base.foreignRegion 1 0x1008 8 = false ∧ (base.qp 7).session = false ∧
    (base.qp 7).ctx ≠ 0 ∧ 0x1008 % 8 = 0 ∧ 0x1009 % 8 ≠ 0 := by decide
theorem test_write_inbound : Memory.read (run (.rdmaWriteInbound 7 0 fr 0x1008 3 [1, 2]) base).mem 0x1009 = 2 ∧
    sent (run (.rdmaWriteInbound 7 0 fr 0x1008 3 [1, 2]) base) = [.ack 7 0] ∧
    ((run (.rdmaWriteInbound 7 0 fr 0x1008 3 [1, 2]) base).qp 7).rqPsn = 1 ∧
    sent (run (.rdmaWriteInbound 7 0 fr 0x1008 4 [1, 2]) base) = [.nak 7 0 0x62] := by decide
theorem test_read_and_atomics : sent (run (.rdmaReadInbound 7 0 (frOf 0x0C) 0x1008 3 2) { base with mem := [(0x1009, 7)] }) = [.readResponse 7 0 [0, 7]] ∧
    sent (run (.fetchAndAdd 7 0 (frOf 0x14) 0x1008 3 2) { base with mem := [(0x1008, 7)] }) = [.atomicResponse 7 0 7] ∧
    Memory.read (run (.fetchAndAdd 7 0 (frOf 0x14) 0x1008 3 2) { base with mem := [(0x1008, 7)] }).mem 0x1008 = 9 ∧
    Memory.read (run (.compareAndSwap 7 0 (frOf 0x13) 0x1008 3 7 1) { base with mem := [(0x1008, 7)] }).mem 0x1008 = 1 ∧
    sent (run (.sendInbound 7 0 (frOf 4) []) base) = [.nak 7 0 0x61] := by decide

/-- The register window on the session's queue pair 8: a READ of DEV_ID's word and a WRITE of a word of its page (R455–R457), and a WRITE of
another page's. -/
def windowQp : State := { base with qps := [(7, qp7), (8, { qp8 with lwinBase := regBase, lwinLen := 0x110000, lkey := 3, lacc := 3 })],
                                    ctxs := [(1, { c1 with ses := { ses with modQpn := 8 } })] }
theorem test_window_met : windowQp.regAccess 8 (regBase + 0x2001C) 4 = true ∧ wordsOf (regBase + 0x2001C) 4 = [0x2001C] ∧
    mayWrite 1 0x2001C = true ∧ mayWrite 1 0x3001C = false ∧ mayRead 1 0x000 = true ∧ windowQp.receives 8 = true ∧ windowQp.cached 8 = true ∧
    (windowQp.qp 8).admits (regBase + 0x2001C) 4 3 1 = true ∧ windowQp.regAccess 8 (regBase + 0x2001E) 4 = false := by decide
theorem test_window : ((run (.rdmaWriteInbound 8 0 fr (regBase + 0x2001C) 3 [5, 0, 0, 0]) windowQp).ctx 1).reg 0x01C = 5 ∧
    hostSent (run (.rdmaWriteInbound 8 0 fr (regBase + 0x3001C) 3 [5, 0, 0, 0]) windowQp) = [.nak 8 0 0x62] ∧
    hostSent (run (.rdmaReadInbound 8 0 (frOf 0x0C) (regBase + 0x2001C) 3 4) windowQp) = [.readResponse 8 0 [0, 0, 0, 0]] := by decide
/-- A packet of another operation is refused (R430). -/
theorem test_other_operation : takesOpcode (.sendInbound 7 0 (frOf 0x17) []) 0x17 = false ∧
    sent (run (.sendInbound 7 0 (frOf 0x17) []) base) = [.nak 7 0 0x61] := by decide

/-- Context 1 owns positions 4 and 5 and waits for two contributors. -/
def owner : State := withCtx (fun x => { x with shadow := [(0x284, 4 * 65536 + 2), (0x280, 2)] })
def header (step pos : Nat) : ReduceHdr := ⟨step, 0, 4, false, pos, 7 * 2 ^ 40⟩

theorem test_owner_met : owner.agbelOk 7 = true ∧ (owner.ctx 1).slotFirst = 4 ∧ (owner.ctx 1).slotCount = 2 ∧
    (owner.ctx 1).age 5 0 = .current ∧ (owner.ctx 1).age 4 0 = .older ∧ (owner.ctx 1).age 6 0 = .newer ∧
    (owner.slot 4).refuses 1 (header 5 4) = false ∧
    ({ state := .opened, ctx := 1, step := 5, tid := 8 } : Slot).refuses 1 (header 5 4) = true ∧ owner.up 2 = true ∧
    ({ owner with qps := [(7, { qp7 with agbel := false })] } : State).agbelOk 7 = false := by decide
theorem test_owner_binds : ((run (.reduceWrite 7 0 (frOf 0xC0) (header 5 5) [[]]) owner).slot 5).state = .opened ∧
    ((run (.reduceWrite 7 0 (frOf 0xC0) (header 5 5) [[]]) owner).slot 5).tid = 7 ∧
    sent (run (.reduceWrite 7 0 (frOf 0xC0) (header 5 5) [[]]) owner) = [.ack 7 0] ∧ (run (.reduceWrite 7 0 (frOf 0xC0) (header 4 5) [[]]) owner).slots = [] ∧
    sent (run (.reduceWrite 7 0 (frOf 0xC0) (header 6 5) [[]]) owner) = [.rnr 7 0 0] ∧ sent (run (.reduceWrite 7 0 (frOf 0xC0) (header 5 6) [[]]) owner) = [.nak 7 0 0x62] := by
  decide

/-! Signals. -/

def sigs (n : Nat) : State := { base with qps := [(7, { qp7 with holds := List.replicate n ⟨0, 2 ^ 24 - 1, 1, 5000⟩ })] }

theorem test_signal_met : base.agbelOk 7 = true ∧ (base.ctx 1).quietWait = false ∧ (base.qp 7).holds = [] ∧ base.semAccepts 5000 = true ∧
    ((sigs 63).qp 7).holds.length < 64 ∧ ((sigs 1).qp 7).holds ≠ [] ∧ 64 ≤ ((sigs 64).qp 7).holds.length ∧
    ((withCtx (fun x => { x with quietWait := true })).ctx 1).quietWait = true ∧ (sigs 1).semAccepts 5000 = true := by decide
theorem test_signals : (run (.sig 7 0 (frOf 0xC1) ⟨5000, 2, 2 ^ 24 - 1⟩ true) base).semCount 1 5000 = 2 ∧
    (run (.sig 7 0 (frOf 0xC1) ⟨5000, 2, 2 ^ 24 - 1⟩ false) base).semCount 1 5000 = 0 ∧ sent (run (.sig 7 0 (frOf 0xC1) ⟨5000, 2, 2 ^ 24 - 1⟩ true) (sigs 64)) = [.rnr 7 0 0] ∧
    (run (.holdSigApply 7) (sigs 1)).semCount 1 5000 = 1 ∧ ((run (.holdSigApply 7) (sigs 2)).qp 7).holds.length = 1 := by decide

/-! Queue pair 7 as a requester: one request from PSN 8, two packets. -/

def asks (tries retry rnr : Nat) : State :=
  { base with qps := [(7, { qp7 with work := [⟨.control, 8, 2⟩], sqPsn := 10, tries := tries, retry := retry, rnrRetry := rnr, rnrTries := tries })] }

theorem test_requester_met : ((asks 0 3 7).qp 7).work ≠ [] ∧ ((asks 0 3 7).qp 7).rnrWait = false ∧ ((asks 0 3 7).qp 7).tries < 3 ∧
    3 ≤ ((asks 3 3 3).qp 7).tries ∧ ((asks 3 3 3).qp 7).rnrRetry ≠ 7 ∧ (asks 3 3 3).up 2 = true ∧
    ({ asks 3 3 3 with fw := { cores := [(2, { state := 1 })] } } : State).up 2 = false ∧ ((asks 0 3 7).qp 7).work[0]? = some ⟨.control, 8, 2⟩ ∧
    psnSub 9 8 < 2 ∧ ({ qp7 with state := 2 } : Qp).macKnown = false := by decide
theorem test_requester : sent (run (.ackTimeout 7) (asks 0 3 7)) = [.retransmit 7 8] ∧ ((run (.ackTimeout 7) (asks 3 3 3)).qp 7).state = 4 ∧
    ((run (.rnrNak 7 8 ⟨0, false⟩) (asks 9 3 7)).qp 7).rnrWait = true ∧ ((run (.rnrNak 7 8 ⟨0, false⟩) (asks 3 3 3)).qp 7).state = 4 ∧
    ((run (.remoteAccessError 7 9 ⟨0x62, false⟩) (asks 0 3 7)).qp 7).state = 4 := by decide
theorem test_fetch_met : let s : State := { base with net := {}, qps := [(7, { qp7 with held := [.ack 7 0] })] }
    s.cached 7 = false ∧ (s.cacheIn 7).cached 7 = true ∧ sent (run (.contextFetchDone 7) s) = [.ack 7 0] := by decide
/-- R427: α = 1 halves the rate, and the floor is 100 Mb/s; five recoveries meet the target halfway before it rises by 40 Mb/s. -/
theorem test_rates : let s : State := { base with qps := [(7, { qp7 with rate := 400000 * 65536, target := 400000 * 65536 })] }
    base.portEcn 1 3 = true ∧ base.portEcn 1 2 = false ∧ ((run (.cnp 7) s).qp 7).rate = 200000 * 65536 ∧
    ((run (.cnp 7) s).qp 7).target = 400000 * 65536 ∧ ((run (.cnp 7) s).qp 7).alpha = 65536 ∧
    ((run (.rateRecovery 7) (run (.cnp 7) s)).qp 7).rate = 300000 * 65536 ∧ ((run (.alphaDecay 7) s).qp 7).alpha = 61440 ∧
    ((run (.cnp 7) base).qp 7).rate = 100 * 65536 := by decide

/-! Ports and time. -/

/-- Subport 0 of port 1 is up with 10.0.0.1. -/
def wired : State := { base with net := { subs := [(4, { up := true, ipv4 := 0x0A000001, paused := [3] })], cache := [7] } }


theorem test_ports_met : wired.holdsAddr 1 0 (mapped4 0x0A000001) = true ∧ wired.holdsAddr 2 0 (mapped4 0x0A000001) = false ∧
    isMapped4 5 = false ∧ wired.portPfc 1 3 = true ∧ wired.portPfc 1 2 = false ∧ (wired.sub 1 0).up = true ∧ 3 ∈ (wired.sub 1 0).paused ∧
    3 ≤ wired.phase ∧ wired.phase ≠ 7 ∧ wired.portEn 2 = true ∧ wired.subports 2 = 1 := by decide
/-- Every port is enabled and not split. -/
theorem test_enabled_met : (2, 0) ∈ wired.enabledSubs := by
  simp only [State.enabledSubs, List.mem_flatMap]; exact ⟨2, by decide, by decide⟩
theorem test_ports : ((run (.pfcFrame 1 0 3 false) wired).sub 1 0).paused = [] ∧ ((run (.linkDown 1 0) wired).sub 1 0).up = false ∧
    (run (.pfcStorm 1 0 3) wired).net.storm = [1] ∧ ((run (.linkUp 2 0) wired).sub 2 0).up = true ∧
    (run (.echoRequest 1 0 (mapped4 0x0A000001) ⟨[5], fr⟩) wired).out = [.echoReply 1 0 (mapped4 0x0A000001) [5]] := by decide
/-- An echo request of a long frame is counted, one in a fragment dropped; a port that negotiates finds its lanes' polarity (R423, R545). -/
theorem test_echo_frames : (run (.echoRequest 1 0 (mapped4 0x0A000001) ⟨[5], { fr with len := 9217 }⟩) wired).net.dropLong = 1 ∧
    run (.echoRequest 1 0 (mapped4 0x0A000001) ⟨[5], { fr with plain := false }⟩) wired = wired ∧ wired.trainMode 1 = .negotiate := by
  refine ⟨?_, rfl, ?_⟩ <;> decide
theorem test_link_ends_training : let s : State := { wired with phase := 3, shadow := (List.range 8).map (fun n => (0x040 + 8 * n, if n = 1 then 2 ^ 31 else 0)) }
    s.enabledSubs = [(1, 0)] ∧ (s.setSub 1 0 { s.sub 1 0 with up := true }).allLinks = true ∧ (run (.linkUp 1 0) s).phase = 4 := by decide

def synced (st good bad : Nat) : State := { wired with net := { wired.net with ptpState := st, goodSyncs := good, badSyncs := bad, wasReady := true } }
theorem test_time_met : (synced 0 15 0).ptpPort 1 = true ∧ (synced 0 15 0).net.ptpState ≠ 3 ∧ (synced 0 15 0).up 2 = true ∧ (200 : Int).natAbs ≤ 200 ∧
    1000 < (1001 : Int).natAbs ∧ 25000 < (-25001 : Int).natAbs ∧ (synced 1 0 0).net.faultSent = false ∧ (synced 1 0 0).phase = 6 ∧
    (synced 0 0 0).ptpBit 31 = false ∧ (synced 0 0 0).ptpBit 26 = true ∧ (synced 0 0 0).ptpBit 29 = false ∧
    ({ wired with shadow := [(0x080, 2 ^ 31)] } : State).ptpBit 31 = true ∧ ({ wired with shadow := [(0x080, 2 ^ 29)] } : State).ptpBit 29 = true ∧
    ({ wired with phase := 4, shadow := [(0x080, 0)] } : State).ptpBit 26 = false := by decide
theorem test_time : (run (.ptpSync 1 200) (synced 0 15 0)).net.ptpState = 1 ∧ (run (.ptpSync 1 201) (synced 0 15 0)).net.goodSyncs = 0 ∧
    (run (.ptpSync 1 1001) (synced 1 0 15)).net.ptpState = 2 ∧ (run (.ptpSync 1 (-25001)) (synced 1 0 0)).net.faultSent = true ∧
    (run .syncTimeout (synced 1 0 0)).net.ptpState = 2 ∧ (run .grandmasterTimeout (synced 2 0 0)).net.ptpState = 3 ∧
    (run (.announce 1 0 ⟨0, 0, 0⟩) (synced 3 0 0)).net.ptpState = 0 ∧ (run (.delayReq 1 false) (synced 3 0 0)).out = [.delayResp 1 false ⟨0, 0⟩] ∧
    (run .grandmasterTimeout (synced 2 0 0)).out.length = 1 := by decide

/-- The best master by priority1, then quality, then identity (R446): one ahead of the module's own priority1 of 128 is followed; before
READY a far offset sends no TIME_FAULT (R450); a Bell of a grandmaster sends Announce and Sync on its port with link (R446). -/
def ahead : Master := ⟨1, 0, 0⟩
def behind : Master := ⟨200, 0, 0⟩
theorem test_masters_met : ahead.better behind = true ∧ behind.better ahead = false ∧ (⟨1, 0, 3⟩ : Master).better ahead = false ∧
    bits ((synced 3 0 0).reg 0x080) 7 0 = 128 ∧ bits ((synced 3 0 0).reg 0x080) 23 16 = 0 ∧
    ({ wired with net := { wired.net with master := some behind } } : State).net.master = some behind ∧ (synced 3 0 0).servesTime = true ∧
    (synced 1 0 0).servesTime = false ∧ wired.net.wasReady = false ∧ (synced 0 0 0).net.follows ≠ some 1 := by decide
theorem test_masters : (run (.announce 1 5 ahead) (synced 3 0 0)).net.ptpState = 3 ∧ (run (.announce 1 0 ahead) (synced 3 0 0)).net.ptpState = 0 ∧
    (run (.ptpSync 1 (-25001)) wired).net.faultSent = false ∧ (synced 3 0 0).ptpTick.out.length = 2 := by decide

/-! Mailbox, sessions and registers. -/

theorem test_mailbox_met : base.takes 1 1 ∧ base.takes 0 1 ∧ base.takes 0 6 ∧ base.takes 1 3 ∧ base.takes 0 2 := by
  unfold State.takes; decide
theorem test_mailbox_not_met : (State.reset.ctx 1).ses.state ≠ .opened ∧ ({ base with group := { fenced := true } } : State).group.fenced = true ∧
    (withCtx (fun x => { x with ses := { ses with lastGo := 1 } }) |>.ctx 1).ses.busy = true ∧
    ({ base with fw := { cores := [(1, { state := 1 })] } } : State).up 1 = false ∧
    ({ base with fw := { cores := [(3, { state := 1 })] } } : State).up 3 = false ∧
    mailboxOf (.bellSet 1 9 0 0) = some (1, 9, 1, true) ∧ mailboxOf (.renew 1 9) = some (1, 9, 1, false) := by decide
/-- R464: SEQ 9, STATUS NOT_PERMITTED (2) of a command for C0 only, and DONE. -/
theorem test_not_permitted : let x := ((run (.bellSet 1 9 0 0) base).ctx 1).ses
    x.done = 9 ∧ Memory.read x.mbox 256 = 9 ∧ Memory.read x.mbox 258 = 2 := by decide
theorem test_finish_met : (base.ctx 1).ses.state ≠ .none ∧ (hostSent (base.finish 1 9 (0, [5]))).length = 2 ∧
    Memory.read ((base.finish 1 9 (0, [5])).ctx 1).ses.mbox 264 = 5 := by decide

/-- The host subport is up; C1 is open for HOST_QPN 9, nonce 0. -/
def hosted : State := { base with net := { subs := [(0, { up := true })], cache := [7] } }
def openMsg (c abi : Nat) (resume : Bool) (nonce : Reg) : SesOpen := ⟨c, resume, abi, 0, 0, 9, 0x3F, 0, 0, 64, 2000, nonce, 0⟩
/-- Code of the reply to an open. -/
def codeOf (s : State) (m : SesOpen) : List Nat :=
  (run (.sesOpen 0 0 ⟨9, 5, 0x4081, frOf 4⟩ m) s).out.filterMap (fun o => match o with | .sesReply _ _ _ _ _ k _ _ _ _ _ _ _ _ _ => some k | _ => none)

theorem test_open_met : (hosted.sub 0 0).up = true ∧ hosted.portRole 0 0 = 0 ∧ hosted.group.fenced = false ∧ hosted.up 1 = true ∧
    hosted.openAgain (openMsg 1 1 false 0) = some 0 ∧ hosted.phase = 6 ∧ hosted.openAgain (openMsg 1 1 false 7) = none ∧
    (hosted.ctx 0).exist = true ∧ hosted.freeQpn = some 3 ∧ hosted.openTarget (openMsg 0xFF 1 false 7) = some 2 := by decide
/-- R453: accepted again, NOT_READY, ABI_RANGE, BUSY, TOKEN_UNKNOWN, and accepted. -/
theorem test_open_codes : codeOf hosted (openMsg 1 1 false 0) = [0] ∧ codeOf { hosted with phase := 5 } (openMsg 1 1 false 7) = [5] ∧
    codeOf hosted (openMsg 1 3 false 7) = [1] ∧ codeOf hosted (openMsg 1 1 false 7) = [2] ∧ codeOf hosted (openMsg 2 1 true 7) = [4] ∧
    codeOf hosted (openMsg 0xFF 1 false 7) = [0] := by decide
/-- R452: an open with another Q_KEY than QPN 2's is dropped, and one marked CE brings a CNP to its sender. -/
theorem test_open_dropped : run (.sesOpen 0 0 ⟨9, 5, 1, frOf 4⟩ (openMsg 1 1 false 0)) hosted = hosted ∧ hosted.cacheRoom = true ∧
    (run (.sesOpen 0 0 ⟨9, 5, 0x4081, { frOf 4 with ce := true }⟩ (openMsg 1 1 false 0)) hosted).out.contains (.udCnp 0 0 9 5) = true := by
  refine ⟨rfl, ?_, ?_⟩ <;> decide
/-- A cache of which every context is pinned has no room (R438). -/
theorem test_no_room_met : ((List.range cacheMax).map (fun _ => 7)).length = cacheMax ∧ (({ qp7 with held := [.ack 7 0] } : Qp).pinned = true) :=
  ⟨by rw [List.length_map, List.length_range], by decide⟩
/-- R471: a RESUME with the session's token is taken up before 600 s, and refused from then on. -/
def away (us : Nat) : State :=
  { hosted with ctxs := [(1, { exist := true, ses := { ses with state := .detached, token := 0, age := us } })] }
theorem test_resume : codeOf (away 599999999) (openMsg 1 1 true 7) = [0] ∧ codeOf (away 600000000) (openMsg 1 1 true 7) = [4] ∧
    (away 9).sinceRenewal 1 < 600000000 ∧ 600000000 ≤ (away 600000000).sinceRenewal 1 := by decide
/-- Context 1's session was renewed `n` µs ago. -/
def aged (n : Nat) : State := withCtx (fun x => { x with ses := { ses with age := n } })
theorem test_lease_met : (base.ctx 1).lease = 2000 ∧ (aged 2000000).sinceRenewal 1 = 2000000 ∧
    ((aged 2000001).ctx 1).lease * 1000 < (aged 2000001).sinceRenewal 1 ∧ 600000000 ≤ (aged 600000000).sinceRenewal 1 ∧ (withCtx (fun x => { x with ses := { ses with state := .detached } }) |>.ctx 1).ses.state = .detached := by
  decide
theorem test_lease : ((run (.leaseLapse 1) (aged 2000001)).ctx 1).ses.state = .detached ∧
    ((run (.leaseLapse 1) (aged 2000000)).ctx 1).ses.state = .opened ∧
    ((run (.sesRenew 1 0) (aged 9)).ctx 1).ses.age = 0 := by decide

def idle : State := { base with crofts := [] }
/-- LAUNCH needs a held step and no active stream; SUBMIT the next step, and room. -/
theorem test_launch_met : (base.taken 1 9).anyActive 1 = true ∧ (idle.taken 1 9).anyActive 1 = false ∧ ((idle.taken 1 9).ctx 1).uncommitted ≠ [] ∧
    stepsFollow (some 5) [desc 6] = true ∧ stepsFollow (some 5) [desc 7] = false ∧ (base.ctx 1).parked = false ∧ (base.ctx 1).regionGib = 0 ∧
    ((base.taken 0 9).ctx 1).exist = true ∧ ((base.taken 0 9).ctx 2).exist = false := by decide
def roomy : State := withCtx (fun x => { x with region := 0x3A00000000, regionGib := 4 })
theorem test_submit_met : (roomy.ctx 1).steps.length + 1 ≤ 4 ∧ (roomy.ctx 1).regionGib ≠ 0 ∧
    (roomy.ctx 1).inRegion { desc 6 with batch := 0x3A00000000, batchLen := 64 } = true := by decide
theorem test_submit : ((run (.submit 1 9 [{ desc 6 with batch := 0x3A00000000, batchLen := 64 }]) roomy).ctx 1).steps.map (fun h => h.desc.step) = [5, 6] ∧
    Memory.read ((run (.submit 1 9 [desc 7]) roomy).ctx 1).ses.mbox 258 = 3 ∧ Memory.read ((run (.submit 1 9 [desc 6]) base).ctx 1).ses.mbox 258 = 4 := by
  decide
theorem test_sem_add : (run (.semAdd 1 9 5000 3) base).semCount 1 5000 = 3 := by decide
theorem test_switch : (run (.switch 0 9 1 50) base).switches = [(101, 1)] := by decide

theorem test_qp_met : (base.taken 1 9).freeQpn = some 3 ∧ (base.qp 7).used = true ∧ (base.qp 7).ctx = 1 ∧ (base.qp 7).holds = [] ∧
    qpChangeOk 3 0 = true ∧ qpChangeOk 1 3 = false ∧ base.tenants = true ∧ State.reset.tenants = false := by decide
theorem test_qp_commands : ((run (.qpCreate 1 9 []) base).qp 3).used = true ∧ ((run (.qpCreate 1 9 []) base).qp 3).ctx = 1 ∧
    ((run (.qpDestroy 1 9 7) base).qp 7).used = false ∧ ((run (.qpDestroy 0 9 7) base).qp 7).used = false ∧
    ((run (.qpDestroy 1 9 7) (sigs 1)).qp 7).used = true := by decide
theorem test_port_addr : ((run (.portAddr 0 9 1 0 0x0A000001 0) base).sub 1 0).ipv4 = 0x0A000001 := by decide
theorem test_bell_set : let s : State := { base with ctxs := [(0, { Ctx.system with ses := ses })] }
    (run (.bellSet 0 9 0 20) s).bellPeriod = 50 ∧ (run (.bellSet 0 9 0 20) s).phase = 5 ∧ (run (.bellSet 0 9 0 20) base).bellPeriod = 500 := by decide

theorem test_register_met : base.serves 1 = true ∧ base.serves 2 = false ∧ mayWrite 1 0x2001C = true ∧ mayWrite 1 0x1001C = false ∧
    ownerOf 0x2001C = 1 ∧ ({ base with fw := { cores := [(ownerOf 0x20078, { state := 1 })] } } : State).up (ownerOf 0x20078) = false ∧ base.up 5 = true ∧
    (base.ctx 1).steps ≠ [] ∧ (State.reset.ctx 0).steps = [] ∧ (base.ctx 1).regionGib ≠ clampTo 1 64 4 := by decide
theorem test_register_writes : ((run (.registerWrite 1 0x2001C 5) base).ctx 1).reg 0x01C = 5 ∧
    (run (.registerWrite 2 0x3001C 5) base) = base ∧ ((run (.applyThr 1) base).ctx 1).applyAsk = 2 ∧
    ((run (.ledgerRegionAllocate 1 4) base).ctx 1).ledIgnored = true := by
  refine ⟨?_, rfl, ?_, ?_⟩ <;> decide
theorem test_region_met : State.reset.bestRegion 1 64 = some (0x7A00000000, 8) := by decide
/-- A mailbox whose header holds SEQ 9 and opcode 1, or 0x7F. -/
def mboxed (op : Nat) : State := withCtx (fun x => { x with ses := { ses with mbox := [(0, BitVec.ofNat 8 op), (2, 9)] } })
theorem test_go_met : leNat (((Memory.readBytes ((mboxed 1).ctx 1).ses.mbox 0 256).drop 2).take 2) = 9 ∧
    leNat ((Memory.readBytes ((mboxed 1).ctx 1).ses.mbox 0 256).take 2) = 1 ∧ leNat ((Memory.readBytes ((mboxed 0x7F).ctx 1).ses.mbox 0 256).take 2) = 0x7F := by
  decide
/-- DBG_WRITE by a GO of another session than C0's: NOT_PERMITTED (R464, R509). -/
theorem test_go_debug : Memory.read (((mboxed 0x96).go 1 9).ctx 1).ses.mbox 258 = 2 := by decide
theorem test_go : Memory.read (((mboxed 1).go 1 8).ctx 1).ses.mbox 258 = 5 ∧ Memory.read (((mboxed 0x7F).go 1 9).ctx 1).ses.mbox 258 = 1 ∧
    Memory.read (((mboxed 1).go 1 9).ctx 1).ses.mbox 256 = 9 := by decide

/-! Firmware and security. -/

def fw (f : Firmware) : State := { base with fw := f }

theorem test_firmware_met : base.fw.updState = 0 ∧ (fw { updState := 1 }).fw.updState ∈ [1, 3, 4, 5] ∧ (fw { updState := 2 }).fw.isStaged = false ∧
    (fw { updState := 2, isStaged := true }).stagedBundle.minPrev.toNat ≤ base.fwVersion ∧
    base.fwVersion < (fw { updState := 2, isStaged := true, slotB := { minPrev := 1 } }).stagedBundle.minPrev.toNat := by decide
theorem test_firmware_update : (run (.fwStage 0 9 0x10000 64) base).fw.staging.map (·.1) = some 2 ∧ (run (.fwStage 0 9 0x10000 64) base).fw.updState = 1 ∧
    (run (.stagingDone true) (fw { staging := some (2, {}) })).fw.updResult = 2 ∧
    (run (.stagingDone true) (fw { staging := some (0, { svn := 4 }) })).fw.slotB.svn = 4 ∧
    (run (.fwActivate 0 9) (fw { updState := 2, isStaged := true })).fw.order = [6, 5, 2, 4, 3, 1, 7] ∧
    (run (.fwActivate 0 9) (fw { updState := 2, isStaged := true, slotB := { minPrev := 1 } })).fw.updResult = 7 := by decide
theorem test_bundle_form_met : bundleFormOk [] = false := by decide
theorem test_confirmation_met : ({ fw { updState := 3 } with bellNow := 20000 } : State).msPast 0 10000 = true ∧
    ({ base with bellNow := 120000 } : State).msPast 0 60000 = true ∧ base.msPast 0 50 = true ∧
    (run .confirmation { fw { updState := 5, slotB := { svn := 3 } } with bellNow := 120000 }).sec.fwSvn = 3 ∧
    (run (.restartTimeout 6) (fw { updState := 4, current := some 6, cores := [(6, { state := 1 })] })).fw.updResult = 9 := by decide
theorem test_restart_met : (base.core 3).state = 0 ∧ base.restarting = false ∧ base.emergency = false ∧
    (fw { cores := [(6, { state := 1 })] }).restarting = true ∧
    ({ base with pwr := { alert := true } } : State).emergency = true ∧ 2 ≤ base.phase ∧ base.fw.updState ∉ [3, 4, 5] := by decide
theorem test_restarts : ((run (.watchdogExpiry 3) base).core 3).state = 1 ∧ ((run (.watchdogExpiry 3) base).core 3).restarts = 1 ∧
    ((run (.fwRestart 0 9 3) base).core 3).reason = 4 ∧ (run (.watchdogExpiry 0) base).pwr.offReason = 6 ∧
    ((run (.coreRunning 3) (run (.watchdogExpiry 3) base)).core 3).state = 0 := by decide
/-- R473, R475: of two copies the one whose hash was recorded loads, and without one the active flash slot's image. -/
def copied (h : BitVec 256) : Firmware := { loads := [(3, 5)], copies := [(3, [{ hash := 4 }, { hash := h }])] }
theorem test_copies_load_met : ((copied 5).toLoad 3 1).hash = 5 ∧ (copied 6).toLoad 3 1 = (copied 6).flashImage (copied 6).activeB 3 ∧
    (fw { onStaged := [3], updState := 2 }).fw.onStaged.contains 3 = true ∧ (fw { current := some 3 }).fw.current ≠ some 4 := by decide
/-- R458: while FP5 restarts, its registers read as they stood. -/
theorem test_frozen : let s := run (.watchdogExpiry 5) base
    s.up (ownerOf 0x20078) = false ∧ s.readWord 0x2007C = base.readWord 0x2007C ∧ (s.core 5).state = 1 := by decide
/-- EVENTS_LOST stands before the first staged event, with the count of SES_EVLOST (R467). -/
theorem test_events_lost : let s := withCtx (fun x => { x with ses := { ses with staged := [⟨0x000D, 1, 0, []⟩], lost := 4 } })
    (s.ctx 1).ses.lost ≠ 0 ∧ (s.ctx 1).ses.told = false ∧ ((run (.eventFlush 1) s).ctx 1).ses.head = 2 ∧
    ((run (.eventFlush 1) s).ctx 1).ses.lost = 4 := by decide
/-- A register write that waited for FP5 is made once FP5 runs. -/
theorem test_late_write : let s := fw { cores := [(5, { state := 1 })] }
    (run (.registerWrite 1 0x20078 2) s).fw.late.length = 1 ∧ ((run (.coreRunning 5) (run (.registerWrite 1 0x20078 2) s)).ctx 1).applyAsk = 2 := by
  decide
theorem test_event_flush_met : let e : Event := ⟨0x000D, 1, 0, []⟩
    let s := withCtx (fun x => { x with ses := { ses with staged := [e] } })
    (s.ctx 1).ringFull = false ∧ s.up 1 = true ∧ (s.ctx 1).ses.staged = [e] ∧ (s.ctx 1).ses.lost = 0 ∧
    ((run (.eventFlush 1) s).ctx 1).ses.staged = [] ∧ ((run (.eventFlush 1) s).ctx 1).ses.head = 1 := by decide
theorem test_log_copy_met : base.up 6 = true ∧ 2 ≤ base.phase ∧ (run .logCopy { State.reset with phase := 1 }).fw.logQueue = [] ∧
    ({ base with fw := { cores := [(6, { state := 1 })] } } : State).up 6 = false := by decide

theorem test_security_met : base.fw.updState ≠ 1 ∧ base.sec.dbgFail < 8 ∧ ({ base with sec := { dbgFail := 8 } } : State).sec.dbgFail = 8 ∧
    base.sec.rdOn = false ∧ base.mapped 0x1000 64 = true ∧ base.mapped 0x7FFFFFFFFFFF 64 = false ∧ inHbm 0x1000 64 = true ∧
    ({ base with ctxs := [(0, { Ctx.system with ses := ses })] } : State).tenants = false ∧ base.tokenResult [] ≠ 0 := by decide
/-- R497: FIPS 180-4's example of SHA-256 of "abc"; RFC 6979 A.2.5's r of "sample" on P-256. -/
theorem test_sha256 : beNat (digestBytes (sha256 [0x61, 0x62, 0x63])) =
    0xba7816bf8f01cfea414140de5dae2223b00361a396177a9cb410ff61f20015ad := by decide +kernel
theorem test_ecdsa_sign :
    beNat ((ecdsaSign 0xC9AFA9D845BA75166B5C215767B1D6934E50C3DB36E89B127B8A622B120F6721 [0x73, 0x61, 0x6d, 0x70, 0x6c, 0x65]).take 32) =
      0xEFD48B2AACB6A8FD1140DD9CD45E81D69D2C877B56AAF991C34D0EA84EAF3716 := by decide +kernel
def debugging : State := { base with sec := { debug := true, rdOn := true, wrOn := true } }
theorem test_debug : Memory.read (run (.dbgWrite 0 9 0x1000 1 (List.replicate 63 0 ++ [7])) debugging).mem 0x103F = 7 ∧
    (run (.dbgWrite 0 9 0x1000 1 []) base).mem = [] ∧ (run (.dbgUnlock 0 9 []) { base with ctxs := [(0, { Ctx.system with ses := ses })] }).sec.dbgFail = 1 := by
  decide +kernel
/-- R509: a debug write reaches a save area, a semaphore and a register, and starts no command at GO. -/
theorem test_debug_places : areaPart systemOffset = some (.save 0 0 0) ∧ (debugging.dbgPut (0x020000000000 + 4 * 5000) [9, 0, 0, 0]).tally.count 5000 = 9 ∧
    (debugging.dbgPut (0x030000000000 + 0x2001C) [5, 0, 0, 0]) = debugging.putWord 0x2001C 5 ∧ debugging.putWord 0x2000C 9 = debugging := by
  refine ⟨?_, ?_, rfl, rfl⟩ <;> decide
/-- R508: an unlock while another context exists consumes the nonce and counts. -/
theorem test_unlock_refused : let s := run (.dbgUnlock 0 9 []) { base with sec := { nonce := some 5 } }
    base.tenants = true ∧ s.sec.nonce = none ∧ s.sec.dbgFail = 1 ∧ Memory.read (s.ctx 0).ses.mbox 258 = 3 := by decide
/-- R505: a configuration record below CFG_SVN is refused, and the counter stays. -/
theorem test_cfg_update : (run (.cfgUpdate 0 9 [] true) base).sec.cfgNext = none ∧ (readCfg []).result base.sec.cfgSvn true ≠ 0 := by decide
theorem test_invariants_met : State.memOk base ∧ (∃ t, step { base with pending := [.boot] } = .next t) ∧ base.sec.debug = false :=
  ⟨⟨rfl, fun _ h => nomatch h⟩, ⟨_, rfl⟩, rfl⟩

/-! Power, start-up and health. -/

def hot (d0 h0 : Nat) : Temps := ⟨d0, 50, 50, [h0]⟩
theorem test_power_met : base.pwr.isOn = true ∧ base.pwr.alert = false ∧ ({ base with pwr := { alert := true } } : State).pwr.alert = true ∧
    (∀ d < 11, tempOf (hot 104 50) d < tripAt d) ∧ tripAt 0 ≤ tempOf (hot 105 50) 0 ∧ (∀ e < 11, tempOf (hot 105 50) e < shutdownAt e) ∧
    (∀ e < 11, e ≠ 0 → tempOf (hot 105 50) e < tripAt e) ∧ shutdownAt 0 ≤ tempOf (hot 115 50) 0 ∧ 0 ∉ base.pwr.trips ∧
    0 ∈ ({ trips := [0] } : Power).trips ∧ base.pwr.inRange = true ∧ State.reset.phase = 0 := by decide
theorem test_power : (run .pwrAlert base).pwr.alerts = 1 ∧ (run (.sensorRead (hot 105 50)) base).pwr.trips = [0] ∧
    (run (.sensorRead (hot 115 50)) base).pwr.offReason = 3 ∧ (run .undervoltage base).pwr.isOn = false ∧
    (run (.tripClear 0) { base with pwr := { trips := [0], temps := hot 50 50 } }).pwr.trips = [] ∧ (run (.resetN 3) base).slotId = 3 ∧
    (run (.resetN 3) base).crofts = [] ∧ (run (.inputTurnOn true 2) { base with pwr := { isOn := false } }).hlth.matings = 1 := by decide
theorem test_boot_met : State.reset.sec.idOk = true ∧ (State.reset.fw.slot false).boots 0 = true ∧ (State.reset.fw.slot true).boots 0 = false ∧
    State.reset.sec.cfg.passes 0 = true ∧ ({ base with phase := 2 } : State).phase = 2 ∧ base.allLinks = false ∧ State.reset.pwr.dynAddr = none := by decide +kernel
theorem test_boot : (run .boot State.reset).phase = 2 ∧ (run .boot { State.reset with sec := { certHash := 0 } }).pwr.bootFail = 1 ∧
    (run .boot { State.reset with fw := { slotA := {} } }).pwr.bootFail = 2 ∧ (run (.hbmTrainDone false) { State.reset with phase := 2 }).pwr.bootFail = 4 ∧
    (run (.hbmTrainDone true) { State.reset with phase := 2 }).phase = 3 ∧ (run .linkUpTimeout { State.reset with phase := 3 }).phase = 4 := by decide +kernel
/-- A record's values load (R502): DEVID 0x127, a Bell period below the least, and NET_PORT1. -/
def recorded : State := { State.reset with sec := { cfg := { values := [(0x004, 0x127), (0x020, 9), (0x048, 5)] } } }
theorem test_record_loads : recorded.loadCfg.devid = 0x127 ∧ recorded.loadCfg.bellPeriod = 50 ∧ recorded.loadCfg.reg 0x048 = 5 ∧
    Table.has recorded.sec.cfg.values 0x004 = true := by decide
/-- R519, R552: the alert's 1.20 GHz waits for its Bell though the alert has ended, and an alert outlasts RESET_N. -/
theorem test_alert_latched : let s := run .pwrAlert { base with pwr := { clk := 4, next := 4 } }
    (run .alertEnd s).pwr.latch = true ∧ (run (.resetN 3) s).pwr.alert = true ∧ base.emergency = false ∧ s.emergency = true := by decide
theorem test_sideband : let s : State := { base with pwr := { dynAddr := some 9 } }
    (run (.setdasa 0x30 9) State.reset).pwr.dynAddr = some 9 ∧ (run (.setdasa 0x31 9) State.reset).pwr.dynAddr = none ∧
    (run (.sidebandWrite 0x10 (some 900)) s).pwr.tray = 900 ∧ (run (.sidebandWrite 0x11 (some 0xA55A)) s).pwr.armed = true ∧
    (run (.sidebandWrite 0x12 (some 0xFF)) s).pwr.ibiMask = 0x1E ∧ (run (.sidebandWrite 0x00 none) s).readSideband = 0x4081B000 ∧
    (run (.sidebandWrite 0x08 none) { s with devid := 0x127, slotId := 5 }).readSideband = 0x50127 := by decide
theorem test_health_met : base.hlth.hours < base.hlth.dailyAt + 24 ∧
    ({ base with hlth := { hours := 24 } } : State).hlth.dailyAt + 24 ≤ ({ base with hlth := { hours := 24 } } : State).hlth.hours ∧
    90 ≤ ({ } : Health).days ∧ (run (.ringOscillatorMeasure 3 4) base).hlth.hours = 1 ∧ (3 : Int) ≤ 10 := by decide

/-! The Bell, switches, the group. -/

def meas : PowerMeas := ⟨500, 100, 300, 54000, 900, 0⟩
theorem test_bell : (run (.bell meas 0) base).bellNow = 101 ∧ (run (.bell meas 0) State.reset).bellNow = 0 ∧
    (({ base with phase := 5 } : State).countBell 5000000).bellNow = 10 ∧ (base.phase = 5 ∨ base.phase = 6 ∨ base.phase = 8) := by decide
/-- A switch to C0 due at Bell 100. -/
def due : State := { base with switches := [(100, 0)] }
theorem test_switch_met : due.up 1 = true ∧ due.switching = false ∧ due.dueSwitch = some (100, 0) ∧ 0 ≠ due.resident ∧ (due.ctx 0).exist = true ∧
    due.switchActions.switching = true ∧ (∀ f ∈ due.switchActions.flights, f.blocks due.resident = false) ∧
    (due.switchActions.ctx due.switchActions.tally.swapIn).exist = true := by decide
theorem test_swap : ((due.swapCroft 1 0 0).area 1 0).croft.f.sreg 1 = 5 ∧ ((due.swapCroft 1 0 0).croft 0).f.sreg 1 = 0 := by decide
theorem test_stall_met : let s := (waits true).modCtx 1 (fun x => { x with eff := [(0x048, 4)] })
    let t := s.modStrm 0 .F (fun y => { y with stallBells := 4 })
    (t.strm 0 .F).waiting = .sem 5000 3 0 true ∧ (t.ctx 1).waitWarn = 4 ∧ (t.strm 0 .F).stallSent = false ∧
    ((run (.waitStall 0 .F) t).strm 0 .F).stallSent = true := by decide

/-- Modules 0–33, this one with a device ID; module 1 is the deputy. -/
def group (dev : Nat) : State :=
  { base with
    devid := dev
    group := { active := List.range 34, addrs := (List.range 34).map (fun d => (d, ⟨1, 0, BitVec.ofNat 128 (d + 1)⟩)) }
    qps := [(7, qp7), (20, { used := true, state := 3, agbel := true, port := 1, dip := 1 }), (25, { used := true, state := 3, agbel := true, port := 1, dip := 6 })]
    net := { cache := [7, 20, 25] } }
/-- The messages that wait on port 1, subport 0, with their destinations. -/
def votes (s : State) : List (Nat × Msg) := (sent s).filterMap (fun o => match o with | .vote _ _ d _ m => some (d, m) | _ => none)
theorem test_group_met : (group 0).isCoordinator = true ∧ (group 1).isDeputy = true ∧ (group 2).isCoordinator = false ∧ (group 2).parent = some 0 ∧
    (group 33).parent = some 1 ∧ (group 2).group.fenced = false ∧ (group 2).up 4 = true ∧ (group 2).reportTo 5 1 = 0 ∧ (group 2).children = [] ∧
    (group 0).group.streakOf 5 100 < 3 ∧ (group 2).twin = none ∧ (group 2).group.takingOver = none := by decide
/-- 21, "A fault, Bell by Bell": rank 39 has its parent at rank ⌊38 / 32⌋ = 1. -/
theorem test_parent_rank : ({ base with devid := 0x127, group := { active := (List.range 64).map (· + 0x100) } } : State).parent = some 0x101 := by decide
theorem test_heartbeats : ((run (.heartbeat .taken 0 false 0) { group 2 with group := { (group 2).group with parentSilent := 3 } }).group.parentSilent) = 0 ∧
    (run .parentSilence { group 2 with group := { (group 2).group with parentSilent := 5 } }).phase = 8 ∧
    votes (run (.probe .taken 0 2) (group 2)) = [(0, .probeReply 2)] ∧ (run (.notice .taken 5 0) (group 2)).group.known = [5] := by decide
theorem test_watch_met : let s : State := { group 0 with group := { active := [0, 1], silent := [(1, 4)] } }
    1 ∈ s.watchSet ∧ 4 ≤ Table.get 0 s.group.silent 1 ∧ 1 ∉ s.group.reported ∧ 1 ≠ s.devid := by decide
set_option maxRecDepth 8192 in
theorem test_suspect_met : let s : State := { group 0 with group := { (group 0).group with suspects := [⟨5, 98, 1, 1, .judged, true⟩] } }
    s.group.suspects.find? (fun e => e.dev == 5) = some ⟨5, 98, 1, 1, .judged, true⟩ ∧ 98 + 2 ≤ s.bellNow ∧ (run (.probeReply .taken 5) s).group.suspects = [] := by decide
set_option maxRecDepth 8192 in
theorem test_report : (run (.report .taken 0 2 5 100 1) (group 0)).group.suspects = [⟨5, 100, 1, 1, .judged, true⟩] ∧ (votes (run (.report .taken 0 2 5 100 1) (group 0))).contains (5, .probe 5) = true ∧
    sent (run (.report .taken 0 2 5 100 1) (group 2)) = [] := by decide

/-! Where the sending, update and host forms complete, clause by clause. -/

theorem test_sending_completes_met :
    base.ready 0 .F 16 { reads := pRes 1 ++ sRes 2 ++ sRes 9 ++ [] ++ [memRes 0x10000 192], units := [.rdma] } = true ∧
    base.ready 0 .F 16 { reads := pRes 1 ++ sRes 2 ++ sRes 9, writes := [memRes 0x10000 192], units := [.rdma] } = true ∧
    base.ready 0 .F 16 { reads := pRes 1 ++ sRes 2 ++ sRes 9 ++ sRes 10 ++ [memRes 0x10000 3264], units := [.rdma] } = true ∧
    base.ready 0 .F 16 { reads := sRes 1, units := [.rdma] } = true ∧ 0x10000 % 64 = 0 ∧ inHbmOrOwn 0 0x10000 3264 = true ∧
    0 + 192 ≤ (base.qp 7).rwinLen ∧ (base.qp 7).sends base.resident = true ∧ (base.qp 7).agbel = true ∧ (base.qp 7).ud = false ∧
    base.portRole (base.qp 7).port (base.qp 7).sub ≠ 0 ∧ 24 + 1088 ≤ (base.qp 7).mtu ∧ base.entryOpen 0 .F = true := by decide
theorem test_firmware_completes_met : base.takes 0 6 ∧ base.takes 0 1 ∧ (base.taken 0 9).fw.updState = 0 ∧
    ((fw { updState := 2, isStaged := true }).taken 0 9).stagedBundle.minPrev.toNat ≤ ((fw { updState := 2, isStaged := true }).taken 0 9).fwVersion ∧
    ((fw { updState := 2, isStaged := true }).taken 0 9).fw.isStaged = true ∧ (fw { updState := 2, isStaged := true }).takes 0 6 ∧
    (base.taken 0 9).emergency = false ∧ (base.taken 0 9).fw.updState ∉ [3, 4, 5] ∧ ((base.taken 0 9).core 3).state = 0 ∧
    (fw { staging := some (2, {}) }).fw.staging = some (2, {}) ∧
    (fw { updState := 4, current := some 6, cores := [(6, { state := 1 })] }).fw.current = some 6 ∧
    (fw { updState := 4, current := some 6, cores := [(6, { state := 1 })] }).msPast ((fw { cores := [(6, { state := 1 })] }).core 6).since 50 = true := by
  unfold State.takes; decide
theorem test_stage_completes : ((run (.fwStage 0 9 0x10000 64) base).ctx 0).ses.done = 9 := by decide
theorem test_catalogue_completes : ((run (.fwCatalogue 0 9 0x10000 64) base).ctx 0).ses.done = 9 := by decide
theorem test_fw_restart_completes : ((run (.fwRestart 0 9 3) base).ctx 0).ses.done = 9 := by decide
theorem test_security_completes_met : (base.taken 0 9).fw.updState ≠ 1 ∧ (base.taken 0 9).sec.dbgFail < 8 ∧
    (({ base with ctxs := [(0, { Ctx.system with ses := ses })] } : State).taken 0 9).tenants = false ∧
    (debugging.taken 0 9).sec.rdOn = true ∧ (debugging.taken 0 9).sec.wrOn = true ∧ base.mapped (0x1000 % 2 ^ 48) (1 % 2 ^ 32 * 64) = true ∧
    inHbm 0x1000 64 = true ∧ inSomeStore 0x010000000000 64 = true ∧ base.mapped 0x010000000000 64 = true := by decide
theorem test_host_commands_complete : ((run (.attest 1 9 0x10000 3 0) base).ctx 1).ses.done = 9 ∧ ((run (.identity 1 9 0x10000 3) base).ctx 1).ses.done = 9 ∧
    ((run (.hlthDump 1 9 0x10000 3) base).ctx 1).ses.done = 9 ∧ ((run (.dbgChallenge 0 9) base).ctx 0).ses.done = 9 ∧
    ((run (.dbgRead 0 9 0x1000 0x10000 1) debugging).ctx 0).ses.done = 9 := by decide
/-- Debug copies of a save area: mapped HBM, neither outside the system area nor a store. -/
theorem test_save_area_met : base.mapped systemOffset 64 = true ∧ inHbm systemOffset 64 = false ∧ inSomeStore systemOffset 64 = false ∧ systemOffset + 64 ≤ hbmEnd ∧
    (saveAreaOf systemOffset 1).isSome = true ∧ base.mapped regBase 64 = true ∧ ¬ regBase + 64 ≤ hbmEnd := by decide

/-! Messages over queue pairs. -/

/-- 11, "one packet of the head tensor": three records at position 120 (R442's example). -/
theorem test_reduce_header : reduceBytes ⟨9000, 0, 4, false, 120, 0x0002103FC0000000⟩ 3 =
    [0x28, 0x23, 0, 0, 0, 0, 0, 0, 0x10, 0x03, 0x78, 0, 0, 0, 0, 0, 0, 0, 0, 0xC0, 0x3F, 0x10, 0x02, 0] := by decide
theorem test_headers_met : (readReduce (reduceBytes ⟨2 ^ 64 - 1, 3, 15, true, 8191, 2 ^ 64 - 1⟩ 255)).2 = 255 ∧
    readSig (sigBytes ⟨2 ^ 24 - 1, 2 ^ 32 - 1, 2 ^ 24 - 1⟩) = ⟨2 ^ 24 - 1, 2 ^ 32 - 1, 2 ^ 24 - 1⟩ ∧
    readVote (voteBytes ⟨255, 65535, 2 ^ 32 - 1, 2 ^ 64 - 1⟩) = ⟨255, 65535, 2 ^ 32 - 1, 2 ^ 64 - 1⟩ := by decide
/-- R444: a message that fits goes in one packet, longer ones as FIRST, MIDDLE and LAST. -/
theorem test_vote_opcodes : voteCount 4096 96 = 1 ∧ voteOpcode 1 0 = 0xC5 ∧ voteCount 4096 8193 = 3 ∧
    (List.range 3).map (voteOpcode 3) = [0xC2, 0xC3, 0xC4] := by decide
def voteFrame : VoteHdr := ⟨2, 0, 8, 99⟩
theorem test_vote_arrives_met : (group 2).receives 20 = true ∧ (group 2).cached 20 = true ∧ 0 = ((group 2).qp 20).rqPsn ∧ (frOf 0xC5).ordinary (.probeReply .taken 5) ∧
    (group 2).agbelOk 20 = true ∧ ({ group 2 with qps := [(20, { used := true, state := 3, port := 1, dip := 1 })] } : State).agbelOk 20 = false ∧
    (group 2).voteQpOf 0 = some 20 ∧ ((group 2).qp 20).state ≠ 4 ∧ (group 2).parent = some ((group 2).peerOf 20) ∧ voteFrame.kind ≠ 1 := by
  unfold Frame.ordinary; decide
theorem test_vote_arrives : let s := (group 2).modGroup (fun g => { g with parentSilent := 3 })
    (run (.heartbeat (.packet 20 0 (frOf 0xC5) voteFrame) 0 false 0) s).group.parentSilent = 0 ∧
    ((run (.heartbeat (.packet 20 0 (frOf 0xC5) voteFrame) 0 false 0) s).qp 20).rqPsn = 1 ∧
    sent (run (.heartbeat (.packet 20 0 (frOf 0xC5) voteFrame) 0 false 0) s) = [.ack 20 0] ∧
    sent (run (.probe (.packet 20 0 (frOf 0xC5) voteFrame) 0 2) (group 2)) = [.nak 20 0 0x61] := by decide
theorem test_frames_met : fr.ordinary (.rdmaWriteInbound 7 0 fr 0 0 []) ∧ 9216 < ({ fr with len := 9217 } : Frame).len ∧ ({ fr with plain := false } : Frame).plain = false := by
  unfold Frame.ordinary; decide
/-- R423, R427, R440: a long frame is counted, a fragment dropped, one marked CE answered with a CNP, a reserved opcode refused. -/
theorem test_frames : (run (.sendInbound 7 0 { fr with len := 9217 } []) base).net.dropLong = 1 ∧
    (run (.sendInbound 7 0 { fr with plain := false } []) base) = base ∧ sent (run (.sendInbound 7 0 { fr with ce := true } []) base) = [.cnp 7, .nak 7 0 0x61] ∧
    sent (run (.sig 7 0 (frOf 0xC6) ⟨5000, 2, 0⟩ true) base) = [.nak 7 0 0x61] := by
  refine ⟨?_, rfl, ?_, ?_⟩ <;> decide

/-- Queue pairs 5 and 7 on port 1 with PCP 3, and 9 with PCP 5. -/
def queued (up : Bool) (paused : List Nat) : State :=
  { base with
    qps := [(5, { qp7 with pcp := 3 }), (7, { qp7 with pcp := 3, vid := 4 }), (9, { qp7 with pcp := 5 })]
    net := { subs := [(4, { up := up, paused := paused })], egress := [(4, [⟨7, .ack 7 0, 0⟩, ⟨5, .ack 5 0, 0⟩, ⟨9, .ack 9 0, 0⟩])] } }
/-- R425, R426: the highest PCP first; within one, in turn; nothing of a paused priority, and nothing without link. -/
theorem test_ports_send : (queued true []).nextPacket 4 = some ⟨9, .ack 9 0, 0⟩ ∧ (queued true [5]).nextPacket 4 = some ⟨5, .ack 5 0, 0⟩ ∧
    ((queued true [5]).sendFrame 4).nextPacket 4 = some ⟨7, .ack 7 0, 0⟩ ∧ ((queued true [3, 5]).sendFrame 4).out = [] ∧
    ((queued false []).sendFrame 4).out = [] ∧ ((queued true []).frameHdr 7 (.ack 7 0) 0).tag = some (3, 4) ∧
    ((queued true []).frameHdr 7 (.cnp 7) 0).tag = some (6, 4) ∧ (queued true []).trainMode 1 = .negotiate := by decide
/-- R312: the far end of queue pair 7 is the module's own address. -/
def own : State := { base with qps := [(7, { qp7 with sip := 5, dip := 5, dqpn := 7 })] }
theorem test_own_redw_met : own.selfQp 7 = true ∧ base.selfQp 7 = false ∧ sent (run (.redw 0 .F (long (0x6240000000000000 + 10 * 2 ^ 32 + 1 * 2 ^ 24 + 2 * 2 ^ 16 + 9 * 2 ^ 8) 7)) own) = [] ∧
    own.ready 0 .F 16 { reads := pRes 1 ++ sRes 2 ++ sRes 9 ++ sRes 10 ++ [memRes 0x10000 3264], units := [.rdma] } = true := by decide

/-- The inner packets of a REDW to the module itself: context 1 owns positions 4 and 5. -/
def inner (step pos : Nat) : State :=
  { owner with qps := [(7, { qp7 with dqpn := 7 })], flights := [flight (.redw 7 [(0, header step pos, [[]])])], nextId := 4 }
theorem test_inner_met : let far := (inner 5 5).qp ((inner 5 5).qp 7).dqpn
    far.used = true ∧ far.agbel = true ∧ far.ud = false ∧ far.state = 3 ∧ ((inner 5 5).reducePacket far.ctx (header 5 5) [[]]).2 = .ack ∧
    ((inner 5 5).reducePacket far.ctx (header 5 5) [[]]).1.flight? 3 = some (flight (.redw 7 [(0, header 5 5, [[]])])) ∧
    ((inner 6 5).reducePacket far.ctx (header 6 5) [[]]).2 = .rnr ∧ (run (.redwAck ⟨3, false⟩) (inner 5 5)).flights = [] ∧
    (run (.redwAck ⟨3, false⟩) (inner 6 5)).flights = (inner 6 5).flights := by decide

/-- Positions 0 and 1 complete, 1 before 0 unless the stamps say otherwise. -/
def two (a b : Nat) : State :=
  { withCtx (fun x => { x with shards := [{ shard with nt := 2, pos := 0, npos := 2 }] }) with
    slots := [(0, { state := .complete, ctx := 1, step := 5, count := 1, stamp := a }), (1, { state := .complete, ctx := 1, step := 5, count := 1, stamp := b })] }
/-- R339: tiles go to the front in the order in which they completed. -/
theorem test_front_order : (run (.frontHandover 0) (two 3 2)).stations = [] ∧ ((run (.frontHandover 1) (two 3 2)).slot 1).state = .taken ∧
    ((run (.frontHandover 0) (two 2 3)).slot 0).state = .taken ∧
    ((delivered 0 .complete).ctx 1).mirrorsShard { shard with binds := [(0, 0)] } = true ∧
    (∀ e ∈ (two 2 3).slots, e.2.state = .complete → ((two 2 3).slot 0).stamp ≤ e.2.stamp) := by decide
/-- A tile of a shard that is not armed any more leaves its position free (R336). -/
theorem test_station_disarmed : let s : State := { base with stations := [(0, [⟨1, 5, shard, 0, 0, [0]⟩])], slots := [(0, { state := .taken, ctx := 1, step := 5 })] }
    ((run (.stationTileDone 0) s).slot 0).state = .free := by decide

/-- The coordinator's table; module 5 suspected since Bell 100, with and without an entry of three Bells in a row. -/
def judging (es : List Suspect) (k : Nat) : State :=
  { group 0 with group := { (group 0).group with suspects := es, clears := [(5, 90)], streak := [(5, (99, k))] } }
theorem test_judging_met : (judging [] 0).group.streakOf 5 100 < 3 ∧ (judging [] 0).group.suspected 5 = false ∧
    (judging [⟨5, 98, 1, 1, .judged, true⟩] 0).group.suspected 5 = true ∧ 3 ≤ (judging [⟨5, 98, 1, 1, .judged, true⟩] 2).group.streakOf 5 100 ∧
    (judging [] 0).up 4 = true ∧ (group 0).group.newCoord = false ∧ (∀ t ∈ (group 0).group.takeovers, t.twin ≠ 5) := by decide
theorem test_full_table_met : 4096 ≤ (List.replicate 4096 (⟨6, 98, 1, 1, .judged, true⟩ : Suspect)).length ∧
    ∀ e ∈ List.replicate 4096 (⟨6, 98, 1, 1, .judged, true⟩ : Suspect), e.dev ≠ 5 :=
  ⟨Nat.le_of_eq List.length_replicate.symm, fun _ h => by rw [List.eq_of_mem_replicate h]; decide⟩
set_option maxRecDepth 32768 in
/-- A declaration drops the entry and tells the suspect (R380, R381). -/
theorem test_declares : let s := run (.suspectDeclare 5) (judging [⟨5, 98, 1, 1, .judged, true⟩] 0)
    s.group.suspects = [] ∧ (votes s).contains (5, .notice 5 2) = true ∧
    (run (.suspectDeclare 5) (judging [⟨5, 99, 1, 1, .judged, true⟩] 0)).group.suspects.length = 1 := by decide
set_option maxRecDepth 32768 in
/-- While FP4 restarts a report's notice and probe wait (R476). -/
theorem test_report_waits : let s : State := { judging [] 0 with fw := { cores := [(4, { state := 1 })] } }
    s.up 4 = false ∧ (run (.report .taken 0 2 5 100 1) s).group.suspects = [⟨5, 100, 1, 1, .judged, false⟩] ∧ s.tagged 0 = [0, 1] := by decide
set_option maxRecDepth 32768 in
/-- A heartbeat of a suspect clears its entry (R378). -/
theorem test_heartbeat_clears : let s := judging [⟨5, 98, 1, 1, .judged, true⟩] 0
    s.group.suspects.find? (fun e => e.dev == 5) = some ⟨5, 98, 1, 1, .judged, true⟩ ∧ (run (.heartbeat .taken 5 false 0) s).group.suspects = [] := by
  decide
set_option maxRecDepth 32768 in
theorem test_self_failed : (run (.report .taken 0 5 5 100 4) (judging [⟨5, 98, 1, 1, .judged, true⟩] 0)).group.suspects = [] ∧
    (run (.report .taken 0 5 5 100 8) (judging [] 0)).group.suspects = [] := by decide
set_option maxRecDepth 32768 in
/-- A new coordinator that still collects STATE messages owes the ABORT (R374). -/
theorem test_abort_owed : let s := (judging [] 0).modGroup (fun g => { g with newCoord := true })
    (run (.report .taken 0 5 5 100 8) s).group.abortDue = [1] ∧ (run (.suspectDeclare 5) (s.modGroup (fun g => { g with suspects := [⟨5, 98, 1, 1, .judged, true⟩] }))).group.abortDue = [1] := by
  decide
/-- C1 alone, its twin is module 5, mirror writes wait, and the queue pair to the twin does not send. -/
def mirroring : State :=
  { group 2 with
    ctxs := [(1, { c1 with mirrors := [⟨9, 5⟩], shadow := [(0x010, 0x3F), (0x384, 2 ^ 31 + 8)] }), (0, { exist := false })]
    group := { (group 2).group with twins := [(2, 5)] } }
theorem test_unsent_met : mirroring.contexts = [1] ∧ mirroring.twin = some 5 ∧ (mirroring.ctx 1).mirrors ≠ [] ∧
    (mirroring.qp (mirroring.ctx 1).twinQpn).sends 1 = false ∧ (run (.notice .taken 5 1) mirroring).group.abortPending = [0] ∧
    (run (.notice .taken 2 2) (group 2)).group.fenced = true ∧ (∀ e ∈ (group 2).group.suspects, e.dev ≠ 5) := by decide
theorem test_reports_met : 5 ∉ (group 2).group.reported ∧ 5 ≠ (group 2).devid ∧ (group 2).reportTo 5 1 ≠ (group 2).devid ∧ 5 ≠ (group 2).coordinator ∧
    (group 2).reportTo 0 1 = 1 := by decide

/-! Copies for a stand-in. -/

def standby : State := { base with group := { standby := true } }

/-- C1's copies: step 6 open at attempt 2, and one image record of a register write to LED_CFG, then the end. -/
def copies (image : List Byte) : TwinCopy := ⟨1, 1, 0, some 5, [⟨desc 6, 2, true⟩, ⟨desc 7, 0, false⟩], {}, image⟩
theorem test_copies_met : (copies []).ctx < 16 ∧ standby.group.takingOver = none ∧
    ((run (.takeover .taken 0x127 0x120 []) standby).group.takingOver ≠ none) := by decide
set_option maxRecDepth 8192 in
theorem test_copies : let s := run (.stateTransferDone [copies []]) (run (.takeover .taken 0x127 0x120 []) standby)
    (s.ctx 1).steps.map (fun h => (h.desc.step, h.attempt, h.state)) = [(6, 2, .aborted), (7, 0, .prepared)] ∧ (s.ctx 1).genState = 1 ∧
    (s.ctx 1).lastCmt = 5 := by decide
set_option maxRecDepth 8192 in
/-- R406: DEST 0x1000, LEN 1; then LEN 0. -/
theorem test_image : Memory.read (base.loadImage 1 ([0, 0x10, 0, 0, 0, 0, 0, 0, 1] ++ List.replicate 55 0 ++ List.replicate 63 0 ++ [7])).mem 0x103F = 7 := by
  decide

/-! Votes, commits, resumes. -/

def ballot (o : Nat) : Ballot := ⟨5, 0, 0, o, 0, 1, [], []⟩
def decision (o : Nat) : Decision := ⟨5, 0, 0, o, 0, 101, [], []⟩
/-- Module 1 of three under the coordinator 0, with C1 alone and its own ballot merged. -/
def voter : State :=
  { base with
    devid := 0, group := { active := [0, 1], addrs := [(1, ⟨1, 0, 2⟩)] }
    qps := [(21, { used := true, state := 3, agbel := true, port := 1, dip := 2 })], net := { cache := [21] }
    ctxs := [(1, { c1 with steps := [{ held 5 with merged := some (ballot 0), voters := [0] }] })] }
theorem test_vote_tree_met : 1 ∈ voter.children ∧ 2 ∉ voter.children ∧ voter.up 3 = true ∧ voter.tagged 0 = [1] ∧ voter.parent = none ∧
    (mergeTwo (ballot 0) (ballot 0)).merged = voter.members.length ∧ voter.group.newCoord = false ∧ (voter.tagged 9) = [] ∧
    ((voter.ctx 1).step? 5).map (fun h => (h.attempt, h.voters)) = some (0, [0]) ∧ (voter.ctx 1).decided 5 = false := by decide
theorem test_vote_merges : sent (run (.ballot .taken 2 (ballot 0)) voter) = [] ∧ (votes (run (.ballot .taken 1 (ballot 0)) voter)).map (·.1) = [1] ∧
    (run (.ballot .taken 1 { ballot 0 with step := 6 }) voter).group.early.length = 1 ∧
    ((run (.decision .taken (decision 0)) voter).ctx 1).flips = [decision 0] := by decide
theorem test_commit_met : (base.ctx 1).step? 5 = some (held 5) ∧ ((base.commitStep 1 (decision 0)).ctx 1).genMap = 1 ∧
    ((base.commitStep 1 (decision 3)).ctx 1).genState = 0 ∧ ((base.commitStep 1 (decision 0)).ctx 1).lastCmt = 5 := by decide
theorem test_abort : ((base.abortCtx 1).ctx 1).steps.map (fun h => (h.attempt, h.ballots)) = [(1, 0)] ∧
    ((base.numericsAbort 1 (decision 1)).ctx 1).resumeAt = some 101 ∧ ((base.parkCtx 1).ctx 1).parked = true := by decide
theorem test_state_met : let s : State := { group 0 with group := { active := [0, 1, 2], newCoord := true } }
    s.group.newCoord = true ∧ (∃ m ∈ s.members, m ≠ 1 ∧ ∀ e ∈ s.group.states, e.1 ≠ m) ∧ (run (.state .taken 1 none) s).group.states = [(1, 0, none)] := by
  refine ⟨rfl, ⟨0, by decide, by decide, by decide⟩, by decide⟩
theorem test_twin_ack : (((run (.twinLedgerAck 1 ⟨5, false⟩) base).ctx 1).step? 5).map (·.twinAck) = some true := by decide
theorem test_resume_met : (group 2).children = [] ∧ bit (2 : BitVec 16) 1 = true ∧
    ((run (.resume .taken 0 120 2) (withCtx (fun x => { x with faulted := true }))).ctx 1).resumeAt = some 120 ∧
    ((run (.resume .taken 0 120 2) base).ctx 1).resumeAt = none ∧ { base with crofts := [] }.quiet 1 = true ∧ base.quiet 1 = true ∧
    ((run (.quietReached 1) (withCtx (fun x => { x with quietWait := true }))).ctx 1).quietWait = false := by decide
theorem test_takeover : (run (.takeover .taken 0x127 0x120 [⟨1, 0, 5⟩]) standby).devid = 0x127 ∧ (run (.takeover .taken 0x127 0x120 [⟨1, 0, 5⟩]) base).devid = 0 ∧
    base.portRole 1 0 = 2 ∧ (run .gratuitousArp (run (.takeover .taken 0x127 0x120 [⟨1, 0, 5⟩]) standby)).group.announceLeft = 1 ∧
    (run (.stateTransferDone []) (run (.takeover .taken 0x127 0x120 []) standby)).group.takingOver = none := by decide
theorem test_group_loss_met : let s : State := { base with ctxs := [(1, c1)] }
    s.contexts = [1] ∧ s.children = [] ∧ ((run (.groupLoss .taken 5 2) s).ctx 1).parked = true := by decide

/-- A loss acts on the contexts of its tag alone (R445), and a stand-in of one partner takes its context's generations for its mirrors. -/
theorem test_loss_by_tag : let s : State := { base with ctxs := [(1, c1)] }
    bit (2 : BitVec 16) 1 = true ∧ (s.ctx 1).gtag = 0 ∧ ((s.takeLoss 0 5 2).ctx 1).parked = true ∧ ((s.takeLoss 7 5 2).ctx 1).parked = false := by decide
theorem test_mirrors_met : let s : State := { base with devid := 9, ctxs := [(1, { c1 with genMap := 1 })], group := { twins := [(3, 9)], active := [3, 9] } }
    s.partners = [3] ∧ s.contexts = [1] ∧ Table.get (0, 0) s.adoptMirrors.group.mirrorGen (16 * 3 + 1) = (0, 1) := by decide

/-! Checks, faults and reset. -/

def checked : State := withCtx (fun x => { x with steps := [{ held 5 with ballots := 2, upcmts := 1 }] })
theorem test_check_met : (checked.ctx 1).step? 5 = some { held 5 with ballots := 2, upcmts := 1 } ∧ (held 5).ballotsWanted ≤ 2 ∧ checked.up 5 = true ∧
    checked.suspecting = false ∧ (held 5).ballots < (held 5).ballotsWanted ∧ (held 5).stage = .fresh ∧ checked.crossings (checked.ctx 1) (held 5) = [] ∧
    (((run (.numericsCheck 1 5) checked).ctx 1).step? 5).map (fun h => (h.state, h.outcome)) = some (.checked, 0) := by decide
/-- One record of 16 elements that all saturate crosses the SAT test of the default thresholds (R295). -/
def crossed : HeldStep := { held 5 with ballots := 2, records := [{ step := 5, tid := 7, elements := 16, saturated := 16, attempt := 0 }], thr0 := 0x00040010, thr1 := 0x400000FE }
theorem test_crossing_met : (base.crossings (base.ctx 1) crossed).length = 1 ∧ bit crossed.thr1 1 = true ∧ bit (0x400000FC : Reg) 1 = false ∧
    (base.evaluate (base.ctx 1) crossed).outcome = 1 ∧ (base.evaluate (base.ctx 1) crossed).flagged = [7] := by decide
theorem test_gather_entry_met : let s := withCtx (fun x => { x with walks := [⟨5, 1, [0]⟩] })
    (s.ctx 1).walks = [⟨5, 1, [0]⟩] ∧ 0 ∈ (⟨5, 1, [0]⟩ : Walk).running ∧ s.up 3 = true := by decide
/-- CHECK ends once UPDATE has (R29); a gather entry's WRITE is under way or not; a queue pair waits or is in ERROR with work left. -/
theorem test_check_ends_met : let h : HeldStep := { held 5 with ballots := 2, evaluated := true }
    base.checkEnds 1 { h with upcmts := 1 } = true ∧ base.checkEnds 1 h = false ∧
    ({ base with group := { held := [(5, 1)] } } : State).checkEnds 1 { h with upcmts := 1 } = false := by decide
def writingGather : State :=
  { base with ctxs := [(1, { c1 with walks := [⟨5, 1, [0]⟩] })], qps := [(7, { qp7 with work := [⟨.gather 1 0, 0, 1⟩] })] }
theorem test_writing_met : writingGather.writing 1 0 = true ∧ base.writing 1 0 = false ∧ (writingGather.gatherEntry (writingGather.ctx 1) 0).sigv = false ∧
    writingGather.up 3 = true ∧ ((run (.gatherEntryComplete 1 ⟨0, false⟩) writingGather).ctx 1).walks = [] := by decide
/-- R332: a WRITE of a committed step's gather that ends PEER_LOST leaves the step committed. -/
theorem test_lost_gather_keeps_step : let s := writingGather.setQp 7 { qp7 with state := 4, lost := true, work := [⟨.gather 1 0, 0, 1⟩] }
    let t := run (.ackTimeout 7) { s with ctxs := [(1, { c1 with steps := [{ held 5 with state := .committed }], walks := [⟨5, 1, [0]⟩] })] }
    (t.ctx 1).steps.all (fun h => h.state == .committed) = true ∧ (t.qp 7).work = [] := by decide
theorem test_error_work_met : let q : Qp := { qp7 with state := 4, work := [⟨.control, 8, 2⟩] }
    q.used = true ∧ q.state = 4 ∧ q.work ≠ [] ∧ ({ qp7 with rnrWait := true } : Qp).rnrWait = true ∧ (∀ e ∈ base.stations, ∀ j ∈ e.2, j.ctx ≠ 1) := by
  simp [base, State.reset, qp7]
/-- Croft 0 is under test; positions 144 and 145 of die 0 are spare. -/
def spare : Security := { spares := [(0, [144, 145])] }
def testing : State := { State.reset with sec := { spare with testing := [0] } }
def faulty : State := { base with sec := spare }
theorem test_faults_met : faulty.sec.hasRoom (dieOf 0) = true ∧ ({ } : Security).hasRoom 0 = false ∧
    (0 : Nat) ∈ testing.sec.testing ∧ testing.allQuiet = true ∧ testing.sec.spare? (dieOf 0) = some 144 ∧ base.anyHeld = true ∧
    State.reset.anyHeld = false ∧ (run (.croftFault 0) faulty).sec.testing = [0] ∧
    (run (.remapSelfTestDone 0 true) testing).sec.overlay = [(0, 0, 144)] := by decide
/-- R412: SRAM errors in three attempts of one step fail croft 0; before that they ask for an abort. R411: the attempts that run are marked. -/
def errors (n : Nat) : State := { faulty with sramErrors := [(0, (List.range n).map (fun k => (1, 5, k + 1)))] }
theorem test_sram_met : inStoreOf 0 (storeBase / 64 * 64) 64 = true ∧ inStoreOf 0 0 64 = false ∧ base.runningAttempts = [(1, 5, 0)] ∧
    (run (.uncorrectableError (.croftSram 0) storeBase true) (errors 2)).sec.testing = [0] ∧
    (run (.uncorrectableError (.croftSram 0) storeBase true) (errors 1)).sec.testing = [] ∧
    (run (.uncorrectableError (.croftSram 0) storeBase true) (errors 1)).group.toReport = [(0, whySelfRemap)] ∧
    (((run (.uncorrectableError (.croftSram 0) storeBase true) faulty).ctx 1).step? 5).map (·.ueTries) = some [0] := by decide
/-- The partner's twin area marks only; a block in plain HBM; a slot position in use. -/
theorem test_blocks_met : base.ueAbort 7 0x1000 = base.markUe ∧ (base.ueAbort 8 0x1000).group.toReport = [(0, whySelfRemap)] ∧
    areaPart 0x1000 = none ∧ 0x1000 < hbmEnd ∧ 1 ∈ base.contexts ∧ ((delivered 0 .complete).slot 0).state ≠ .free ∧
    (base.slot 9).state = .free ∧ base.badQps = [] ∧ base.up 2 = true := by
  refine ⟨rfl, ?_⟩; decide
/-- A step with EXCH_ERROR whose Mill work has ended has its maps kept before UPDATE ends (R325, R361). -/
theorem test_maps_kept_met : let s := withCtx (fun x => { x with steps := [{ held 5 with ballots := 2, upcmts := 1, exchError := true }] })
    (s.ctx 1).step? 5 = some { held 5 with ballots := 2, upcmts := 1, exchError := true } ∧
    s.exchangeEnded 1 (s.evaluate (s.ctx 1) { held 5 with ballots := 2, upcmts := 1, exchError := true }) = true ∧
    s.millEnded 1 { held 5 with ballots := 2, upcmts := 1, exchError := true } = true ∧
    (((run (.numericsCheck 1 5) s).ctx 1).step? 5).map (fun h => (h.mapsKept, h.state)) = some (true, .checked) := by decide
theorem test_restore : Memory.read (({ base with badBlocks := [(0, 0x1000, [5, 6])] } : State).restoreBlocks).mem 0x1001 = 6 := by decide
theorem test_reset_met : State.reset.contexts = [0] ∧ State.reset.pool = 8 ∧ ((State.reset.ctx 0).reg 0x004).toNat = 2000 := by decide

/-! Numbers. -/

theorem test_scale_met : scaleExp 0 (v 25 (-3)) = 0 ∧ scaleExp 0 (v 3 0) = -1 ∧ scaleCode (-128) = 0 ∧ scaleCode 200 = 254 := by decide
theorem test_pack_met : (List.replicate 1024 9).length = 1024 ∧ (∀ c ∈ List.replicate 1024 9, c < 2 ^ fmtBits 0) :=
  ⟨List.length_replicate, fun _ h => by rw [List.eq_of_mem_replicate h]; decide⟩
/-- 02: the nibble of element 116 is bits [3:0] of byte 58. -/
theorem test_nibble : codeAt 0 (List.replicate 58 0 ++ [0x3D]) 116 = 0xD ∧ codeAt 0 (List.replicate 58 0 ++ [0x3D]) 117 = 0x3 := by decide

end Sys2Proof.Tests
end

section
/-! Writes of registers (R8–R10, R286, R287, R403, R456–R458, R464): what the cores' states and the lease are after each update, where the
words of the window lie, and what each step of a write does. -/

namespace Sys2Proof.Machine

/-! What a core's state and the group are after an update of a context. -/

@[simp] theorem State.up_modCtx (s : State) (c k : Nat) (f : Ctx → Ctx) : (s.modCtx c f).up k = s.up k := rfl

@[simp] theorem State.up_renew (s : State) (c k : Nat) : (s.renew c).up k = s.up k := by
  obtain ⟨x, hx⟩ := s.renew_fields c
  rw [hx]; rfl

@[simp] theorem State.renew_group (s : State) (c : Nat) : (s.renew c).group = s.group := by
  obtain ⟨x, hx⟩ := s.renew_fields c
  rw [hx]

/-- Drawing no bytes leaves the state as it was. -/
@[simp] theorem State.drawBytes_zero (s : State) : s.drawBytes 0 = ([], s) := rfl

/-! Where the words of the window lie (R455, R456, R472). -/

/-- The page of context `c` starts at `(c + 1) * 0x10000`. -/
theorem pageOf_ctxPage (c : Nat) {o : Nat} (h : o < 0x10000) : pageOf ((c + 1) * 0x10000 + o) = some c := by
  have hp : ((c + 1) * 0x10000 + o) / 0x10000 - 1 = c := by omega
  rw [pageOf, if_neg (by omega), hp]

theorem mayWrite_ctxPage (c : Nat) {o : Nat} (h : o < 0x10000) : mayWrite c ((c + 1) * 0x10000 + o) = true := by
  simp [mayWrite, pageOf_ctxPage c h]

/-- FP5 owns NUM_APPLY of every page (R472). -/
theorem ownerOf_numApply (c : Nat) : ownerOf ((c + 1) * 0x10000 + 0x078) = 5 := by
  have ho : ((c + 1) * 0x10000 + 0x078) % 0x10000 = 0x078 := by omega
  have hp : ¬ (c + 1) * 0x10000 + 0x078 < 0x10000 := by omega
  simp [ownerOf, ho, hp]

theorem State.applyWord_ctxPage (s : State) (c : CtxId) (v : Nat) {o : Nat} (h : o < 0x10000) :
    s.applyWord c ((c.val + 1) * 0x10000 + o) v = s.writeCtxReg c o v := by
  have ho : ((c.val + 1) * 0x10000 + o) % 0x10000 = o := by omega
  rw [State.applyWord, if_neg (by omega), ho]

/-! One word of a write (R456–R458, R471). -/

section
variable {s : State} {c : CtxId} {off : Nat}

theorem State.writeWord_of_running (v : Nat) (hf : s.group.fenced = false) (hw : mayWrite c off = true) (h1 : s.up 1 = true)
    (ho : s.up (ownerOf off) = true) : s.writeWord c off v = s.applyWord c off v := by
  simp [State.writeWord, hf, hw, h1, ho]

theorem State.writeWord_of_owner_down (v : Nat) (hf : s.group.fenced = false) (hw : mayWrite c off = true) (h1 : s.up 1 = true)
    (ho : s.up (ownerOf off) = false) :
    s.writeWord c off v = s.hold (ownerOf off) (.registerWrite c off (BitVec.ofNat 32 v)) := by
  simp [State.writeWord, hf, hw, h1, ho]

theorem State.writeWord_of_fp1_down (v : Nat) (hf : s.group.fenced = false) (hw : mayWrite c off = true) (h1 : s.up 1 = false) :
    s.writeWord c off v = s.hold 1 (.registerWrite c off (BitVec.ofNat 32 v)) := by
  simp [State.writeWord, hf, hw, h1]

theorem State.writeWord_of_refused (v : Nat) (h : s.group.fenced = true ∨ mayWrite c off = false) :
    s.writeWord c off v = s := by
  rcases h with h | h <;> simp [State.writeWord, h]

end

theorem exec_registerWrite_of_serves {s : State} {c : CtxId} (off : Nat) (v : Reg) (h : s.serves c = true) :
    exec (.registerWrite c off v) s = .next ((s.renew c).writeWord c off v.toNat) :=
  congrArg Host.Outcome.next (if_pos h)

theorem exec_registerWrite_of_not_serves {s : State} {c : CtxId} (off : Nat) (v : Reg) (h : s.serves c = false) :
    exec (.registerWrite c off v) s = .next s :=
  congrArg Host.Outcome.next (if_neg (by simp [h]))

/-! NUM_APPLY (R286, R287). -/

theorem State.writeCtxReg_numApply (s : State) (c : CtxId) (v : Nat) :
    s.writeCtxReg c 0x078 v = s.modCtx c (fun x => x.ask v) := rfl

/-- A write of NUM_APPLY asks FP5 for what its three bits select, while FP1 and FP5 run. -/
theorem State.askApply_eq {s : State} {c : CtxId} {k : Nat} (hs : s.serves c = true) (hf : s.group.fenced = false) (h1 : s.up 1 = true)
    (h5 : s.up 5 = true) (hk : k < 8) :
    s.askApply c k = (s.renew c).modCtx c (fun x => { x.putReg 0x078 k with applyAsk := k }) := by
  have hw : (s.renew c).writeWord c ((c.val + 1) * 0x10000 + 0x078) k = (s.renew c).applyWord c ((c.val + 1) * 0x10000 + 0x078) k :=
    State.writeWord_of_running k (by simpa using hf) (mayWrite_ctxPage c (by decide)) (by simpa using h1)
      (by simpa [ownerOf_numApply] using h5)
  rw [State.askApply, if_pos hs, hw, State.applyWord_ctxPage _ _ _ (by decide), State.writeCtxReg_numApply]
  simp only [Ctx.ask, Nat.mod_eq_of_lt hk]

/-! What a register reads, and what is in effect (R8, R9). -/

@[simp] theorem Ctx.reg_putReg_same (x : Ctx) (o v : Nat) : (x.putReg o v).reg o = BitVec.ofNat 32 v := by
  simp [Ctx.reg, Ctx.putReg]

@[simp] theorem Ctx.regEff_putReg (x : Ctx) (o p v : Nat) : (x.putReg o v).regEff p = x.regEff p := rfl

/-- Action 3 of a Bell puts in effect what the register reads. -/
@[simp] theorem Ctx.regEff_latch (x : Ctx) (o : Nat) : (x.latch false).regEff o = x.reg o := rfl

theorem Ctx.write_evTail (x : Ctx) (v : Nat) : x.write 0x01C v = x.putReg 0x01C v := rfl

theorem Ctx.write_waitWarn (x : Ctx) (v : Nat) : x.write 0x048 v = x.putReg 0x048 (v % 65536) := rfl

/-! Ledger regions (R403). -/

theorem State.findRegion_free {s : State} {c g a : Nat} (h : s.findRegion c g = some a) : s.regionFree c a g = true :=
  List.find?_some (p := fun a => s.regionFree c a g) h

/-- The region found is free, and no size between it and the one asked for is. -/
theorem State.bestRegion_spec {s : State} {c n a g : Nat} (h : s.bestRegion c n = some (a, g)) :
    1 ≤ g ∧ g ≤ n ∧ s.regionFree c a g = true ∧ ∀ k, g < k → k ≤ n → s.findRegion c k = none := by
  induction n with
  | zero => simp [State.bestRegion] at h
  | succ n ih =>
    rw [State.bestRegion] at h
    split at h
    next b hb =>
      obtain ⟨rfl, rfl⟩ : b = a ∧ n + 1 = g := by simpa using h
      exact ⟨by omega, Nat.le_refl _, State.findRegion_free hb, fun k hk hn => by omega⟩
    next hnone =>
      obtain ⟨h1, hn, hfree, hgap⟩ := ih h
      refine ⟨h1, by omega, hfree, fun k hk hkn => ?_⟩
      rcases Nat.lt_or_eq_of_le hkn with hlt | rfl
      · exact hgap k hk (by omega)
      · exact hnone

section
variable {s : State} {c : CtxId} {g : Nat}

theorem exec_ledgerRegionAllocate_of_none_held (he : (s.ctx c).exist = true) (hg : (s.ctx c).regionGib ≠ clampTo 1 64 g)
    (h : (s.ctx c).steps = []) : exec (.ledgerRegionAllocate c g) s = .next (s.allocRegion c g) := by
  show execLedgerRegionAllocate c g s = _
  simp [execLedgerRegionAllocate, State.newRegion, he, hg, h]

theorem exec_ledgerRegionAllocate_of_held (he : (s.ctx c).exist = true) (hg : (s.ctx c).regionGib ≠ clampTo 1 64 g)
    (h : (s.ctx c).steps ≠ []) :
    exec (.ledgerRegionAllocate c g) s = .next (s.modCtx c (fun x => { x with ledIgnored := true })) := by
  show execLedgerRegionAllocate c g s = _
  simp [execLedgerRegionAllocate, he, hg, h]

end

/-! GO (R464). -/

/-- The command's half of a session's mailbox. -/
def State.command (s : State) (c : CtxId) : List Byte := Memory.readBytes (s.ctx c).ses.mbox 0 256

/-- GO's value is noted, as the last one of the session. -/
def State.noteGo (s : State) (c : CtxId) (v : Nat) : State :=
  s.modCtx c (fun x => { x with ses := { x.ses with lastGo := v % 65536 } })

section
variable {s : State} {c : CtxId} {v : Nat}

theorem State.go_of_other_seq (ho : (s.ctx c).ses.state = .opened) (hb : (s.ctx c).ses.busy = false)
    (hq : leNat (((s.command c).drop 2).take 2) ≠ v % 65536) :
    s.go c v = (s.noteGo c v).finish c (v % 65536) (mbBadSeq, []) := by
  simp only [State.command] at hq
  simp [State.go, State.noteGo, ho, hb, hq]

/-- A command that brings no bytes of host memory (log entry 19) runs once FP1 and its core run. -/
theorem State.go_of_mailboxRun {op : Nat} {r : Nat × Instr × (State → State)} (ho : (s.ctx c).ses.state = .opened)
    (hb : (s.ctx c).ses.busy = false) (hq : leNat (((s.command c).drop 2).take 2) = v % 65536)
    (hop : leNat ((s.command c).take 2) = op) (hcfg : op ≠ 0x0092) (hdbg : op ≠ 0x0096)
    (hr : mailboxRun c (v % 65536) c op (leNat (((s.command c).drop 4).take 2)) ((s.command c).drop 8) = some r) :
    s.go c v = (s.noteGo c v).takeIn r.1 r.2.1 r.2.2 := by
  subst hop
  simp only [State.command] at hq hcfg hdbg hr
  simp [State.go, State.noteGo, ho, hb, hq, hcfg, hdbg, hr]

theorem State.go_of_no_command {op : Nat} (ho : (s.ctx c).ses.state = .opened) (hb : (s.ctx c).ses.busy = false)
    (hq : leNat (((s.command c).drop 2).take 2) = v % 65536) (hop : leNat ((s.command c).take 2) = op)
    (hcfg : op ≠ 0x0092) (hdbg : op ≠ 0x0096)
    (hr : mailboxRun c (v % 65536) c op (leNat (((s.command c).drop 4).take 2)) ((s.command c).drop 8) = none) :
    s.go c v = (s.noteGo c v).finish c (v % 65536) (mbBadOpcode, []) := by
  subst hop
  simp only [State.command] at hq hcfg hdbg hr
  simp [State.go, State.noteGo, ho, hb, hq, hcfg, hdbg, hr]

/-- DBG_WRITE is a command of C0's session (R493, R509). -/
theorem State.go_of_dbgWrite_elsewhere (ho : (s.ctx c).ses.state = .opened) (hb : (s.ctx c).ses.busy = false)
    (hq : leNat (((s.command c).drop 2).take 2) = v % 65536) (hop : leNat ((s.command c).take 2) = 0x0096) (hc : c.val ≠ 0)
    (h1 : s.up 1 = true) : s.go c v = (s.noteGo c v).finish c (v % 65536) (mbNotPermitted, []) := by
  simp only [State.command] at hq hop
  simp [State.go, State.noteGo, State.takeIn, doDbgWrite, State.serve, ho, hb, hq, hop, hc, h1]

end

/-! REGISTER_WRITE. -/

theorem exec_registerWrite_cases (c : CtxId) (off : Nat) (v : Reg) (s : State) (hs : s.serves c = true) :
    let t := s.renew c
    (s.group.fenced = false → mayWrite c off = true → s.up 1 = true → s.up (ownerOf off) = true →
      exec (.registerWrite c off v) s = .next (t.applyWord c off v.toNat)) ∧
    (s.group.fenced = false → mayWrite c off = true → s.up 1 = true → s.up (ownerOf off) = false →
      exec (.registerWrite c off v) s = .next (t.hold (ownerOf off) (.registerWrite c off v))) ∧
    (s.group.fenced = false → mayWrite c off = true → s.up 1 = false →
      exec (.registerWrite c off v) s = .next (t.hold 1 (.registerWrite c off v))) ∧
    (s.group.fenced = true ∨ mayWrite c off = false → exec (.registerWrite c off v) s = .next t) := by
  have hv : BitVec.ofNat 32 v.toNat = v := by simp
  rw [exec_registerWrite_of_serves off v hs]
  refine ⟨fun hf hw h1 ho => ?_, fun hf hw h1 ho => ?_, fun hf hw h1 => ?_, fun h => ?_⟩
  · rw [State.writeWord_of_running _ (by simpa using hf) hw (by simpa using h1) (by simpa using ho)]
  · rw [State.writeWord_of_owner_down _ (by simpa using hf) hw (by simpa using h1) (by simpa using ho), hv]
  · rw [State.writeWord_of_fp1_down _ (by simpa using hf) hw (by simpa using h1), hv]
  · rw [State.writeWord_of_refused _ (by simpa using h)]

/-- Settles O39: a word of a write, NUM_APPLY, the two values of an RWT register, the Ledger region and GO, each by the lemma
that says what that operation does. -/
theorem registerWritesApply : Obligations.RegisterWritesApply := by
  unfold Obligations.RegisterWritesApply
  refine ⟨exec_registerWrite_cases, fun c off v s h => exec_registerWrite_of_not_serves off v h, fun c s hs hf h1 h5 => ?_,
    fun x v _ => ?_, fun c g s he hg => ⟨fun h => ?_, exec_ledgerRegionAllocate_of_held he hg⟩,
    fun s c n a g => State.bestRegion_spec, fun s c v ho hb => ⟨?_, fun hq hop => ?_, fun hq hop => ?_, fun hq hop => ?_⟩⟩
  · refine ⟨?_, ?_, ?_⟩ <;> exact congrArg _ (State.askApply_eq hs hf h1 h5 (by decide))
  · simp [Ctx.write_evTail, Ctx.write_waitWarn]
  · exact exec_ledgerRegionAllocate_of_none_held he hg h
  · exact State.go_of_other_seq ho hb
  · exact State.go_of_mailboxRun ho hb hq hop (by decide) (by decide) rfl
  · exact State.go_of_dbgWrite_elsewhere ho hb hq hop
  · exact State.go_of_no_command ho hb hq hop (by decide) (by decide) rfl

end Sys2Proof.Machine
end

section
/-! Bytes and bits of tile records (R62, R64): a bit of the little-endian bytes of a number and of a packed row of codes, the row of a
record as one slice of its bytes, and that both are read back. -/

namespace Sys2Proof.Machine

/-! Little-endian bytes. -/

@[simp] theorem leBytes_length (n v : Nat) : (leBytes n v).length = n := by
  induction n generalizing v with
  | zero => rfl
  | succ n ih => simp [leBytes, ih]

theorem leNat_leBytes (n v : Nat) : leNat (leBytes n v) = v % 256 ^ n := by
  induction n generalizing v with
  | zero => simp [leBytes, leNat, Nat.mod_one]
  | succ n ih => simp [leBytes, leNat, ih, Nat.pow_succ', Nat.mod_mul]

/-- Bit p of byte q is bit 8q + p of the number. -/
theorem leBytes_getLsbD {n q p : Nat} (v : Nat) (hq : q < n) (hp : p < 8) :
    ((leBytes n v).getD q 0).getLsbD p = v.testBit (8 * q + p) := by
  induction n generalizing q v with
  | zero => omega
  | succ n ih =>
    cases q with
    | zero => simp [leBytes, hp, BitVec.getLsbD_ofNat, -BitVec.getLsbD_eq_getElem]
    | succ q =>
      calc ((leBytes (n + 1) v).getD (q + 1) 0).getLsbD p
          = (v / 2 ^ 8).testBit (8 * q + p) := by simpa [leBytes] using ih (v / 256) (by omega)
        _ = v.testBit (8 * (q + 1) + p) := by rw [Nat.testBit_div_two_pow]; congr 1; omega

/-! Codes as one number. -/

theorem packCodes_lt (w : Nat) (cs : List Nat) : packCodes w cs < 2 ^ (w * cs.length) := by
  induction cs with
  | nil => simp [packCodes]
  | cons c cs ih =>
    have hc : c % 2 ^ w < 2 ^ w := Nat.mod_lt _ (Nat.two_pow_pos w)
    calc packCodes w (c :: cs) < 2 ^ w * (packCodes w cs + 1) := by rw [packCodes, Nat.mul_succ]; omega
      _ ≤ 2 ^ w * 2 ^ (w * cs.length) := Nat.mul_le_mul_left _ ih
      _ = 2 ^ (w * (c :: cs).length) := by rw [← Nat.pow_add, List.length_cons, Nat.mul_succ, Nat.add_comm]

/-- Bit b of code k is bit w k + b of the number. -/
theorem packCodes_testBit {w b : Nat} (cs : List Nat) (k : Nat) (hb : b < w) :
    (packCodes w cs).testBit (w * k + b) = (cs.getD k 0).testBit b := by
  induction cs generalizing k with
  | nil => simp [packCodes]
  | cons c cs ih =>
    have hc : c % 2 ^ w < 2 ^ w := Nat.mod_lt _ (Nat.two_pow_pos w)
    rw [packCodes, Nat.add_comm, Nat.testBit_two_pow_mul_add _ hc]
    cases k with
    | zero => simp [hb, Nat.testBit_mod_two_pow]
    | succ k =>
      have hk : w * (k + 1) + b = w + (w * k + b) := by rw [Nat.mul_succ]; omega
      rw [hk, if_neg (by omega), Nat.add_sub_cancel_left, List.getD_cons_succ, ih k]

theorem unpack_packCodes {w : Nat} {cs : List Nat} (h : ∀ c ∈ cs, c < 2 ^ w) : unpack w cs.length (packCodes w cs) = cs := by
  induction cs with
  | nil => rfl
  | cons c cs ih =>
    have hc : c < 2 ^ w := h c (by simp)
    have hcs := ih (fun c hc => h c (List.mem_cons_of_mem _ hc))
    have hmod : (c + 2 ^ w * packCodes w cs) % 2 ^ w = c := by rw [Nat.add_mul_mod_self_left, Nat.mod_eq_of_lt hc]
    have hdiv : (c + 2 ^ w * packCodes w cs) / 2 ^ w = packCodes w cs := by
      rw [Nat.add_mul_div_left _ _ (Nat.two_pow_pos w), Nat.div_eq_of_lt hc, Nat.zero_add]
    rw [packCodes, Nat.mod_eq_of_lt hc, List.length_cons, unpack, hmod, hdiv, hcs]

/-! Blocks of one length. -/

/-- Block i of n blocks of m entries each. -/
theorem take_drop_flatMap_range {α : Type} {f : Nat → List α} {m n i : Nat} (hf : ∀ i, (f i).length = m) (hi : i < n) (t : List α) :
    (((List.range n).flatMap f ++ t).drop (m * i)).take m = f i := by
  obtain ⟨d, rfl⟩ : ∃ d, n = i + (d + 1) := ⟨n - i - 1, by omega⟩
  have hlen : ((List.range i).flatMap f).length = m * i := by
    rw [List.length_flatMap, List.map_congr_left (fun i _ => hf i), List.map_const', List.sum_replicate_nat, List.length_range,
      Nat.mul_comm]
  rw [List.range_add, List.range_succ_eq_map, List.flatMap_append, List.append_assoc, List.drop_left' hlen]
  simp [List.take_left' (hf i)]

/-- A list cut into blocks of m is the blocks one after the other. -/
theorem flatMap_range_take_drop {α : Type} (m n : Nat) (xs : List α) :
    (List.range n).flatMap (fun i => (xs.drop (m * i)).take m) = xs.take (m * n) := by
  induction n with
  | zero => simp
  | succ n ih => simp [List.range_succ, ih, Nat.mul_succ, List.take_add]

/-! Records. -/

/-- Row i of a record is the 4w bytes from byte 4w i on, whatever the scale area holds. -/
theorem packRecord_row (fmt : Nat) (cs scales : List Nat) {i : Nat} (hi : i < 32) :
    ((packRecord fmt cs scales).drop (4 * fmtBits fmt * i)).take (4 * fmtBits fmt) =
      leBytes (4 * fmtBits fmt) (packCodes (fmtBits fmt) ((cs.drop (32 * i)).take 32)) :=
  take_drop_flatMap_range (fun _ => leBytes_length _ _) hi _

theorem packRecord_bit (fmt : Nat) (cs scales : List Nat) {i j b : Nat} (hi : i < 32) (hj : j < 32) (hb : b < fmtBits fmt) :
    ((packRecord fmt cs scales).getD ((fmtBits fmt * (32 * i + j) + b) / 8) 0).getLsbD ((fmtBits fmt * (32 * i + j) + b) % 8) =
      (cs.getD (32 * i + j) 0).testBit b := by
  have hrow := packRecord_row fmt cs scales hi
  generalize fmtBits fmt = w at hb hrow ⊢
  have hpos : w * (32 * i + j) + b = 8 * (4 * w * i) + (w * j + b) := by
    rw [Nat.mul_add, ← Nat.mul_assoc, Nat.mul_comm w 32, Nat.mul_assoc 32, Nat.mul_assoc 4]; omega
  have hin : w * j + b < 32 * w :=
    calc w * j + b < w * (j + 1) := by rw [Nat.mul_succ]; omega
      _ ≤ w * 32 := Nat.mul_le_mul_left _ hj
      _ = 32 * w := Nat.mul_comm _ _
  have hbyte : (w * j + b) / 8 < 4 * w := by omega
  calc _ = ((((packRecord fmt cs scales).drop (4 * w * i)).take (4 * w)).getD ((w * j + b) / 8) 0).getLsbD ((w * j + b) % 8) := by
        rw [hpos, Nat.mul_add_div (by decide), Nat.mul_add_mod]
        simp [hbyte]
    _ = (packCodes w ((cs.drop (32 * i)).take 32)).testBit (w * j + b) := by
        rw [hrow, leBytes_getLsbD _ hbyte (Nat.mod_lt _ (by decide)), Nat.div_add_mod]
    _ = (cs.getD (32 * i + j) 0).testBit b := by
        rw [packCodes_testBit _ _ hb]
        simp [hj]

/-- Reading a row's bytes gives its 32 codes. -/
theorem unpack_leBytes_packCodes {w : Nat} {row : List Nat} (hlen : row.length = 32) (hlt : ∀ c ∈ row, c < 2 ^ w) :
    unpack w 32 (leNat (leBytes (4 * w) (packCodes w row))) = row := by
  have hpow : 256 ^ (4 * w) = 2 ^ (w * row.length) := by
    rw [hlen, show 256 = 2 ^ 8 from rfl, ← Nat.pow_mul]; congr 1; omega
  rw [leNat_leBytes, hpow, Nat.mod_eq_of_lt (packCodes_lt w row), ← hlen, unpack_packCodes hlt]

theorem codes_packRecord {fmt : Nat} {cs : List Nat} (scales : List Nat) (hlen : cs.length = 1024)
    (hlt : ∀ c ∈ cs, c < 2 ^ fmtBits fmt) : codes fmt (packRecord fmt cs scales) = cs := by
  have hrow : ∀ i ∈ List.range 32, unpack (fmtBits fmt) 32
      (leNat (((packRecord fmt cs scales).drop (4 * fmtBits fmt * i)).take (4 * fmtBits fmt))) = (cs.drop (32 * i)).take 32 := by
    intro i hi
    have hi : i < 32 := List.mem_range.mp hi
    rw [packRecord_row fmt cs scales hi]
    exact unpack_leBytes_packCodes (by simp; omega) (fun c hc => hlt c (List.mem_of_mem_drop (List.mem_of_mem_take hc)))
  calc codes fmt (packRecord fmt cs scales) = (List.range 32).flatMap (fun i => (cs.drop (32 * i)).take 32) :=
        congrArg List.flatten (List.map_congr_left hrow)
    _ = cs := by rw [flatMap_range_take_drop, List.take_of_length_le (by omega)]

/-- Settles O59: a bit of an element lies in the row that is one slice of the record's bytes, and reading the rows back joins the
codes again. -/
theorem tileRecordsArePackedLittleEndian : Obligations.TileRecordsArePackedLittleEndian := by
  unfold Obligations.TileRecordsArePackedLittleEndian
  intro fmt cs scales _ hlen hlt
  exact ⟨fun i hi j hj b hb => packRecord_bit fmt cs scales hi hj hb, codes_packRecord scales hlen hlt⟩

end Sys2Proof.Machine
end

section
/-! The scale exponent of a block (R85): magnitudes compared at a common exponent, and across binades, and that the exponent one of two
neighbours is taken for is the least one. -/

namespace Sys2Proof.Machine

/-- Magnitudes compare as the integers they are at any common exponent that is not above either's. -/
theorem Val.absLt_fin_iff {d e f : Int} (a b : Bool) (m n : Nat) (he : d ≤ e) (hf : d ≤ f) :
    Val.absLt (.fin a m e) (.fin b n f) = true ↔ m * 2 ^ (e - d).toNat < n * 2 ^ (f - d).toNat := by
  have hsplit : ∀ i : Int, min e f ≤ i → (i - d).toNat = (i - min e f).toNat + (min e f - d).toNat := by omega
  rw [hsplit e (Int.min_le_left e f), hsplit f (Int.min_le_right e f), Nat.pow_add, Nat.pow_add, ← Nat.mul_assoc, ← Nat.mul_assoc,
    Nat.mul_lt_mul_right (Nat.two_pow_pos _)]
  exact decide_eq_true_iff

theorem Val.absLt_fin_asymm {a b : Bool} {m n : Nat} {e f : Int} (h : Val.absLt (.fin a m e) (.fin b n f) = true) :
    Val.absLt (.fin b n f) (.fin a m e) = false := by
  have hlt := (Val.absLt_fin_iff a b m n (Int.min_le_left e f) (Int.min_le_right e f)).mp h
  rw [Bool.eq_false_iff, Ne, Val.absLt_fin_iff b a n m (Int.min_le_right e f) (Int.min_le_left e f)]
  exact Nat.not_lt.mpr (Nat.le_of_lt hlt)

/-- A smaller exponent keeps a magnitude below what it was below. -/
theorem Val.absLt_fin_of_exp_le {a b : Bool} {m n : Nat} {e e' f : Int} (he : e' ≤ e)
    (h : Val.absLt (.fin a m e) (.fin b n f) = true) : Val.absLt (.fin a m e') (.fin b n f) = true := by
  have hmin : min e' f ≤ e := Int.le_trans (Int.min_le_left e' f) he
  have hlt := (Val.absLt_fin_iff a b m n hmin (Int.min_le_right e' f)).mp h
  have hpow : (2 : Nat) ^ (e' - min e' f).toNat ≤ 2 ^ (e - min e' f).toNat := Nat.pow_le_pow_right (by decide) (by omega)
  rw [Val.absLt_fin_iff a b m n (Int.min_le_left e' f) (Int.min_le_right e' f)]
  exact Nat.lt_of_le_of_lt (Nat.mul_le_mul_left m hpow) hlt

/-- A magnitude of a lower binade is below one of a higher binade. -/
theorem Val.absLt_fin_of_binade_lt (a b : Bool) (m : Nat) {n : Nat} {e f : Int} (hn : 0 < n) (h : e + log2 m < f + log2 n) :
    Val.absLt (.fin a m e) (.fin b n f) = true := by
  rw [Val.absLt_fin_iff a b m n (Int.min_le_left e f) (Int.min_le_right e f)]
  generalize hd : min e f = d
  have hexp : log2 m + 1 + (e - d).toNat ≤ log2 n + (f - d).toNat := by omega
  calc m * 2 ^ (e - d).toNat < 2 ^ (log2 m + 1) * 2 ^ (e - d).toNat :=
        (Nat.mul_lt_mul_right (Nat.two_pow_pos _)).mpr Nat.lt_log2_self
    _ = 2 ^ (log2 m + 1 + (e - d).toNat) := (Nat.pow_add ..).symm
    _ ≤ 2 ^ (log2 n + (f - d).toNat) := Nat.pow_le_pow_right (by decide) hexp
    _ = 2 ^ log2 n * 2 ^ (f - d).toNat := Nat.pow_add ..
    _ ≤ n * 2 ^ (f - d).toNat := Nat.mul_le_mul_right _ (Nat.log2_self_le (Nat.ne_of_gt hn))

theorem grid_maxN_pos (fmt : Nat) : 0 < (grid fmt).maxN := by
  unfold grid
  split <;> decide

/-- vmax × 2^e as a value. -/
theorem vmax_scale (fmt : Nat) (e : Int) : (vmax fmt).scale e = .fin false (grid fmt).maxN ((grid fmt).kmax + e) := rfl

/-- The exponent at which vmax × 2^e lies in the binade of m · 2^k. -/
def binadeExp (fmt m : Nat) (k : Int) : Int := k + log2 m - ((grid fmt).kmax + log2 (grid fmt).maxN)

/-- The exponent chosen is the one of the same binade, or the next. -/
theorem scaleExp_fin (fmt m : Nat) (sgn : Bool) (k : Int) :
    scaleExp fmt (.fin sgn m k) =
      if Val.absLt ((vmax fmt).scale (binadeExp fmt m k)) (.fin sgn m k) then binadeExp fmt m k + 1 else binadeExp fmt m k := rfl

/-- One binade up vmax × 2^e is not below any magnitude of the binade. -/
theorem not_absLt_vmax_scale_succ (fmt m : Nat) (sgn : Bool) (k : Int) :
    Val.absLt ((vmax fmt).scale (binadeExp fmt m k + 1)) (.fin sgn m k) = false := by
  rw [vmax_scale]
  refine Val.absLt_fin_asymm (Val.absLt_fin_of_binade_lt sgn false m (grid_maxN_pos fmt) ?_)
  unfold binadeExp
  omega

/-- Below the binade it is below every magnitude of the binade. -/
theorem absLt_vmax_scale_of_lt_binadeExp {fmt m : Nat} {k e : Int} (sgn : Bool) (hm : 0 < m) (he : e < binadeExp fmt m k) :
    Val.absLt ((vmax fmt).scale e) (.fin sgn m k) = true := by
  rw [vmax_scale]
  refine Val.absLt_fin_of_binade_lt false sgn _ hm ?_
  unfold binadeExp at he
  omega

theorem not_absLt_vmax_scale_scaleExp (fmt m : Nat) (sgn : Bool) (k : Int) :
    Val.absLt ((vmax fmt).scale (scaleExp fmt (.fin sgn m k))) (.fin sgn m k) = false := by
  rw [scaleExp_fin]
  split
  next => exact not_absLt_vmax_scale_succ fmt m sgn k
  next h => exact Bool.eq_false_iff.mpr h

theorem absLt_vmax_scale_of_lt_scaleExp {fmt m : Nat} {sgn : Bool} {k e : Int} (hm : 0 < m)
    (he : e < scaleExp fmt (.fin sgn m k)) : Val.absLt ((vmax fmt).scale e) (.fin sgn m k) = true := by
  rw [scaleExp_fin] at he
  split at he
  next h => exact Val.absLt_fin_of_exp_le (Int.add_le_add_left (Int.le_of_lt_add_one he) _) h
  next => exact absLt_vmax_scale_of_lt_binadeExp sgn hm he

theorem scaleCode_cast (e : Int) : (scaleCode e : Int) = clampInt 0 254 (127 + e) :=
  Int.toNat_of_nonneg (Int.le_max_left 0 _)

/-- Settles O58: of vmax × 2^e the exponent chosen is the first that reaches the value, since the one of the value's own binade or the
next does and the one before it does not. -/
theorem scaleExponentsAreLeast : Obligations.ScaleExponentsAreLeast := by
  unfold Obligations.ScaleExponentsAreLeast
  exact ⟨fun fmt m sgn k _ hm => ⟨not_absLt_vmax_scale_scaleExp fmt m sgn k, fun _ => absLt_vmax_scale_of_lt_scaleExp hm⟩,
    scaleCode_cast, by decide⟩

end Sys2Proof.Machine
end

section
/-! Where conversions and statistics land (R100, R126, R183, R188, R189): which of a croft's instructions a unit serves first, the
side lists a strip writes, and the slot of a statistics ring that the next record takes. -/

namespace Sys2Proof.Machine

/-! The order of service of the converter and the rotation unit (R126, R188). -/

theorem State.flight?_id {s : State} {id : Nat} {f : Flight} (h : s.flight? id = some f) : f.id = id :=
  eq_of_beq (List.find?_some (p := fun g : Flight => g.id == id) h)

/-- What the instructions of the croft that issued before a flight do. -/
def State.earlierOps (s : State) (f : Flight) : List FlightOp :=
  ((s.flights.takeWhile (fun g => g.id != f.id)).filter (fun g => g.ctx == f.ctx && g.croft == f.croft)).map (·.op)

theorem State.behind_iff (s : State) (f : Flight) (kind : FlightOp → Bool) :
    s.behind f kind = true ↔ ∃ op ∈ s.earlierOps f, kind op = true := by
  have hany : s.behind f kind = (s.earlierOps f).any kind := by
    simp only [State.behind, State.earlierOps, List.any_map, List.any_filter, Function.comp_def, Bool.and_assoc]
  rw [hany, List.any_eq_true]

theorem FlightOp.isConv_iff (op : FlightOp) : op.isConv = true ↔ ∃ q vs, op = .convert q vs := by
  cases op <;> simp [FlightOp.isConv]

theorem FlightOp.usesRotation_iff (op : FlightOp) :
    op.usesRotation = true ↔ (∃ v k m a b ss, op = .rotate v k m a b ss) ∨ ∃ q vs, op = .convert q vs ∧ q.rotate ≠ 0 := by
  cases op <;> simp [FlightOp.usesRotation, ConvPlan.rotates]

theorem Flight.isCvt_iff (f : Flight) :
    f.isCvt = true ↔ (∃ p src, f.op = .convert p src) ∧ ∀ a i, Res.set a i ∉ f.writes := by
  rw [Flight.isCvt, Bool.and_eq_true, FlightOp.isConv_iff, Bool.not_eq_true', ← Bool.not_eq_true, List.any_eq_true]
  refine and_congr_right (fun _ => ⟨fun h a i hr => h ⟨_, hr, rfl⟩, ?_⟩)
  rintro h ⟨r, hr, hset⟩
  cases r with
  | set a i => exact h a i hr
  | _ => exact absurd hset Bool.false_ne_true

/-- A conversion's turn has come: every earlier conversion is done and, when it rotates, every earlier ROT. -/
def State.converterServes (s : State) (f : Flight) (p : ConvPlan) : Prop :=
  (∀ q vs, FlightOp.convert q vs ∉ s.earlierOps f) ∧
    (p.rotate ≠ 0 → ∀ v k m a b ss, FlightOp.rotate v k m a b ss ∉ s.earlierOps f)

/-- Once no conversion is before it, what stands before a rotating conversion in the rotation unit is a ROT. -/
theorem State.not_behind_iff_converterServes (s : State) (f : Flight) (p : ConvPlan) :
    ¬ (s.behind f FlightOp.isConv = true ∨ (p.rotates = true ∧ s.behind f FlightOp.usesRotation = true)) ↔
      s.converterServes f p := by
  simp only [State.behind_iff, FlightOp.isConv_iff, FlightOp.usesRotation_iff, ConvPlan.rotates, bne_iff_ne, State.converterServes]
  constructor
  · intro h
    exact ⟨fun q vs hq => h (.inl ⟨_, hq, q, vs, rfl⟩),
      fun hp v k m a b ss hr => h (.inr ⟨hp, _, hr, .inl ⟨v, k, m, a, b, ss, rfl⟩⟩)⟩
  · rintro ⟨hconv, hrot⟩ (⟨_, hq, q, vs, rfl⟩ | ⟨hp, _, hr, ⟨v, k, m, a, b, ss, rfl⟩ | ⟨q, vs, rfl, _⟩⟩)
    · exact hconv q vs hq
    · exact hrot hp v k m a b ss hr
    · exact hconv q vs hr

/-! What a conversion writes (R72, R183). -/

theorem Croft.stat_putTiles (x : Croft) (t n : Nat) (rs : List (List Byte)) : (x.putTiles t rs).stat n = x.stat n := by
  induction rs generalizing x t with
  | nil => rfl
  | cons r rs ih => exact ih (x.putTile t r) (t + 1)

theorem Memory.readBytes_congr {m n : Memory} {a len : Nat} (h : ∀ i < len, Memory.read m (a + i) = Memory.read n (a + i)) :
    Memory.readBytes m a len = Memory.readBytes n a len := by
  induction len generalizing a with
  | zero => rfl
  | succ len ih =>
    have htail := ih (a := a + 1) (fun i hi => by simpa [Nat.add_assoc, Nat.add_comm 1 i] using h (i + 1) (by omega))
    rw [Memory.readBytes, Memory.readBytes, htail, show Memory.read m a = Memory.read n a from h 0 (by omega)]

/-- Side lists of 256 bytes lie one after the other, and nothing else is written. -/
theorem read_putSides_outside {os : List TileOut} (hlen : ∀ o ∈ os, o.side.length = 256) (m : Memory) {a b : Nat}
    (h : b < a ∨ a + 256 * os.length ≤ b) : Memory.read (putSides m a os) b = Memory.read m b := by
  induction os generalizing m a with
  | nil => rfl
  | cons o os ih =>
    have ho : o.side.length = 256 := hlen o (by simp)
    simp only [List.length_cons] at h
    rw [putSides, ih (fun o ho => hlen o (List.mem_cons_of_mem _ ho)) _ (by omega), Memory.read_writeBytes_out _ _ _ (by omega)]

theorem readBytes_putSides {os : List TileOut} (hlen : ∀ o ∈ os, o.side.length = 256) (m : Memory) (a : Nat) {t : Nat}
    (ht : t < os.length) : Memory.readBytes (putSides m a os) (a + 256 * t) 256 = (os.map (·.side)).getD t [] := by
  induction os generalizing m a t with
  | nil => exact absurd ht (Nat.not_lt_zero t)
  | cons o os ih =>
    have ho : o.side.length = 256 := hlen o (by simp)
    have hos : ∀ o ∈ os, o.side.length = 256 := fun o ho => hlen o (List.mem_cons_of_mem _ ho)
    cases t with
    | zero =>
      calc Memory.readBytes (putSides m a (o :: os)) a 256 = Memory.readBytes (Memory.writeBytes m a o.side) a o.side.length := by
            rw [ho]
            exact Memory.readBytes_congr (fun i hi => read_putSides_outside hos _ (.inl (by omega)))
        _ = o.side := Memory.readBytes_writeBytes m a o.side
    | succ t =>
      rw [show a + 256 * (t + 1) = a + 256 + 256 * t by omega]
      exact ih hos _ _ (by simpa using ht)

@[simp] theorem State.setCroftOf_mem (s : State) (c l : Nat) (x : Croft) : (s.setCroftOf c l x).mem = s.mem := by
  obtain ⟨k, a, h⟩ := s.setCroftOf_fields c l x
  rw [h]

/-- The croft after a conversion: the tile records and the counts. -/
def Croft.landConversion (x : Croft) (p : ConvPlan) (src : List (List Val)) : Croft :=
  (x.putTiles p.dst ((convertStrip p src).1.map (·.record))).putStat p.sta ((x.stat p.sta).add (convertStrip p src).2)

section
variable {s : State} {id : Nat} {f : Flight} {p : ConvPlan} {src : List (List Val)}

theorem exec_conversionComplete_of_not_serves (hf : s.flight? id = some f) (hop : f.op = .convert p src)
    (h : ¬ s.converterServes f p) : exec (.conversionComplete id) s = .next s := by
  have hbehind := Decidable.not_not.mp (mt (s.not_behind_iff_converterServes f p).mp h)
  show execConversionComplete id s = _
  simp only [execConversionComplete, hf, hop, if_pos hbehind]

theorem exec_conversionComplete_without_side (hf : s.flight? id = some f) (hop : f.op = .convert p src)
    (h : s.converterServes f p) (hside : p.sideAddr = none) :
    exec (.conversionComplete id) s =
      .next ((s.setCroftOf f.ctx f.croft ((s.croftOf f.ctx f.croft).landConversion p src)).complete f
        (if p.flag then 0x20 else 0)) := by
  show execConversionComplete id s = _
  simp only [execConversionComplete, hf, hop, if_neg ((s.not_behind_iff_converterServes f p).mpr h), hside, Croft.stat_putTiles,
    Croft.landConversion, stNumeric, stOk]

theorem exec_conversionComplete_with_side (hf : s.flight? id = some f) (hop : f.op = .convert p src)
    (h : s.converterServes f p) {a : Nat} (hside : p.sideAddr = some a) :
    exec (.conversionComplete id) s =
      .next (State.complete { s.setCroftOf f.ctx f.croft ((s.croftOf f.ctx f.croft).landConversion p src) with
        mem := putSides s.mem a (convertStrip p src).1 } f (if p.flag then 0x20 else 0)) := by
  show execConversionComplete id s = _
  simp only [execConversionComplete, hf, hop, if_neg ((s.not_behind_iff_converterServes f p).mpr h), hside, Croft.stat_putTiles,
    State.setCroftOf_mem, Croft.landConversion, stNumeric, stOk]

end

/-! STAT (R100, R189). -/

theorem exec_stat_of_ready {c : CroftId} {st : Strm} {w : Word} {s : State}
    (hr : s.ready c st 8 { reads := [.stat (bits w 50 48)], writes := [.stat (bits w 50 48)], units := [.statPath] } = true)
    (he : s.entryOpen c st = true) (hcvt : ∀ f ∈ s.ownFlights c st, f.isCvt = false) :
    exec (.stat c st w) s = .next (s.issue c st 8
      { reads := [.stat (bits w 50 48)], writes := [.stat (bits w 50 48)], units := [.statPath] }
      (.stat (bits w 50 48) (bits w 15 0) (s.strm c st).step (s.entry c st).attempt) 0 0 none false) := by
  have hown : (s.ownFlights c st).any Flight.isCvt = false := List.any_eq_false.mpr (fun f hf => by simp [hcvt f hf])
  show execStat c st w s = _
  simp [execStat, shortForm, hr, he, hown]

theorem exec_stat_of_conversion_before {c : CroftId} {st : Strm} {w : Word} {s : State} {f : Flight}
    (hf : f ∈ s.ownFlights c st) (hcvt : f.isCvt = true) : exec (.stat c st w) s = .next s := by
  have hown : (s.ownFlights c st).any Flight.isCvt = true := List.any_eq_true.mpr ⟨f, hf, hcvt⟩
  show execStat c st w s = _
  simp [execStat, shortForm, hown]

/-! The slot of a statistics ring that the next record takes (R401; log entry 14). -/

theorem freeSlotFrom_spec (n : Nat) (t : Table StatRec) {k : Nat} (hk : k < ringMax) :
    ∃ i ≤ n, freeSlotFrom n t k = (k + i) % ringMax ∧ (∀ j < i, Table.has t ((k + j) % ringMax) = true) ∧
      (i < n → Table.has t ((k + i) % ringMax) = false) := by
  induction n generalizing k with
  | zero => exact ⟨0, Nat.le_refl 0, (Nat.mod_eq_of_lt hk).symm, by omega, by omega⟩
  | succ n ih =>
    cases hhas : Table.has t k with
    | false =>
      refine ⟨0, by omega, ?_, by omega, fun _ => ?_⟩
      · simp [freeSlotFrom, hhas, Nat.mod_eq_of_lt hk]
      · simpa [Nat.mod_eq_of_lt hk] using hhas
    | true =>
      obtain ⟨i, hi, heq, hbefore, hfree⟩ := ih (Nat.mod_lt (k + 1) (by decide : 0 < ringMax))
      have hshift : ∀ j, ((k + 1) % ringMax + j) % ringMax = (k + (j + 1)) % ringMax := by
        intro j; rw [Nat.mod_add_mod, Nat.add_assoc, Nat.add_comm 1 j]
      refine ⟨i + 1, by omega, ?_, fun j hj => ?_, fun h => ?_⟩
      · rw [freeSlotFrom, if_pos hhas, heq, hshift]
      · cases j with
        | zero => simpa [Nat.mod_eq_of_lt hk] using hhas
        | succ j => rw [← hshift]; exact hbefore j (by omega)
      · rw [← hshift]; exact hfree (by omega)

/-- A list that holds n different numbers has n entries. -/
theorem le_length_of_injective {n : Nat} {g : Nat → Nat} {l : List Nat} (hinj : ∀ i < n, ∀ j < n, g i = g j → i = j)
    (hmem : ∀ i < n, g i ∈ l) : n ≤ l.length := by
  induction n generalizing l with
  | zero => exact Nat.zero_le _
  | succ n ih =>
    have hlast : g n ∈ l := hmem n (by omega)
    have hrest : n ≤ (l.erase (g n)).length := by
      refine ih (fun i hi j hj => hinj i (by omega) j (by omega)) (fun i hi => ?_)
      have hne : g i ≠ g n := fun heq => absurd (hinj i (by omega) n (by omega) heq) (by omega)
      exact (List.mem_erase_of_ne hne).mpr (hmem i (by omega))
    have hpos := List.length_pos_of_mem hlast
    rw [List.length_erase_of_mem hlast] at hrest
    omega

/-- Slots in a row that are all taken are no more than the records. -/
theorem le_length_of_taken {t : Table StatRec} {n k : Nat} (hn : n ≤ ringMax)
    (h : ∀ j < n, Table.has t ((k + j) % ringMax) = true) : n ≤ t.length := by
  have hinj : ∀ i < n, ∀ j < n, (k + i) % ringMax = (k + j) % ringMax → i = j := by
    intro i hi j hj heq
    unfold ringMax at hn heq
    omega
  have hmem : ∀ j < n, (k + j) % ringMax ∈ t.map (·.1) := by
    intro j hj
    obtain ⟨e, he, heq⟩ := List.any_eq_true.mp (h j hj)
    exact List.mem_map.mpr ⟨e, he, eq_of_beq heq⟩
  have hlen := le_length_of_injective hinj hmem
  rwa [List.length_map] at hlen

/-- Where the search for a slot begins: after the newest record. -/
def ringStart (t : Table StatRec) : Nat := match t.getLast? with | some e => (e.1 + 1) % ringMax | none => 0

/-- The slot the next record takes. -/
def ringSlot (t : Table StatRec) : Nat := freeSlotFrom (t.length + 1) t (ringStart t)

theorem ringPut_eq (t : Table StatRec) (r : StatRec) : ringPut t r = t ++ [(ringSlot t, r)] := rfl

theorem ringStart_lt (t : Table StatRec) : ringStart t < ringMax := by
  unfold ringStart
  split
  · exact Nat.mod_lt _ (by decide)
  · decide

/-- In a ring with room the search ends at a free slot, and every slot it passed is taken. -/
theorem ringSlot_spec {t : Table StatRec} (h : t.length < ringMax) :
    ∃ i < ringMax, ringSlot t = (ringStart t + i) % ringMax ∧ Table.has t (ringSlot t) = false ∧
      ∀ j < i, Table.has t ((ringStart t + j) % ringMax) = true := by
  obtain ⟨i, hi, heq, hbefore, hfree⟩ := freeSlotFrom_spec (t.length + 1) t (ringStart_lt t)
  have hlen : i ≤ t.length := le_length_of_taken (by omega) hbefore
  have heq : ringSlot t = (ringStart t + i) % ringMax := heq
  exact ⟨i, by omega, heq, by rw [heq]; exact hfree (by omega), hbefore⟩

theorem ringSlot_lt {t : Table StatRec} (h : t.length < ringMax) : ringSlot t < ringMax := by
  obtain ⟨i, -, heq, -⟩ := ringSlot_spec h
  rw [heq]
  exact Nat.mod_lt _ (by decide)

theorem has_ringSlot {t : Table StatRec} (h : t.length < ringMax) : Table.has t (ringSlot t) = false := by
  obtain ⟨-, -, -, hfree, -⟩ := ringSlot_spec h
  exact hfree

theorem ringSlot_nil : ringSlot [] = 0 := rfl

/-- The slots between the newest record's and the one the next takes are taken. -/
theorem has_before_ringSlot {t : Table StatRec} (h : t.length < ringMax) {e : Nat × StatRec} (he : t.getLast? = some e) {i : Nat}
    (hi : i < (ringSlot t + ringMax - (e.1 + 1)) % ringMax) (hlt : e.1 < ringMax) :
    Table.has t ((e.1 + 1 + i) % ringMax) = true := by
  have hstart : ringStart t = (e.1 + 1) % ringMax := by rw [ringStart, he]
  obtain ⟨n, hn, heq, -, hbefore⟩ := ringSlot_spec h
  have hcount : (ringSlot t + ringMax - (e.1 + 1)) % ringMax = n := by
    rw [heq, hstart]
    unfold ringMax at *
    omega
  simpa [hstart] using hbefore i (by omega)

/-! STAT_RING_WRITE (R100, R189). -/

/-- A context with a record more in the ring of a die, of which FP5 has taken it for its step. -/
def Ctx.takeRecord (k : Ctx) (croft step att : Nat) (slot : Nat) (r : StatRec) : Ctx :=
  { k with rings := if croft < 144 then (k.rings.1 ++ [(slot, r)], k.rings.2)
      else (k.rings.1, k.rings.2 ++ [(slot, r)]) }.modStep step
    (fun h => if h.attempt % 4 = att then { h with records := h.records ++ [r] } else h)

section
variable {s : State} {id : Nat} {f : Flight} {sta seq n att : Nat}

/-- The ring of the die a croft is on. -/
def Ctx.ringOf (k : Ctx) (croft : Nat) : Table StatRec := if croft < 144 then k.rings.1 else k.rings.2

theorem exec_statRingWrite_of_full (hf : s.flight? id = some f) (hop : f.op = .stat sta seq n att)
    (h : ringMax ≤ ((s.ctx f.ctx).ringOf f.croft).length) : exec (.statRingWrite id) s = .next s := by
  have h : ringMax ≤ (if f.croft < 144 then (s.ctx f.ctx).rings.1 else (s.ctx f.ctx).rings.2).length := h
  show execStatRingWrite id s = _
  simp only [execStatRingWrite, hf, hop, if_pos h]

theorem exec_statRingWrite_of_room (hf : s.flight? id = some f) (hop : f.op = .stat sta seq n att)
    (h : ((s.ctx f.ctx).ringOf f.croft).length < ringMax) :
    exec (.statRingWrite id) s =
      let x := s.croftOf f.ctx f.croft
      let slot := ringSlot ((s.ctx f.ctx).ringOf f.croft)
      .next ((((s.setCtx f.ctx ((s.ctx f.ctx).takeRecord f.croft n att slot (statRecord (x.stat sta) n f.croft seq att))).setCroftOf
        f.ctx f.croft (x.putStat sta {})).unpoke (statRing f.ctx (f.croft / 144) + 64 * slot) 64).complete f 0) := by
  have hroom : ¬ ringMax ≤ (if f.croft < 144 then (s.ctx f.ctx).rings.1 else (s.ctx f.ctx).rings.2).length := Nat.not_le.mpr h
  show execStatRingWrite id s = _
  simp only [execStatRingWrite, hf, hop, if_neg hroom, Ctx.takeRecord, Ctx.ringOf, ringPut_eq, Ctx.modStep]
  by_cases hdie : f.croft < 144 <;> simp [hdie, stOk]

end

/-- Settles O14: a conversion by its turn in the two units and the side lists one after the other, STAT by what a CVT is, and its
record by the slot at which the search through a ring with room ends. -/
theorem conversionsAndStatisticsLand : Obligations.ConversionsAndStatisticsLand := by
  unfold Obligations.ConversionsAndStatisticsLand
  refine ⟨fun id f s p src hf hop => ?conversion, fun c st w s => ⟨fun hr he hdrain => ?issue, ?wait⟩,
    fun id f s sta seq n att hf hop => ⟨fun hroom hkeys => ?room, exec_statRingWrite_of_full hf hop⟩⟩
  case conversion =>
    obtain rfl := State.flight?_id hf
    exact ⟨exec_conversionComplete_of_not_serves hf hop, exec_conversionComplete_without_side hf hop, fun h a hside =>
      ⟨_, exec_conversionComplete_with_side hf hop h hside, fun hlen =>
        ⟨fun b => read_putSides_outside hlen s.mem, fun t => readBytes_putSides hlen s.mem a⟩⟩⟩
  case issue =>
    refine exec_stat_of_ready hr he (fun f hf => ?_)
    rw [Bool.eq_false_iff, Ne, f.isCvt_iff]
    rintro ⟨⟨p, src, hop⟩, hnone⟩
    obtain ⟨a, i, hset⟩ := hdrain f hf p src hop
    exact hnone a i hset
  case wait =>
    rintro ⟨f, hf, p, src, hop, hnone⟩
    exact exec_stat_of_conversion_before hf (f.isCvt_iff.mpr ⟨⟨p, src, hop⟩, hnone⟩)
  case room =>
    exact ⟨_, ringSlot_lt hroom, has_ringSlot hroom, fun hnil => by rw [hnil]; exact ringSlot_nil,
      fun e he i hi => has_before_ringSlot hroom he hi (hkeys e (List.mem_of_getLast? he)),
      exec_statRingWrite_of_room hf hop hroom⟩

end Sys2Proof.Machine
end

section
/-! ROT and the results of the vector unit (R151, R187, R188, R191, R196): when the rotation unit serves a ROT, and what a vector
instruction writes to a tile register or a set. -/

namespace Sys2Proof.Machine

/-! Tile registers and sizes that a word names (R10, R140, R187). -/

theorem bits_mod_two_pow {n : Nat} (w : BitVec n) {hi lo k : Nat} (h : k ≤ hi + 1 - lo) :
    bits w hi lo % 2 ^ k = (w.toNat >>> lo) % 2 ^ k :=
  Nat.mod_mod_of_dvd _ (Nat.pow_dvd_pow 2 h)

theorem tileNo_fSrc1 (w : Word) : tileNo (fSrc1 w) = bits w 38 32 := bits_mod_two_pow w (k := 7) (hi := 39) (by decide)

theorem tileNo_fDst (w : Word) : tileNo (fDst w) = bits w 46 40 := bits_mod_two_pow w (k := 7) (hi := 47) (by decide)

theorem le_clampTo (lo hi v : Nat) : lo ≤ clampTo lo hi v := Nat.le_max_left _ _

/-- A segment of n/32 tiles has n elements a row. -/
theorem two_pow_add_four {size : Nat} (h : 1 ≤ size) : 2 ^ (size + 4) = 32 * 2 ^ (size - 1) := by
  obtain ⟨k, rfl⟩ := Nat.exists_eq_add_of_le' h
  rw [Nat.add_sub_cancel, Nat.add_assoc, Nat.pow_add, Nat.mul_comm]

/-! ROT. -/

theorem exec_rot_of_ready {c : CroftId} {st : Strm} {w : Word} {s : State} :
    let size := clampTo 1 4 (bits w 54 52)
    let n := 2 ^ (size - 1)
    let src := firstOf 128 n (bits w 38 32)
    let dst := firstOf 128 n (bits w 46 40)
    let need : Need := { reads := sRes (bits w 31 24) ++ tileRes src n, writes := tileRes dst n, units := [.rotation] }
    s.ready c st 8 need = true → s.entryOpen c st = true →
    exec (.rot c st w) s = .next (s.issue c st 8 need (.rotate (bit w 55) (size + 4) (if bit w 51 then 9 else 8) src dst
      (rotSigns (s.ctx s.resident).seed (s.strm c st).step (bits ((s.strm c st).sreg (bits w 31 24)) 23 0) (32 * n))) 0 0 none
      false) := by
  intro size n src dst need hr he
  have hn : 32 * n = 2 ^ (size + 4) := (two_pow_add_four (le_clampTo 1 4 _)).symm
  show execRot c st w s = _
  rw [execRot, tileNo_fSrc1, tileNo_fDst, hn]
  exact congrArg Host.Outcome.next ((if_pos hr).trans (if_neg (by simp [he])))

/-- The rotation unit serves a ROT once no earlier ROT and no earlier rotating conversion of its croft is left. -/
theorem State.behind_usesRotation_eq_false_iff (s : State) (f : Flight) :
    s.behind f FlightOp.usesRotation = false ↔
      ∀ g ∈ s.flights.takeWhile (fun g => g.id != f.id), g.ctx = f.ctx → g.croft = f.croft →
        (∀ v k m a b ss, g.op ≠ .rotate v k m a b ss) ∧ (∀ q vs, g.op = .convert q vs → q.rotate = 0) := by
  have huse : ∀ op : FlightOp, op.usesRotation = false ↔
      (∀ v k m a b ss, op ≠ .rotate v k m a b ss) ∧ ∀ q vs, op = .convert q vs → q.rotate = 0 := by
    intro op
    rw [Bool.eq_false_iff, Ne, op.usesRotation_iff]
    simp only [not_or, not_exists, not_and, Ne, Classical.not_not]
  simp only [State.behind, List.any_eq_false, Bool.and_eq_true, beq_iff_eq, not_and, and_imp, Bool.not_eq_true, huse]

/-- With `size` the field of the word, a strip is of 2^(size − 1) tiles. -/
theorem Croft.rotated_add_four (x : Croft) (inverse : Bool) (size fmt src : Nat) (signs : List Bool) :
    x.rotated inverse (size + 4) fmt src signs =
      rotStrip inverse (size + 4) signs ((List.range (2 ^ (size - 1))).map (fun t => tileVals fmt 0 (x.tile (src + t)))) := by
  have hk : size + 4 - 5 = size - 1 := by omega
  unfold Croft.rotated Croft.tileValues
  rw [hk]

section
variable {s : State} {id : Nat} {f : Flight} {inverse : Bool} {k fmt src dst : Nat} {signs : List Bool}

theorem exec_rotationComplete_of_behind (hf : s.flight? id = some f) (hop : f.op = .rotate inverse k fmt src dst signs)
    (h : s.behind f FlightOp.usesRotation = true) : exec (.rotationComplete id) s = .next s := by
  show execRotationComplete id s = _
  simp only [execRotationComplete, hf, hop, if_pos h]

theorem exec_rotationComplete_of_first {out : List (List Val)} (hf : s.flight? id = some f)
    (hop : f.op = .rotate inverse k fmt src dst signs) (h : s.behind f FlightOp.usesRotation = false)
    (hout : (s.croftOf f.ctx f.croft).rotated inverse k fmt src signs = out) :
    exec (.rotationComplete id) s =
      .next ((s.setCroftOf f.ctx f.croft ((s.croftOf f.ctx f.croft).putTiles dst (out.map (tile16 fmt)))).complete f
        (if out.any (fun v => v.any Val.isNan) then 0x20 else 0)) := by
  show execRotationComplete id s = _
  simp [execRotationComplete, hf, hop, h, hout, stNumeric, stOk]

end

/-! What a vector instruction writes (R191, R196). -/

/-- Does one of the results set NUMERIC_FLAG: is it NaN, or saturated? -/
def vecFlag (rs : List (Nat × Bool × Bool)) : Bool := rs.any (fun r => r.2.1 || r.2.2)

theorem vecFlag_eq (rs : List (Nat × Bool × Bool)) : vecFlag rs = (rs.any (·.2.2) || rs.any (·.2.1)) := by
  induction rs with
  | nil => rfl
  | cons r rs ih =>
    rw [vecFlag] at ih
    simp only [vecFlag, List.any_cons, ih, Bool.or_assoc, Bool.or_comm, Bool.or_left_comm]

/-- VMOV of a tile copies its bytes, whatever they stand for (R196). -/
theorem Croft.vecApply_bytes (x : Croft) (fmt a n : Nat) :
    x.vecApply .bytes fmt [.tile a] (.tile n) = (x.putTile n (x.tile a), false) := rfl

/-- The block counter of a set that a vector function wrote: a widening starts it anew (R196). -/
def VecFn.countAfter (fn : VecFn) (own : Nat) : Nat := match fn with | .widen _ => 0 | _ => own

section
variable (x : Croft) (fmt : Nat) (srcs : List VecReg)

theorem Croft.vecApply_tile {fn : VecFn} (h : fn ≠ .bytes) (n : Nat) :
    x.vecApply fn fmt srcs (.tile n) =
      (x.putTile n (packRecord fmt ((x.vecResults fn fmt srcs).map (·.1)) []), vecFlag (x.vecResults fn fmt srcs)) := by
  rw [vecFlag_eq]
  cases fn with
  | bytes => exact absurd rfl h
  | _ => rfl

theorem Croft.vecApply_set {fn : VecFn} (h : fn ≠ .bytes) (a i : Nat) :
    x.vecApply fn fmt srcs (.set a i) =
      (x.putArray a ((x.array a).putSet i
        { totals := trimCells ((x.vecResults fn fmt srcs).map (fun r => BitVec.ofNat 40 r.1))
          ovf := (x.vecResults fn fmt srcs).any (·.2.2) || x.vecOvf fn srcs ((x.array a).set i).ovf
          count := fn.countAfter ((x.array a).set i).count }),
        vecFlag (x.vecResults fn fmt srcs)) := by
  rw [vecFlag_eq]
  cases fn with
  | bytes => exact absurd rfl h
  | _ => rfl

end

theorem exec_vectorComplete_eq {s : State} {id : Nat} {f : Flight} {fn : VecFn} {fmt : Nat} {srcs : List VecReg} {dst : VecReg}
    {x : Croft} {flag : Bool} (hf : s.flight? id = some f) (hop : f.op = .vector fn fmt srcs dst)
    (hr : (s.croftOf f.ctx f.croft).vecApply fn fmt srcs dst = (x, flag)) :
    exec (.vectorComplete id) s = .next ((s.setCroftOf f.ctx f.croft x).complete f (if flag then 0x20 else 0)) := by
  show execVectorComplete id s = _
  simp only [execVectorComplete, hf, hop, hr, stNumeric, stOk]

/-- Settles O17: a ROT by the signs of n and its turn in the rotation unit, a vector instruction by what it writes to a tile and to a
set. -/
theorem rotationAndResultsLand : Obligations.RotationAndResultsLand := by
  unfold Obligations.RotationAndResultsLand
  refine ⟨fun c st w s => exec_rot_of_ready, fun id f s inverse size fmt src dst signs hf hop _ => ?rotation,
    fun id f s fn fmt srcs hf => ⟨fun n hop hfn => ?tile, fun n a hop => ?bytes, fun a i hop hfn => ?set⟩⟩
  case rotation =>
    obtain rfl := State.flight?_id hf
    intro x out first
    rw [show first ↔ _ from (s.behind_usesRotation_eq_false_iff f).symm, Bool.not_eq_false]
    exact ⟨fun h => exec_rotationComplete_of_first hf hop h (x.rotated_add_four ..), exec_rotationComplete_of_behind hf hop⟩
  case tile => exact exec_vectorComplete_eq hf hop (Croft.vecApply_tile _ fmt srcs hfn n)
  case bytes => exact exec_vectorComplete_eq hf hop (Croft.vecApply_bytes _ fmt a n)
  case set => exact exec_vectorComplete_eq hf hop (Croft.vecApply_set _ fmt srcs hfn a i)

end Sys2Proof.Machine
end

section
/-! One step of the block, and the commands of a session's mailbox (R237, R248, R254, R364, R367, R385, R465): what a served command does,
which STATUS a SUBMIT has, and what each of CLOSE, LAUNCH, SWITCH, SUBMIT and SEM_ADD does once the mailbox takes it. -/

namespace Sys2Proof.Machine

/-! One step. -/

theorem step_of_cons {s : State} {c : Instr} {rest : List Instr} (h : s.pending = c :: rest) :
    step s = exec c { s with pending := rest } := by
  unfold step
  rw [h]

theorem step_of_nil {s : State} (h : s.pending = []) : step s = .next s.portTick := by
  unfold step
  rw [h]

/-- Settles O1: the front command by the queue's form, and the ports' turn by the fields a tick can write. -/
theorem stepRunsTheFrontCommand : Obligations.StepRunsTheFrontCommand := by
  unfold Obligations.StepRunsTheFrontCommand
  refine ⟨fun c rest s => step_of_cons, fun s h => ?_⟩
  obtain ⟨w, o, htick⟩ := s.portTick_fields
  exact ⟨w, o, htick, step_of_nil h⟩

/-! A served command (R464). -/

@[simp] theorem State.up_taken (s : State) (c q k : Nat) : (s.taken c q).up k = s.up k := by simp [State.taken]

/-- A command for every session acts and answers. -/
theorem State.serve_any (s : State) (c q : Nat) (act : State → Reply') :
    s.serve c q false act = (act s).1.finish c q (act s).2 := if_neg (by simp)

/-- C0's session may give every command. -/
theorem State.serve_zero (s : State) (q : Nat) (c0 : Bool) (act : State → Reply') :
    s.serve 0 q c0 act = (act s).1.finish 0 q (act s).2 := if_neg (by simp)

section
variable {c : CtxId} {q : Nat} {s : State}

/-! CLOSE. -/

theorem exec_closeDetach_of_takes (h : s.takes c 1) :
    exec (.closeDetach c q) s = .next (((s.taken c q).detach c).finish c q (mbOk, [])) := by
  show execCloseDetach c q s = _
  rw [execCloseDetach, s.offer_eq _ _ _ _ _ h, doCloseDetach, State.serve_any]

theorem exec_closeRelease_of_takes (h : s.takes c 1) :
    exec (.closeRelease c q) s =
      .next (if c.val = 0 then (s.taken c q).finish c q (mbBadState, [])
        else ((s.taken c q).releaseCtx c false).finish c q (mbOk, [])) := by
  show execCloseRelease c q s = _
  rw [execCloseRelease, s.offer_eq _ _ _ _ _ h, doCloseRelease, State.serve_any]
  split <;> rfl

/-! LAUNCH (R385). -/

theorem exec_launch_of_takes (h : s.takes c 3) : exec (.launch c q) s = .next (doLaunch c q (s.taken c q)) := by
  show execLaunch c q s = _
  rw [execLaunch, s.offer_eq _ _ _ _ _ h]

theorem doLaunch_of_fp5_down (h : s.up 5 = false) : doLaunch c q s = s.hold 5 (.launch c q) := by
  simp [doLaunch, h]

theorem doLaunch_of_ready (h5 : s.up 5 = true) (ha : s.anyActive c = false) (hu : (s.ctx c).uncommitted ≠ []) :
    doLaunch c q s = (s.launchCtx c).finish c q (mbOk, []) := by
  simp [doLaunch, State.serve_any, h5, ha, hu]

theorem doLaunch_of_refused (h5 : s.up 5 = true) (h : s.anyActive c = true ∨ (s.ctx c).uncommitted = []) :
    doLaunch c q s = s.finish c q (mbBadState, []) := by
  simp [doLaunch, State.serve_any, h5, h]

/-! SWITCH (R248). -/

theorem exec_switch_of_takes (d b : Nat) (h : s.takes 0 1) :
    exec (.switch 0 q d b) s = .next (doSwitch 0 q d b (s.taken 0 q)) := by
  show execSwitch 0 q d b s = _
  exact congrArg Host.Outcome.next (s.offer_eq 0 q 1 _ _ h)

theorem doSwitch_of_exist {d : Nat} (b : Nat) (h : (s.ctx (min 15 (d % 256))).exist = true) :
    doSwitch 0 q d b s = (s.schedule (min 15 (d % 256)) b).finish 0 q (mbOk, []) := by
  simp [doSwitch, State.serve_zero, h]

theorem doSwitch_of_not_exist {d : Nat} (b : Nat) (h : (s.ctx (min 15 (d % 256))).exist = false) :
    doSwitch 0 q d b s = s.finish 0 q (mbBadState, []) := by
  simp [doSwitch, State.serve_zero, h]

/-! SUBMIT (R364, R367). -/

/-- The held steps are at most four, the batches lie in the context's Ledger region, and several descriptors need MULTISUB. -/
def Ctx.fits (x : Ctx) (ds : List StepDesc) : Prop :=
  x.steps.length + ds.length ≤ 4 ∧ x.regionGib ≠ 0 ∧ (∀ d ∈ ds, x.inRegion d = true) ∧ (x.feat 5 = true ∨ ds.length ≤ 1)

section
variable {x : Ctx} {ds : List StepDesc}

theorem Ctx.submitStatus_of_not_follow (h : stepsFollow x.lastSub ds = false ∨ x.parked = true) :
    x.submitStatus ds = mbBadState := if_pos (by simpa using h)

theorem Ctx.submitStatus_of_follow (hf : stepsFollow x.lastSub ds = true) (hp : x.parked = false) :
    (x.fits ds → x.submitStatus ds = mbOk) ∧ (¬ x.fits ds → x.submitStatus ds = mbNoResource) := by
  have hfits : x.fits ds ↔ ¬ (heldMax < x.steps.length + ds.length ∨ x.regionGib = 0 ∨ (!ds.all x.inRegion) = true ∨
      (!x.feat 5) = true ∧ 1 < ds.length) := by
    simp [Ctx.fits, heldMax, Classical.or_iff_not_imp_left]
  have hrest : ¬ ((!stepsFollow x.lastSub ds) = true ∨ x.parked = true) := by simp [hf, hp]
  rw [hfits, Classical.not_not, Ctx.submitStatus, if_neg hrest]
  exact ⟨fun h => if_neg h, fun h => if_pos h⟩

end

theorem exec_submit_of_takes {descs : List StepDesc} (h : s.takes c 3) (hlen : descs.length ≤ 3) {k : Nat}
    (hk : ((s.taken c q).ctx c).submitStatus (descs.map StepDesc.clamped) = k) :
    exec (.submit c q descs) s = .next
      (if k = mbOk then ((s.taken c q).holdSteps c (descs.map StepDesc.clamped)).finish c q (mbOk, [])
        else (s.taken c q).finish c q (k, [])) := by
  show execSubmit c q descs s = _
  rw [execSubmit, s.offer_eq _ _ _ _ _ h, doSubmit, State.serve_any, List.take_of_length_le hlen]
  dsimp only
  rw [hk]
  split <;> rfl

/-! SEM_ADD (R254, R264). -/

theorem exec_semAdd_of_takes (a : Nat) (n : BitVec 32) (h : s.takes c 1) :
    exec (.semAdd c q a n) s = .next (((s.taken c q).change c (a % 2 ^ 24) n.toInt none).finish c q (mbOk, [])) := by
  show execSemAdd c q a n s = _
  rw [execSemAdd, s.offer_eq _ _ _ _ _ h, doSemAdd, State.serve_any]

end

/-- Settles O37: each command by what its work does to the state that FP1 took it on, SUBMIT by its STATUS. -/
theorem sessionCommands : Obligations.SessionCommands := by
  unfold Obligations.SessionCommands
  refine ⟨fun c q s h => ⟨exec_closeDetach_of_takes h, fun h0 => ?zero, fun h0 => ?release⟩,
    fun c q s h => ?launch, fun q d b s h => ?switch, fun c q descs s h hlen => ?submit,
    fun c q a n s => exec_semAdd_of_takes a n⟩
  case zero => rw [exec_closeRelease_of_takes h, if_pos h0]; rfl
  case release => rw [exec_closeRelease_of_takes h, if_neg h0]; rfl
  case launch =>
    rw [exec_launch_of_takes h, ← s.up_taken c q]
    exact ⟨fun h5 ha hu => congrArg _ (doLaunch_of_ready h5 ha hu), fun h5 hr => congrArg _ (doLaunch_of_refused h5 hr),
      fun h5 => congrArg _ (doLaunch_of_fp5_down h5)⟩
  case switch =>
    rw [exec_switch_of_takes d b h]
    exact ⟨fun he => congrArg _ (doSwitch_of_exist b he), fun he => congrArg _ (doSwitch_of_not_exist b he)⟩
  case submit =>
    intro t x ds fits
    exact ⟨fun hr => exec_submit_of_takes h hlen (Ctx.submitStatus_of_not_follow hr),
      fun hf hp hn => exec_submit_of_takes h hlen ((Ctx.submitStatus_of_follow hf hp).2 hn),
      fun hf hp hy => exec_submit_of_takes h hlen ((Ctx.submitStatus_of_follow hf hp).1 hy)⟩

end Sys2Proof.Machine
end

section
/-! The module after reset (R252, R264, R284, R403, R459, R526): what each table of the state reads when it lists nothing, and C0, which is
listed. -/

namespace Sys2Proof.Machine

@[simp] theorem State.ctx_reset (c : Nat) : State.reset.ctx c = if c = 0 then Ctx.system else {} := by
  simp only [State.ctx, State.reset, Table.get, eq_comm]

@[simp] theorem State.strm_reset (l : Nat) (t : Strm) : State.reset.strm l t = {} := by cases t <;> rfl

/-- Only C0 exists (R459). -/
theorem State.contexts_reset : State.reset.contexts = [0] := by decide

/-- C0's region is the low end of die 0's Ledger pool (R403). -/
theorem State.region_reset : (State.reset.ctx 0).region = State.reset.poolBase 0 := by decide

@[simp] theorem Stream.sreg_reset (n : Nat) : ({} : Stream).sreg n = 0 := by simp [Stream.sreg]

/-- Before the firmware runs an empty bank reads 0 (R252). -/
theorem Tally.count_reset (a : Nat) : ({} : Tally).count a = 0 := rfl

/-- A count is in its bank, or in the save image of a context, and both are empty. -/
theorem State.semCount_reset (c a : Nat) : State.reset.semCount c a = 0 := by
  have himage : (State.reset.ctx c).image = [] := by rw [State.ctx_reset]; split <;> rfl
  rw [State.semCount, himage]
  split
  · exact Tally.count_reset a
  · rfl

/-- No context has a session, a feature in use, or a step. -/
theorem State.ctx_reset_idle (c : Nat) :
    (State.reset.ctx c).ses.state = .none ∧ (State.reset.ctx c).featActive = 0 ∧ (State.reset.ctx c).steps = [] := by
  rw [State.ctx_reset]
  split <;> exact ⟨rfl, rfl, rfl⟩

theorem State.strm_reset_idle (l : Nat) (t : Strm) (n : Nat) :
    (State.reset.strm l t).run = .idle ∧ (State.reset.strm l t).status = 0 ∧ (State.reset.strm l t).pc = 0 ∧
      (State.reset.strm l t).sreg n = 0 ∧ (State.reset.strm l t).preg n = 0 := by
  rw [State.strm_reset]
  exact ⟨rfl, rfl, rfl, Stream.sreg_reset n, rfl⟩

theorem State.memOk_reset : State.reset.memOk := ⟨rfl, by simp [State.reset]⟩

/-- Settles O57: the tables of the state by what they read when empty, C0 by its own entry, the rest by the reset state's fields. -/
theorem resetLeavesTheModule : Obligations.ResetLeavesTheModule := by
  unfold Obligations.ResetLeavesTheModule
  intro s
  have hpool : s.pool = 8 := by decide
  have hlease : ((s.ctx 0).reg 0x004).toNat = 2000 := by decide
  have htenants : s.tenants = false := by simp [State.tenants, s, State.contexts_reset]
  exact ⟨rfl, rfl, rfl, State.contexts_reset, htenants, rfl, rfl, State.region_reset, hpool, hlease,
    State.ctx_reset_idle, State.strm_reset_idle, fun _ => ⟨rfl, rfl, rfl⟩, State.semCount_reset, fun _ => rfl, fun _ => rfl,
    rfl, rfl, rfl, rfl, rfl, State.memOk_reset, fun _ => rfl⟩

end Sys2Proof.Machine
end

section
/-! Completion signals that come as packets (R269–R273, R385, R437): what an expected packet does, which of its answers a SIG has, and
when HOLD_SIG_APPLY acts. -/

namespace Sys2Proof.Machine

/-! An expected packet (R423, R430, R437). -/

theorem psnAdd_zero {p : Nat} (h : p < 2 ^ 24) : psnAdd p 0 = p := Nat.mod_eq_of_lt h

theorem State.receives_iff (s : State) (n : Nat) : s.receives n = true ↔ s.listens n = true ∧ (s.qp n).ud = false := by
  simp [State.receives]

theorem State.used_of_receives {s : State} {n : Nat} (h : s.receives n = true) : (s.qp n).used = true := by
  have hl := ((s.receives_iff n).1 h).1
  simp only [State.listens, Bool.and_eq_true] at hl
  exact hl.1.1

theorem State.admitFrame_of_ordinary {fr : Frame} {i : Instr} (h : fr.ordinary i) (s : State) (k : State → State) :
    s.admitFrame fr k = k s := by
  obtain ⟨hlen, hplain, -, -⟩ := h
  simp [State.admitFrame, frameMax, Nat.not_lt.2 hlen, hplain]

/-- An ordinary frame of the row `i` with the expected PSN is settled by what the row does. -/
theorem State.arrive_of_expected {s : State} {n psn count : Nat} {fr : Frame} {i : Frame → Instr} {act : State → State × Verdict}
    {again : State → State} (hr : s.receives n = true) (hc : s.cached n = true) (hp : psn = (s.qp n).rqPsn)
    (hf : fr.ordinary (i fr)) (hres : fr.reserved = false) :
    s.arrive n psn count fr i act again = s.settle n psn count (i fr) (act s) := by
  obtain ⟨hl, hud⟩ := (s.receives_iff n).1 hr
  obtain ⟨-, -, hce, hop⟩ := id hf
  have hheard : { fr with ce := false } = fr := by rw [← hce]
  simp [State.arrive, hl, hud, s.admitFrame_of_ordinary hf, hc, State.marked, hce, hp, hres, hheard, hop]

theorem State.settle_rnr (s t : State) (n psn count : Nat) (i : Instr) :
    s.settle n psn count i (t, .rnr) = t.transmit n (.rnr n psn (t.qp n).minRnr) := rfl

/-- A request of one packet that sends nothing back itself is acknowledged. -/
theorem State.settle_done_one {s t : State} {n psn : Nat} (i : Instr) (hu : (t.qp n).used = true) (hp : psn < 2 ^ 24) :
    s.settle n psn 1 i (t, .done []) = (t.modQp n (fun q => q.took 1)).ackTo n psn := by
  simp [State.settle, hu, State.answer, psnAdd_zero hp]

/-- While a SIG is parked the acknowledgment waits (R270). -/
theorem State.ackTo_of_parked {s : State} {n : Nat} (psn : Nat) (h : (s.qp n).holds ≠ []) : s.ackTo n psn = s := by
  simp [State.ackTo, h]

/-! Changes of semaphores and notes of contexts leave the queue pairs alone. -/

@[simp] theorem State.qp_change (s : State) (c a : Nat) (k : Int) (f : Option Nat) (n : Nat) : (s.change c a k f).qp n = s.qp n := by
  obtain ⟨t, x, h⟩ := s.change_fields c a k f
  rw [h]; rfl

@[simp] theorem State.qp_modCtx (s : State) (c : Nat) (f : Ctx → Ctx) (n : Nat) : (s.modCtx c f).qp n = s.qp n := rfl

/-! SIG (R269–R271, R273, R385). -/

theorem Qp.arrived_iff (q : Qp) (mark : Nat) : q.arrived mark = true ↔ psnSub (psnAdd q.rqPsn (2 ^ 24 - 1)) mark < 2 ^ 23 := by
  simp [Qp.arrived, psnLe]

theorem Frame.reserved_of_sig {n psn : Nat} {fr : Frame} {h : SigHdr} {seen : Bool} (hf : fr.ordinary (.sig n psn fr h seen)) :
    fr.reserved = false := by
  obtain ⟨-, -, -, hop⟩ := hf
  have hc1 : fr.opcode = 0xC1 := by simpa [takesOpcode] using hop
  simp [Frame.reserved, hc1]

section
variable {s : State} {n psn : Nat} {fr : Frame} {h : SigHdr} {seen : Bool}

theorem exec_sig_of_expected (hr : s.receives n = true) (hc : s.cached n = true) (hp : psn = (s.qp n).rqPsn)
    (hf : fr.ordinary (.sig n psn fr h seen)) :
    exec (.sig n psn fr h seen) s = .next (s.settle n psn 1 (.sig n psn fr h seen) (s.inSig n psn h seen)) := by
  show Host.Outcome.next (s.arrive n psn 1 fr _ _ _) = _
  rw [State.arrive_of_expected hr hc hp hf (Frame.reserved_of_sig hf)]

/-- The SIG can be applied at once: its watermark has arrived, its data can be seen, and none is parked before it. -/
def State.sigReached (s : State) (n : Nat) (h : SigHdr) (seen : Bool) : Prop :=
  seen = true ∧ (s.qp n).arrived (h.watermark % 2 ^ 24) = true ∧ (s.qp n).holds.isEmpty = true

theorem State.inSig_of_quietWait (hok : s.agbelOk n = true) (hq : (s.ctx (s.qp n).ctx).quietWait = true) :
    s.inSig n psn h seen = (s, .rnr) := by
  simp [State.inSig, hok, hq]

section
variable (hok : s.agbelOk n = true) (hq : (s.ctx (s.qp n).ctx).quietWait = false)
include hok hq

theorem State.inSig_of_reached (hreach : s.sigReached n h seen)
    (ht : s.semAccepts (semAddr h.addr) = true ∨ semDiscarded (s.qp n).ctx (semAddr h.addr) = true) :
    s.inSig n psn h seen = (s.change (s.qp n).ctx (semAddr h.addr) h.amount.toInt none, .done []) := by
  rw [State.sigReached] at hreach
  simp only [State.inSig, hok, hq, Bool.not_true, Bool.false_eq_true, if_false, if_pos hreach, if_pos ht]

theorem State.inSig_of_untaken (hreach : s.sigReached n h seen)
    (ht : ¬ (s.semAccepts (semAddr h.addr) = true ∨ semDiscarded (s.qp n).ctx (semAddr h.addr) = true)) :
    s.inSig n psn h seen = (s.modCtx (s.qp n).ctx Ctx.countNak, .rnr) := by
  rw [State.sigReached] at hreach
  simp only [State.inSig, hok, hq, Bool.not_true, Bool.false_eq_true, if_false, if_pos hreach, if_neg ht]

theorem State.inSig_of_room (hreach : ¬ s.sigReached n h seen) (hlen : (s.qp n).holds.length < holdMax) :
    s.inSig n psn h seen =
      ((s.setQp n { s.qp n with holds := (s.qp n).holds ++ [⟨psn, h.watermark % 2 ^ 24, h.amount, semAddr h.addr⟩] }).modCtx (s.qp n).ctx
        (fun x => { x with holdPeak := max x.holdPeak ((s.qp n).holds.length + 1) }), .done []) := by
  rw [State.sigReached] at hreach
  simp only [State.inSig, hok, hq, Bool.not_true, Bool.false_eq_true, if_false, if_neg hreach, if_pos hlen]

theorem State.inSig_of_full (hlen : holdMax ≤ (s.qp n).holds.length) :
    s.inSig n psn h seen = (s.modCtx (s.qp n).ctx Ctx.countNak, .rnr) := by
  have hreach : ¬ s.sigReached n h seen := by
    rintro ⟨-, -, hempty⟩
    rw [List.isEmpty_iff.1 hempty] at hlen
    exact absurd hlen (by decide)
  rw [State.sigReached] at hreach
  simp only [State.inSig, hok, hq, Bool.not_true, Bool.false_eq_true, if_false, if_neg hreach, if_neg (Nat.not_lt.2 hlen)]

end

end

/-! HOLD_SIG_APPLY (R269, R272, R437). -/

theorem exec_holdSigApply_of_parked {n : Nat} {s : State} {e : HoldEntry} {es : List HoldEntry} (hh : (s.qp n).holds = e :: es) :
    let t := (s.modQp n (fun q => { q with holds := es })).change (s.qp n).ctx e.addr e.amount.toInt none
    exec (.holdSigApply n) s = .next
      (if (s.qp n).arrived e.watermark = true ∧ (s.semAccepts e.addr = true ∨ semDiscarded (s.qp n).ctx e.addr = true) then
        if t.receives n then t.transmit n (.ack n (t.qp n).ackable) else t
      else s) := by
  show execHoldSigApply n s = _
  rw [execHoldSigApply, hh]

/-- Settles O30: a SIG by which of its five answers the responder gives, HOLD_SIG_APPLY by whether the oldest parked SIG may go. -/
theorem signalsKeepTheirOrder : Obligations.SignalsKeepTheirOrder := by
  unfold Obligations.SignalsKeepTheirOrder
  refine ⟨fun n psn fr h seen s => ?sig, fun n s e es hh => ?hold⟩
  case sig =>
    intro q a mark reached takes e refused hpsn hr hc hp hf hok
    have he : e = .next (s.settle n psn 1 (.sig n psn fr h seen) (s.inSig n psn h seen)) := exec_sig_of_expected hr hc hp hf
    have hu : q.used = true := State.used_of_receives hr
    have hreach : s.sigReached n h seen ↔ reached ∧ q.holds = [] := by
      simp only [State.sigReached, Qp.arrived_iff, List.isEmpty_iff, and_assoc, reached, mark, q]
    rw [he]
    refine ⟨fun hq hre hno ht => ?applied, fun hq hre hno ht => ?untaken, fun hq hwait hlen => ?parked, fun hq hlen => ?full,
      fun hq => ?quiet⟩
    case applied =>
      rw [State.inSig_of_reached hok hq (hreach.2 ⟨hre, hno⟩) ht, State.settle_done_one _ (by simpa using hu) hpsn]
    case untaken =>
      rw [State.inSig_of_untaken hok hq (hreach.2 ⟨hre, hno⟩) ht, State.settle_rnr]; rfl
    case parked =>
      have hnot : ¬ s.sigReached n h seen := fun hx => hwait.elim (· (hreach.1 hx).1) (· (hreach.1 hx).2)
      rw [State.inSig_of_room hok hq hnot hlen, State.settle_done_one _ (by simpa using hu) hpsn,
        State.ackTo_of_parked psn (by simp [Qp.took])]
    case full =>
      rw [State.inSig_of_full hok hq hlen, State.settle_rnr]; rfl
    case quiet =>
      rw [State.inSig_of_quietWait hok hq, State.settle_rnr]
  case hold =>
    intro q goes t
    have hgoes : (q.arrived e.watermark = true ∧ (s.semAccepts e.addr = true ∨ semDiscarded q.ctx e.addr = true)) ↔ goes := by
      rw [Qp.arrived_iff]
    have hqp : t.qp n = { q with holds := es } := by simp [t, q]
    rw [exec_holdSigApply_of_parked hh]
    refine ⟨fun hg => ?_, fun hg => ?_⟩
    · rw [if_pos (hgoes.2 hg)]
      exact congrArg (fun p => Host.Outcome.next (if t.receives n then t.transmit n (.ack n p) else t)) (congrArg Qp.ackable hqp)
    · rw [if_neg (mt hgoes.1 hg)]

end Sys2Proof.Machine
end

section
/-! Aborts (R157, R301, R302, R318, R327, R342, R365, R366, R368, R383): what of a context the Mill's and the firmware's own writes leave
alone, what an abort undoes of the tiles that stations finish for it, and what a numerics abort and PARK make of the aborted context. -/

namespace Sys2Proof.Machine

/-! What of a context events, changes of semaphores, mirror writes and FP5's records leave alone. -/

/-- A context without its session, semaphores, mirror notes and numerics records. -/
def Ctx.ledgerPart (x : Ctx) : Ctx :=
  { x with
    ses := {}, image := [], satSeen := false, satAddr := 0, mirrors := [], unsent := false, numDue := false
    history := [], climbs := [], skips := 0 }

/-- What the erased fields do not enter is the same of two contexts with one such part. -/
theorem Ctx.of_ledgerPart {α : Sort _} (p : Ctx → α) {x y : Ctx} (h : y.ledgerPart = x.ledgerPart)
    (hp : ∀ z : Ctx, p z.ledgerPart = p z := by exact fun _ => rfl) : p y = p x := by
  rw [← hp y, h, hp x]

def State.ledgerPart (s : State) (c : Nat) : Ctx := (s.ctx c).ledgerPart

section
variable (s : State) (c d : Nat)

theorem State.ledgerPart_setCtx {x : Ctx} (h : x.ledgerPart = s.ledgerPart c) : (s.setCtx c x).ledgerPart d = s.ledgerPart d := by
  rw [State.ledgerPart, State.ctx_setCtx]
  split
  next hd => rw [h, hd]
  next => rfl

theorem State.ledgerPart_modCtx {f : Ctx → Ctx} (h : ∀ x, (f x).ledgerPart = x.ledgerPart) :
    (s.modCtx c f).ledgerPart d = s.ledgerPart d := s.ledgerPart_setCtx c d (h _)

theorem State.ledgerPart_ite {p : Prop} [Decidable p] {t u : State} (ht : t.ledgerPart d = s.ledgerPart d)
    (hu : u.ledgerPart d = s.ledgerPart d) : (if p then t else u).ledgerPart d = s.ledgerPart d := by
  split
  · exact ht
  · exact hu

theorem State.post_fields (n : Nat) (o : Owner) (k : Nat) (b : Bool) (out : Nat → Output) :
    ∃ q w, s.post n o k b out = { s with qps := q, net := w } := s.postAll_fields n o k b (fun p => [out p])

@[simp] theorem State.ledgerPart_post (n : Nat) (o : Owner) (k : Nat) (b : Bool) (out : Nat → Output) :
    (s.post n o k b out).ledgerPart d = s.ledgerPart d := by
  obtain ⟨q, w, h⟩ := s.post_fields n o k b out
  rw [h]
  rfl

@[simp] theorem State.ledgerPart_postHost (n : Nat) (ws : List (Nat × Reg × List Byte)) :
    (s.postHost n ws).ledgerPart d = s.ledgerPart d := by
  obtain ⟨q, w, h⟩ := s.postHost_fields n ws
  rw [h]
  rfl

@[simp] theorem State.ledgerPart_writeEvent (e : Event) : (s.writeEvent c e).ledgerPart d = s.ledgerPart d := by
  rw [State.writeEvent, State.ledgerPart_modCtx, State.ledgerPart_postHost]
  exact fun _ => rfl

@[simp] theorem State.ledgerPart_event (code : Nat) (p : List (Nat × Nat)) : (s.event c code p).ledgerPart d = s.ledgerPart d := by
  simp only [State.event, State.raise]
  split
  · split
    · exact s.ledgerPart_setCtx c d rfl
    · exact s.ledgerPart_writeEvent c d _
  · exact s.ledgerPart_setCtx c d rfl
  · rfl

/-- A count that a bank does not hold is in the context's image, and a saturation is noted. -/
theorem State.ledgerPart_applyChange (a : Nat) (k : Int) : (s.applyChange c a k).ledgerPart d = s.ledgerPart d := by
  have note : ∀ t : State, (t.modCtx c (fun x => { x with satSeen := true, satAddr := a })).ledgerPart d = t.ledgerPart d :=
    fun t => t.ledgerPart_modCtx c d (fun _ => rfl)
  rw [State.applyChange, State.ledgerPart_ite _ d rfl (note _)]
  exact s.ledgerPart_ite d rfl (s.ledgerPart_modCtx c d (fun _ => rfl))

@[simp] theorem State.ledgerPart_change (a : Nat) (k : Int) (f : Option Nat) : (s.change c a k f).ledgerPart d = s.ledgerPart d := by
  simp only [State.change]
  split
  · rfl
  · split
    · rfl
    · split
      · rfl
      · exact s.ledgerPart_applyChange c d _ k

@[simp] theorem State.ledgerPart_askReport (dev why : Nat) : (s.askReport dev why).ledgerPart d = s.ledgerPart d := rfl

@[simp] theorem State.ledgerPart_mirror (n a len : Nat) : (s.mirror c n a len).ledgerPart d = s.ledgerPart d := by
  simp only [State.mirror]
  split
  · rfl
  · have note : ∀ w : MirrorWrite,
        ({ s with nextId := s.nextId + 1 }.modCtx c (fun x => { x with mirrors := x.mirrors ++ [w] })).ledgerPart d = s.ledgerPart d :=
      fun w => State.ledgerPart_modCtx _ c d (fun _ => rfl)
    split
    · rw [State.ledgerPart_post, note]
    · rw [State.ledgerPart_askReport, State.ledgerPart_modCtx, note]
      exact fun _ => rfl

end

/-! What ends the instructions and streams of a context (R157): crofts, save areas, the Tally and the flights change. -/

section
variable (s : State) (c : Nat)

theorem State.mapCrofts_fields (f : Croft → Croft) : ∃ k a, s.mapCrofts c f = { s with crofts := k, saved := a } := by
  refine foldl_keeps (fun r => ∃ k a, r = { s with crofts := k, saved := a }) _ (fun r l h => ?_) _ _ ⟨s.crofts, s.saved, rfl⟩
  obtain ⟨k, a, rfl⟩ := h
  exact State.setCroftOf_fields _ c l _

theorem State.kill_fields (code : Nat) (f : Flight) :
    ∃ k a, s.kill code f = { s.dropFlight f.id with crofts := k, saved := a } := by
  simp only [State.kill]
  split
  · exact ⟨_, _, rfl⟩
  · exact State.setCroftOf_fields _ _ _ _

/-- The instructions that several others leave in flight when they end. -/
theorem State.foldl_kill_fields (code : Nat) (fs : List Flight) :
    ∃ k a, fs.foldl (fun s f => s.kill code f) s =
      { s with flights := s.flights.filter (fun f => !fs.any (fun g => g.id == f.id)), crofts := k, saved := a } := by
  induction fs generalizing s with
  | nil =>
    have hall : s.flights.filter (fun f => !([] : List Flight).any (fun g => g.id == f.id)) = s.flights :=
      List.filter_eq_self.2 fun _ _ => rfl
    exact ⟨s.crofts, s.saved, congrArg (fun fl => { s with flights := fl }) hall.symm⟩
  | cons g fs ih =>
    obtain ⟨k, a, hg⟩ := s.kill_fields code g
    obtain ⟨k', a', hfs⟩ := ih (s.kill code g)
    refine ⟨k', a', ?_⟩
    rw [List.foldl_cons, hfs, hg]
    simp only [State.dropFlight, List.filter_filter, List.any_cons, Bool.not_or, bne, Bool.beq_comm (a := g.id), Bool.and_comm]

theorem State.withdraw_fields (l : Nat) (t : Strm) : ∃ k y, s.withdraw l t = { s with crofts := k, tally := y } := by
  simp only [State.withdraw]
  split
  · split
    · exact ⟨_, s.tally, rfl⟩
    · exact ⟨_, _, rfl⟩
  · exact ⟨s.crofts, s.tally, rfl⟩

theorem State.withdrawAll_fields (ls : List Nat) :
    ∃ k y, ls.foldl (fun s l => allStrms.foldl (fun s t => s.withdraw l t) s) s = { s with crofts := k, tally := y } := by
  refine foldl_keeps (fun r => ∃ k y, r = { s with crofts := k, tally := y }) _ (fun r l hr => ?_) _ _ ⟨s.crofts, s.tally, rfl⟩
  refine foldl_keeps (fun r => ∃ k y, r = { s with crofts := k, tally := y }) _ (fun r t h => ?_) _ _ hr
  obtain ⟨k, y, rfl⟩ := h
  exact State.withdraw_fields _ l t

/-- The streams of a context stop: the WAITs of a resident one are withdrawn first. -/
theorem State.stopAll_fields (code : Nat) : ∃ k a y,
    (if c = s.resident then (s.croftIds c).foldl (fun s l => allStrms.foldl (fun s t => s.withdraw l t) s) s else s).mapCrofts c
      (fun x => x.mapStrms (fun y => y.stop code)) = { s with crofts := k, saved := a, tally := y } := by
  split
  · obtain ⟨k, y, h⟩ := s.withdrawAll_fields (s.croftIds c)
    rw [h]
    obtain ⟨k', a, h'⟩ := State.mapCrofts_fields { s with crofts := k, tally := y } c (fun x => x.mapStrms (fun y => y.stop code))
    exact ⟨k', a, y, h'⟩
  · obtain ⟨k, a, h⟩ := s.mapCrofts_fields c (fun x => x.mapStrms (fun y => y.stop code))
    exact ⟨k, a, s.tally, h⟩

theorem State.stopStreams_spec (code : Nat) : ∃ fl k a y,
    s.stopStreams c code = { s with flights := fl, crofts := k, saved := a, tally := y } ∧ ∀ f ∈ fl, f.ctx ≠ c := by
  obtain ⟨k, a, hkill⟩ := s.foldl_kill_fields code (s.flights.filter (fun f => f.ctx == c))
  obtain ⟨k', a', y', h⟩ := ((s.flights.filter (fun f => f.ctx == c)).foldl (fun s f => s.kill code f) s).stopAll_fields c code
  refine ⟨s.flights.filter (fun f => !(s.flights.filter (fun f => f.ctx == c)).any (fun g => g.id == f.id)), k', a', y',
    h.trans (by rw [hkill]), fun f hf hc => ?_⟩
  obtain ⟨hmem, hid⟩ := List.mem_filter.1 hf
  have hin : (s.flights.filter (fun f => f.ctx == c)).any (fun g => g.id == f.id) = true :=
    List.any_eq_true.2 ⟨f, List.mem_filter.2 ⟨hmem, by simpa using hc⟩, by simp⟩
  simp [hin] at hid

end

/-! Held steps. -/

theorem Ctx.mem_modStep {x : Ctx} {n : Nat} {f : HeldStep → HeldStep} {e : HeldStep} (he : e ∈ (x.modStep n f).steps)
    (hn : e.desc.step = n) : ∃ h ∈ x.steps, e = f h := by
  obtain ⟨h, hh, rfl⟩ := List.mem_map.1 he
  by_cases hs : h.desc.step = n
  · exact ⟨h, hh, by simp [hs]⟩
  · simp [hs] at hn

/-! What an abort makes of the steps (R318, R327, R342, R365, R374). -/

/-- Does an abort leave step n as it is? -/
def Ctx.keeps (x : Ctx) (n : Nat) : Bool := x.decided n || x.steps.any (fun h => h.desc.step == n && h.settled)

/-- A held step after an abort of its context. -/
def Ctx.rollStep (x : Ctx) (h : HeldStep) : HeldStep :=
  if h.settled || x.decided h.desc.step then { h with xmax := [] } else h.abort

/-- The held steps after an abort. -/
def Ctx.rollback (x : Ctx) : List HeldStep := x.steps.map x.rollStep

/-- `y` is `x` after work that an abort of the context undoes: the abort makes the same steps of both. -/
structure Ctx.RollsBackAs (x y : Ctx) : Prop where
  steps    : y.rollback = x.rollback
  keeps    : ∀ n, y.keeps n = x.keeps n
  genState : y.genState = x.genState
  genMap   : y.genMap = x.genMap
  aborts   : y.aborts = x.aborts

theorem Ctx.RollsBackAs.refl (x : Ctx) : x.RollsBackAs x := ⟨rfl, fun _ => rfl, rfl, rfl, rfl⟩

theorem Ctx.RollsBackAs.trans {x y z : Ctx} (h : x.RollsBackAs y) (k : y.RollsBackAs z) : x.RollsBackAs z :=
  ⟨k.steps.trans h.steps, fun n => (k.keeps n).trans (h.keeps n), k.genState.trans h.genState, k.genMap.trans h.genMap,
    k.aborts.trans h.aborts⟩

theorem Ctx.RollsBackAs.of_ledgerPart {x y : Ctx} (h : y.ledgerPart = x.ledgerPart) : x.RollsBackAs y :=
  ⟨Ctx.of_ledgerPart Ctx.rollback h, fun n => Ctx.of_ledgerPart (fun z => z.keeps n) h, Ctx.of_ledgerPart Ctx.genState h,
    Ctx.of_ledgerPart Ctx.genMap h, Ctx.of_ledgerPart Ctx.aborts h⟩

theorem Ctx.keeps_eq_false_iff (x : Ctx) (n : Nat) :
    x.keeps n = false ↔ x.decided n = false ∧ ∀ h ∈ x.steps, h.desc.step = n → h.settled = false := by
  simp [Ctx.keeps]

theorem Ctx.rollStep_modStep (x : Ctx) (n : Nat) (f : HeldStep → HeldStep) (h : HeldStep) :
    (x.modStep n f).rollStep h = x.rollStep h := rfl

theorem Ctx.rollStep_of_open {x : Ctx} {h : HeldStep} (hs : h.settled = false) (hd : x.decided h.desc.step = false) :
    x.rollStep h = h.abort := by
  simp [Ctx.rollStep, hs, hd]

/-- A change of a step that the abort does not keep, in nothing but what the abort sets back. -/
theorem Ctx.RollsBackAs.modStep {x : Ctx} {n : Nat} {f : HeldStep → HeldStep} (hk : x.keeps n = false)
    (hd : ∀ h, (f h).desc = h.desc) (hs : ∀ h, (f h).settled = h.settled) (ha : ∀ h, (f h).abort = h.abort) :
    x.RollsBackAs (x.modStep n f) := by
  obtain ⟨hflip, hopen⟩ := (x.keeps_eq_false_iff n).1 hk
  refine ⟨?_, fun m => ?_, rfl, rfl, rfl⟩
  · refine List.map_map.trans (List.map_congr_left fun h hh => ?_)
    rw [Function.comp_apply, Ctx.rollStep_modStep]
    by_cases hn : h.desc.step = n
    · have hun : h.settled = false := hopen h hh hn
      rw [if_pos (by simpa using hn), Ctx.rollStep_of_open hun (by rwa [hn]),
        Ctx.rollStep_of_open (by rwa [hs]) (by rwa [hd, hn]), ha]
    · rw [if_neg (by simpa using hn)]
  · refine congrArg (x.decided m || ·) (List.any_map.trans (congrArg _ (funext fun h => ?_)))
    rw [Function.comp_apply]
    split <;> simp only [hd, hs]

/-! What the stations do for a context that is aborted (R342). -/

/-- `t` is `s` after work for context `c` that its abort undoes, and ends no instruction. -/
structure State.WorksFor (c : Nat) (s t : State) : Prop where
  flights : t.flights = s.flights
  ctx     : (s.ctx c).RollsBackAs (t.ctx c)

section
variable {c : Nat} {s t u : State}

theorem State.WorksFor.refl (c : Nat) (s : State) : State.WorksFor c s s := ⟨rfl, .refl _⟩

theorem State.WorksFor.trans (h : State.WorksFor c s t) (k : State.WorksFor c t u) : State.WorksFor c s u :=
  ⟨k.flights.trans h.flights, h.ctx.trans k.ctx⟩

theorem State.WorksFor.modCtx {f : Ctx → Ctx} (h : (s.ctx c).RollsBackAs (f (s.ctx c))) : State.WorksFor c s (s.modCtx c f) :=
  ⟨rfl, by simpa using h⟩

theorem State.flights_post (s : State) (n : Nat) (o : Owner) (k : Nat) (b : Bool) (out : Nat → Output) :
    (s.post n o k b out).flights = s.flights := by
  obtain ⟨q, w, h⟩ := s.post_fields n o k b out
  rw [h]

theorem State.flights_mirror (s : State) (c n a len : Nat) : (s.mirror c n a len).flights = s.flights := by
  simp only [State.mirror]
  split
  · rfl
  · split
    · rw [State.flights_post]; rfl
    · rfl

theorem State.WorksFor.millWrite (c n a : Nat) (bs : List Byte) (s : State) : State.WorksFor c s (s.millWrite c n a bs) :=
  ⟨State.flights_mirror _ c n a _, .of_ledgerPart (State.ledgerPart_mirror { s with mem := Memory.writeBytes s.mem a bs } c c n a _)⟩

theorem State.WorksFor.change (c a : Nat) (k : Int) (f : Option Nat) (s : State) : State.WorksFor c s (s.change c a k f) := by
  refine ⟨?_, .of_ledgerPart (s.ledgerPart_change c c a k f)⟩
  obtain ⟨y, x, h⟩ := s.change_fields c a k f
  rw [h]

/-- A NaN marks the step (R352); the abort clears the mark. -/
theorem Ctx.RollsBackAs.markNan {x : Ctx} {n : Nat} (why : Nat) (hk : x.keeps n = false) :
    x.RollsBackAs (x.modStep n (fun h => { h.setSkip why with nan := true })) := by
  have hskip : ∀ h : HeldStep,
      (h.setSkip why).desc = h.desc ∧ (h.setSkip why).settled = h.settled ∧ (h.setSkip why).abort = h.abort := by
    intro h
    rw [HeldStep.setSkip]
    split <;> exact ⟨rfl, rfl, rfl⟩
  exact .modStep hk (fun h => (hskip h).1) (fun h => (hskip h).2.1) (fun h => (hskip h).2.2)

theorem State.WorksFor.ite {p : Prop} [Decidable p] (ht : p → State.WorksFor c s t) (hu : ¬p → State.WorksFor c s u) :
    State.WorksFor c s (if p then t else u) := by
  split
  next hp => exact ht hp
  next hp => exact hu hp

/-- A station marks a NaN, writes the tile, counts it, and signals the last one of a layerwise shard. -/
theorem State.WorksFor.stationWork (s : State) (j : StationJob) (hk : (s.ctx j.ctx).keeps j.step = false) :
    State.WorksFor j.ctx s (s.stationWork j) := by
  rw [State.stationWork]
  split
  next d h _ _ =>
    refine .trans (.trans (.trans (.ite (fun _ => .modCtx (.markNan 0xFFF0 hk)) (fun _ => .refl _ _))
      (.ite (fun _ => .refl _ _) (fun _ => ?writes))) (.modCtx ⟨rfl, fun _ => rfl, rfl, rfl, rfl⟩))
      (.ite (fun _ => .change _ _ _ _ _) (fun _ => .refl _ _))
    exact foldl_keeps _ _ (fun r p hr => hr.trans (.millWrite _ _ _ _ r)) _ _ (.refl _ _)
  next => exact .refl _ _

theorem State.WorksFor.clearStations (c : Nat) (s : State) : State.WorksFor c s (s.clearStations c (s.ctx c).keeps) := by
  have hfold : ∀ (js : List StationJob) (t : State), State.WorksFor c s t →
      (∀ j ∈ js, j.ctx = c ∧ (s.ctx c).keeps j.step = false) → State.WorksFor c s (js.foldl State.stationWork t) := by
    intro js
    induction js with
    | nil => exact fun t h _ => h
    | cons j js ih =>
      intro t h hjs
      obtain ⟨hc, hk⟩ := hjs j (by simp)
      have hkt : (t.ctx j.ctx).keeps j.step = false := by rw [hc, h.ctx.keeps, hk]
      exact ih _ (h.trans (hc ▸ State.WorksFor.stationWork t j hkt)) (fun i hi => hjs i (by simp [hi]))
  refine hfold _ _ ⟨rfl, .refl _⟩ fun j hj => ?_
  simpa using (List.mem_filter.1 hj).2

end

/-- Stations that hold no tile of the context write nothing for its abort. -/
theorem State.clearStations_mem_of_none_held {s : State} {c : Nat} (keep : Nat → Bool)
    (h : ∀ e ∈ s.stations, ∀ j ∈ e.2, j.ctx ≠ c) : (s.clearStations c keep).mem = s.mem := by
  have hnone : (s.stations.filterMap (fun e => e.2.head?)).filter (fun j => j.ctx == c && !keep j.step) = [] := by
    refine List.filter_eq_nil_iff.2 fun j hj => ?_
    obtain ⟨e, he, hhead⟩ := List.mem_filterMap.1 hj
    simp [h e he j (List.mem_of_mem_head? hhead)]
  simp only [State.clearStations, hnone, List.foldl_nil]

/-! An abort (R157, R318, R342, R383). -/

/-- A context after its abort. -/
def Ctx.rolledBack (x : Ctx) : Ctx :=
  { x with
    steps := x.rollback, shards := x.shards.filter (fun d => x.keeps d.step), mirrors := x.mirrors.filter (fun m => x.keeps m.step) }

/-- An abort after which the streams have stopped and the stations have finished their tiles. -/
def State.cleared (s : State) (c : Nat) : State := (s.stopStreams c stAborted).clearStations c (s.ctx c).keeps

section
variable (s : State) (c : Nat)

theorem State.abortCtx_fields : ∃ k a, s.abortCtx c =
    { (s.cleared c).freeSlots c with crofts := k, saved := a }.modCtx c Ctx.rolledBack := by
  obtain ⟨k, a, h⟩ := ((s.cleared c).freeSlots c).mapCrofts_fields c Croft.clearStats
  exact ⟨k, a, congrArg (fun t : State => t.modCtx c Ctx.rolledBack) h⟩

theorem State.worksFor_cleared : ∃ t : State,
    (∀ f ∈ t.flights, f.ctx ≠ c) ∧ t.ctx c = s.ctx c ∧ State.WorksFor c t (s.cleared c) := by
  obtain ⟨fl, k, a, y, h, hfl⟩ := s.stopStreams_spec c stAborted
  have hctx : (s.stopStreams c stAborted).ctx c = s.ctx c := by rw [h]; rfl
  refine ⟨s.stopStreams c stAborted, by rwa [h], hctx, ?_⟩
  rw [State.cleared, ← hctx]
  exact .clearStations _ _

theorem State.abortCtx_flights : ∀ f ∈ (s.abortCtx c).flights, f.ctx ≠ c := by
  obtain ⟨k, a, h⟩ := s.abortCtx_fields c
  obtain ⟨t, hfl, -, hw⟩ := s.worksFor_cleared c
  rw [h]
  exact hw.flights ▸ hfl

theorem State.abortCtx_slots : ∀ e ∈ (s.abortCtx c).slots, e.2.state = .free ∨ e.2.ctx ≠ c := by
  obtain ⟨k, a, h⟩ := s.abortCtx_fields c
  intro e he
  rw [h] at he
  simpa using (List.mem_filter.1 he).2

theorem State.abortCtx_mem_of_none_held (hj : ∀ e ∈ s.stations, ∀ j ∈ e.2, j.ctx ≠ c) : (s.abortCtx c).mem = s.mem := by
  obtain ⟨k, a, h⟩ := s.abortCtx_fields c
  obtain ⟨fl, k', a', y, hstop, -⟩ := s.stopStreams_spec c stAborted
  have hmem : (s.stopStreams c stAborted).mem = s.mem := by rw [hstop]
  have hsta : (s.stopStreams c stAborted).stations = s.stations := by rw [hstop]
  rw [h, ← hmem]
  exact State.clearStations_mem_of_none_held _ (hsta ▸ hj)

theorem State.ctx_abortCtx : ∃ x, (s.ctx c).RollsBackAs x ∧ (s.abortCtx c).ctx c = x.rolledBack := by
  obtain ⟨k, a, h⟩ := s.abortCtx_fields c
  obtain ⟨t, -, hctx, hw⟩ := s.worksFor_cleared c
  exact ⟨(s.cleared c).ctx c, hctx ▸ hw.ctx, by rw [h, State.ctx_modCtx, if_pos rfl]; rfl⟩

theorem State.abortCtx_steps : ((s.abortCtx c).ctx c).steps = (s.ctx c).rollback := by
  obtain ⟨x, hx, h⟩ := s.ctx_abortCtx c
  rw [h]
  exact hx.steps

theorem State.abortCtx_aborts : ((s.abortCtx c).ctx c).aborts = (s.ctx c).aborts := by
  obtain ⟨x, hx, h⟩ := s.ctx_abortCtx c
  rw [h]
  exact hx.aborts

theorem State.abortCtx_generations :
    ((s.abortCtx c).ctx c).genState = (s.ctx c).genState ∧ ((s.abortCtx c).ctx c).genMap = (s.ctx c).genMap := by
  obtain ⟨x, hx, h⟩ := s.ctx_abortCtx c
  rw [h]
  exact ⟨hx.genState, hx.genMap⟩

end

/-! A numerics abort (R301, R302). -/

theorem rungOf_raiseRungs (v : Nat → Nat) (ls : List Nat) (rungs : Table Nat) (l : Nat) :
    rungOf (raiseRungs rungs (ls.map (fun l => (l, v l)))) l = if l ∈ ls then max (rungOf rungs l) (v l) else rungOf rungs l := by
  induction ls generalizing rungs with
  | nil => rfl
  | cons a ls ih =>
    have hput : rungOf (Table.put rungs a (max (rungOf rungs a) (v a))) l =
        if l = a then max (rungOf rungs l) (v l) else rungOf rungs l := by
      rw [rungOf, Table.get_put]
      split
      next h => rw [h]
      next => rfl
    have hstep := (ih (Table.put rungs a (max (rungOf rungs a) (v a)))).trans (by rw [hput])
    refine Eq.trans hstep ?_
    by_cases ha : l = a <;> simp [ha]

/-- The replay of a step after a numerics abort: at the stage its decision gives. -/
def HeldStep.replay (d : Decision) (h : HeldStep) : HeldStep :=
  if d.outcome = 1 then { h with stage := .rescaled, rescaled := true }
  else { h with
    stage := .climbed, flagged := if h.rescaled then h.flagged else [], climb := d.layers
    attRungs := raiseRungs h.rungs (d.layers.map (fun l => (l, min 3 (rungOf h.rungs l + 1)))) }

theorem HeldStep.replay_rescale {d : Decision} (hd : d.outcome = 1) (h : HeldStep) :
    (h.replay d).stage = .rescaled ∧ (h.replay d).rescaled = true := by
  rw [HeldStep.replay, if_pos hd]
  exact ⟨rfl, rfl⟩

theorem HeldStep.replay_climb {d : Decision} (hd : d.outcome = 2) (h : HeldStep) :
    (h.replay d).stage = .climbed ∧ (h.replay d).climb = d.layers ∧ ∀ l ∈ d.layers,
      rungOf (h.replay d).attRungs l = max (rungOf (h.replay d).rungs l) (min 3 (rungOf (h.replay d).rungs l + 1)) := by
  rw [HeldStep.replay, if_neg (by omega)]
  refine ⟨rfl, rfl, fun l hl => ?_⟩
  exact (rungOf_raiseRungs (fun l => min 3 (rungOf h.rungs l + 1)) d.layers h.rungs l).trans (if_pos hl)

theorem State.ctx_numericsAbort (s : State) (c : Nat) (d : Decision) : (s.numericsAbort c d).ctx c =
    { ((s.abortCtx c).ctx c).countAbort.modStep d.step (HeldStep.replay d) with resumeAt := some d.flipBell } := by
  simp only [State.numericsAbort, State.ctx_modCtx, if_true]
  rfl

/-! PARK (R366). -/

/-- A context that PARK has taken out of its run. -/
def Ctx.park (x : Ctx) : Ctx :=
  { x with
    parked := true, stuck := true, resumeAt := none, quietWait := false, faulted := false
    steps := x.steps.map (fun h => if h.settled || x.decided h.desc.step then h else h.fresh) }

theorem State.ledgerPart_parkCtx (s : State) (c : Nat) : (s.parkCtx c).ledgerPart c = ((s.abortCtx c).ctx c).park.ledgerPart := by
  rw [State.parkCtx, State.ledgerPart_event, State.ledgerPart, State.ctx_modCtx, if_pos rfl]
  rfl

end Sys2Proof.Machine
end

section
/-! The flip of a commit (R304, R331, R341, R372, R387): what FP5's records, the mirrors and the walk of the gather list leave of the flipped
context; and with it what commits and aborts do. -/

namespace Sys2Proof.Machine

section
variable (s : State) (c d : Nat)

@[simp] theorem State.ledgerPart_commitNumerics (h : HeldStep) (xmax : Table A40) (skipped : Bool) :
    (s.commitNumerics c h xmax skipped).ledgerPart d = s.ledgerPart d := by
  have history : (s.enterHistory c h xmax skipped).ledgerPart d = s.ledgerPart d := s.ledgerPart_setCtx c d rfl
  have event : ∀ t : State, (t.numEvent c h skipped).ledgerPart d = t.ledgerPart d :=
    fun t => t.ledgerPart_ite d rfl (t.ledgerPart_event c d _ _)
  rw [State.commitNumerics, event, State.ledgerPart_modCtx, history]
  exact fun _ => rfl

@[simp] theorem State.ledgerPart_flipMirrors (skipped : Bool) : (s.flipMirrors c skipped).ledgerPart d = s.ledgerPart d := by
  rw [State.flipMirrors]
  refine foldl_keeps (fun r : State => r.ledgerPart d = s.ledgerPart d) _ (fun r p h => ?_) _ _ rfl
  exact h

@[simp] theorem State.ledgerPart_sendNumerics : (s.sendNumerics c).ledgerPart d = s.ledgerPart d := by
  have due : ∀ (t : State) (b : Bool), t.ctxs = s.ctxs → (t.setCtx c { s.ctx c with numDue := b }).ledgerPart d = s.ledgerPart d := by
    intro t b ht
    have hpart : ∀ e, t.ledgerPart e = s.ledgerPart e := fun e => by rw [State.ledgerPart, State.ctx, ht]; rfl
    rw [← hpart d]
    exact t.ledgerPart_setCtx c d (hpart c).symm
  simp only [State.sendNumerics]
  split
  · rfl
  · split
    · exact due s _ rfl
    · rw [State.ledgerPart_post]
      exact due _ _ rfl

end

/-- `y` is `x` after a walk of its gather list: the generations and the armed shards are those of `x`, and every step it holds is one
that `x` held. -/
structure Ctx.Walked (x y : Ctx) : Prop where
  genState    : y.genState = x.genState
  genMap      : y.genMap = x.genMap
  lastCmt     : y.lastCmt = x.lastCmt
  cmtSeen     : y.cmtSeen = x.cmtSeen
  millSkipped : y.millSkipped = x.millSkipped
  shards      : y.shards = x.shards
  steps       : ∀ e ∈ y.steps, e ∈ x.steps

theorem Ctx.Walked.refl (x : Ctx) : x.Walked x := ⟨rfl, rfl, rfl, rfl, rfl, rfl, fun _ he => he⟩

theorem Ctx.Walked.trans {x y z : Ctx} (h : x.Walked y) (k : y.Walked z) : x.Walked z :=
  ⟨k.genState.trans h.genState, k.genMap.trans h.genMap, k.lastCmt.trans h.lastCmt, k.cmtSeen.trans h.cmtSeen,
    k.millSkipped.trans h.millSkipped, k.shards.trans h.shards, fun e he => h.steps e (k.steps e he)⟩

theorem Ctx.Walked.of_ledgerPart {x y : Ctx} (h : y.ledgerPart = x.ledgerPart) : x.Walked y :=
  ⟨Ctx.of_ledgerPart Ctx.genState h, Ctx.of_ledgerPart Ctx.genMap h, Ctx.of_ledgerPart Ctx.lastCmt h,
    Ctx.of_ledgerPart Ctx.cmtSeen h, Ctx.of_ledgerPart Ctx.millSkipped h, Ctx.of_ledgerPart Ctx.shards h,
    fun _ he => Ctx.of_ledgerPart Ctx.steps h ▸ he⟩

theorem Ctx.Walked.freeStep (x : Ctx) (n : Nat) (ws : List Walk) : x.Walked { x.freeStep n with walks := ws } := by
  have noted : x.Walked { x with walks := ws } := ⟨rfl, rfl, rfl, rfl, rfl, rfl, fun _ he => he⟩
  rw [Ctx.freeStep]
  split
  · split
    · exact ⟨rfl, rfl, rfl, rfl, rfl, rfl, fun e he => (List.mem_filter.1 he).1⟩
    · exact noted
  · exact noted

theorem Ctx.Walked.modWalk (x : Ctx) (f : Walk → Walk) : x.Walked (x.modWalk f) := by
  rw [Ctx.modWalk]
  split <;> exact ⟨rfl, rfl, rfl, rfl, rfl, rfl, fun _ he => he⟩

theorem State.walked_parkDetached (s : State) (c : Nat) : (s.ctx c).Walked ((s.parkDetached c).ctx c) := by
  obtain ⟨fl, k, a, y, h, -⟩ := s.stopStreams_spec c stAborted
  simp only [State.parkDetached]
  split
  · rw [State.ctx_modCtx, if_pos rfl, h]
    exact ⟨rfl, rfl, rfl, rfl, rfl, rfl, fun _ he => he⟩
  · exact .refl _

theorem State.ledgerPart_startEntry (s : State) (c i d : Nat) : (s.startEntry c i).1.ledgerPart d = s.ledgerPart d := by
  simp only [State.startEntry]
  split
  · exact State.ledgerPart_event _ c d _ _
  · exact State.ledgerPart_post s d _ _ _ _ _

theorem State.ctx_unpoke (s : State) (a n c : Nat) : (s.unpoke a n).ctx c = s.ctx c := by
  rw [State.unpoke]
  split <;> rfl

theorem State.walked_walkGo (n : Nat) (s : State) (c : Nat) : (s.ctx c).Walked ((walkGo n s c).ctx c) := by
  induction n generalizing s with
  | zero => exact .refl _
  | succ n ih =>
    have go : ∀ t : State, (s.ctx c).Walked (t.ctx c) → (s.ctx c).Walked ((walkGo n t c).ctx c) := fun t h => h.trans (ih t)
    simp only [walkGo]
    split
    · exact .refl _
    next w ws _ =>
      split
      · split
        · refine go _ (.trans (.of_ledgerPart (s.ledgerPart_startEntry c w.next c)) ?_)
          rw [State.ctx_modCtx, if_pos rfl]
          exact .modWalk _ _
        · exact .refl _
      · split
        · refine go _ (.trans ?_ (State.walked_parkDetached _ c))
          rw [State.ctx_unpoke, State.ctx_setCtx, if_pos rfl]
          exact .freeStep _ _ _
        · exact .refl _

theorem State.walked_startWalk (s : State) (c n : Nat) : (s.ctx c).Walked ((s.startWalk c n).ctx c) := by
  have start : (s.ctx c).Walked ((s.modCtx c (fun x => { x with walks := x.walks ++ [⟨n, 0, []⟩] })).ctx c) := by
    rw [State.ctx_modCtx, if_pos rfl]
    exact ⟨rfl, rfl, rfl, rfl, rfl, rfl, fun _ he => he⟩
  exact start.trans (State.walked_walkGo _ _ c)

/-- A context after the flip of its step `h` by the decision `d`. -/
def Ctx.commit (d : Decision) (h : HeldStep) (x : Ctx) : Ctx :=
  let skipped := d.outcome = 3
  { x.modStep d.step (fun h => { h with
      state := if skipped then .skipped else .committed
      skipWhy := if skipped && !h.skip then d.skipWhy else h.skipWhy
      fallbacks := if skipped then [] else h.fallbacks }) with
    gathersMap := (x.shards.filter (fun e => e.step == d.step)).map (fun e => (e.map0, 32 * e.nt))
    shards := x.shards.filter (fun e => e.step != d.step)
    genState := if skipped then x.genState else 1 - x.genState
    genMap := 1 - x.genMap
    lastCmt := d.step, cmtSeen := true
    millSkipped := skipped
    xsatBlocks := min 65535 h.satBlocks, xnonfin := min 65535 h.nonfinBlocks
    pfbKept := if skipped then 0 else min 65535 (h.fallbacks.filter (·.2)).length
    pfbElem := if skipped then 0 else min 65535 (h.fallbacks.filter (fun e => !e.2)).length
    pfbTot := if skipped then x.pfbTot else min (2 ^ 32 - 1) (x.pfbTot + h.fallbacks.length) }

section
variable {s : State} {c : Nat} {d : Decision} {h : HeldStep} (hh : (s.ctx c).step? d.step = some h) (hs : h.settled = false)
include hh hs

theorem State.commitStep_of_held : s.commitStep c d =
    let t := (s.commitNumerics c h d.xmax (d.outcome = 3)).modCtx c (Ctx.commit d h)
    (((if (t.ctx c).feat 3 then t.event c 0x000E [(d.step, 64), (if d.outcome = 3 then 1 else 0, 2)] else t).flipMirrors c
      (d.outcome = 3)).sendNumerics c).startWalk c d.step := by
  rw [State.commitStep]
  split
  next hnone => rw [hnone] at hh; contradiction
  next g hg =>
    obtain rfl : h = g := Option.some.inj (hh.symm.trans hg)
    rw [if_neg (by simp [hs])]
    rfl

theorem State.walked_commitStep : ∃ x : Ctx, x.ledgerPart = s.ledgerPart c ∧ (x.commit d h).Walked ((s.commitStep c d).ctx c) := by
  refine ⟨(s.commitNumerics c h d.xmax (d.outcome = 3)).ctx c, s.ledgerPart_commitNumerics c c h _ _, ?_⟩
  rw [State.commitStep_of_held hh hs]
  refine .trans (.of_ledgerPart ?_) (State.walked_startWalk _ c d.step)
  change State.ledgerPart _ c = _
  rw [State.ledgerPart_sendNumerics, State.ledgerPart_flipMirrors, State.ledgerPart_ite _ c (State.ledgerPart_event _ c c _ _) rfl,
    State.ledgerPart, State.ctx_modCtx, if_pos rfl]

end

/-- Settles O52: the commit by what its gather walk leaves of the flipped context, the abort by the steps that the stations' last tiles roll
back to, a numerics abort and PARK by what they make of the aborted context. -/
theorem commitsFlipAndAbortsRollBack : Obligations.CommitsFlipAndAbortsRollBack := by
  unfold Obligations.CommitsFlipAndAbortsRollBack
  refine ⟨fun s c d h hh hs => ?commit, fun s c => ?abort, fun s c d hd => ?numerics, fun s c => ?park⟩
  case commit =>
    obtain ⟨x, hx, hw⟩ := State.walked_commitStep hh hs
    have hstate : (x.commit d h).genState = if d.outcome = 3 then (s.ctx c).genState else 1 - (s.ctx c).genState := by
      rw [← Ctx.of_ledgerPart Ctx.genState hx]
      rfl
    refine ⟨hw.genMap.trans (congrArg (1 - ·) (Ctx.of_ledgerPart Ctx.genMap hx)), hw.genState.trans hstate, hw.lastCmt, hw.cmtSeen,
      hw.millSkipped, fun e he => ?_, fun e he hn => ?_⟩
    · rw [hw.shards] at he
      simpa using (List.mem_filter.1 he).2
    · obtain ⟨g, -, rfl⟩ := Ctx.mem_modStep (hw.steps e he) hn
      rfl
  case abort =>
    exact ⟨s.abortCtx_flights c, s.abortCtx_steps c, fun h ho => if_pos ho, fun h => ⟨rfl, rfl, rfl, rfl, rfl, rfl, rfl⟩,
      s.abortCtx_slots c, s.abortCtx_mem_of_none_held c, s.abortCtx_generations c⟩
  case numerics =>
    intro y
    have hy : y = { ((s.abortCtx c).ctx c).countAbort.modStep d.step (HeldStep.replay d) with resumeAt := some d.flipBell } :=
      s.ctx_numericsAbort c d
    refine ⟨by rw [hy], by rw [hy, ← s.abortCtx_aborts c]; rfl, fun e he hn => ?_⟩
    rw [hy] at he
    obtain ⟨h, -, rfl⟩ := Ctx.mem_modStep he hn
    exact ⟨fun h1 => h.replay_rescale h1, fun h2 => h.replay_climb h2⟩
  case park =>
    have hpart := s.ledgerPart_parkCtx c
    exact ⟨Ctx.of_ledgerPart Ctx.parked hpart, Ctx.of_ledgerPart Ctx.stuck hpart, Ctx.of_ledgerPart Ctx.resumeAt hpart,
      (Ctx.of_ledgerPart Ctx.aborts hpart).trans (s.abortCtx_aborts c)⟩

end Sys2Proof.Machine
end

section
/-! The vote tree (R297, R299, R363, R364, R366, R370–R375): what a taken ballot does by its step and by who is still missing, what the
coordinator decides from the complete merge, what a decision does to a context, and what a new coordinator records. -/

namespace Sys2Proof.Machine

/-! Ballots (R371). -/

section
variable {s : State} {src : Nat} {b : Ballot}

theorem exec_ballot_taken (src : Nat) (b : Ballot) (s : State) : exec (.ballot .taken src b) s = .next (s.takeBallot src b) := rfl

theorem State.takeBallot_of_no_child (h : src ∉ s.children) : s.takeBallot src b = s := by
  simp [State.takeBallot, h]

theorem State.takeBallot_of_fp3_down (h : src ∈ s.children) (h3 : s.up 3 = false) :
    s.takeBallot src b = s.hold 3 (.ballot .taken src b) := by
  simp [State.takeBallot, h, h3]

/-- A ballot of a step that no context of its group holds yet is kept (log entry 105). -/
theorem State.takeBallot_of_not_held (h : src ∈ s.children) (h3 : s.up 3 = true)
    (hn : ∀ c ∈ s.tagged b.gtag, (s.ctx c).step? b.step = none) :
    s.takeBallot src b = { s with group := { s.group with early := s.group.early ++ [(src, b)] } } := by
  have hfind : (s.tagged b.gtag).find? (fun c => ((s.ctx c).step? b.step).isSome) = none :=
    List.find?_eq_none.2 fun c hc => by simp [hn c hc]
  simp [State.takeBallot, h, h3, hfind]

theorem State.takeBallot_of_held {c : Nat} {h : HeldStep} (hc : src ∈ s.children) (h3 : s.up 3 = true) (ht : s.tagged b.gtag = [c])
    (hh : (s.ctx c).step? b.step = some h) : s.takeBallot src b = s.mergeBallot c src b := by
  simp [State.takeBallot, hc, h3, ht, hh]

/-- The merge of a step with one more ballot. -/
def HeldStep.mergedWith (h : HeldStep) (b : Ballot) : Ballot := match h.merged with | some m => mergeTwo m b | none => b

/-- The state that has merged a voter's ballot of a held step. -/
def State.merge (s : State) (c voter : Nat) (h : HeldStep) (b : Ballot) : State :=
  s.modCtx c (fun x => x.modStep b.step (fun g => { g with merged := some (h.mergedWith b), voters := voter :: h.voters }))

/-- Every ballot that a module waits for is among those of `vs`: its own, and one of each child. -/
def State.votesIn (s : State) (vs : List Nat) : Prop := s.devid ∈ vs ∧ ∀ d ∈ s.children, d ∈ vs

theorem State.not_votesIn_iff (s : State) (vs : List Nat) :
    (!vs.contains s.devid || !s.children.all (fun d => vs.contains d)) = true ↔ ¬ s.votesIn vs := by
  simp [State.votesIn, Classical.or_iff_not_imp_left]

section
variable {c voter : Nat} {h : HeldStep} (hh : (s.ctx c).step? b.step = some h) (hs : h.settled = false) (ha : h.attempt = b.att)
  (hv : voter ∉ h.voters)
include hh hs ha hv

theorem State.mergeBallot_of_held : s.mergeBallot c voter b =
    let m := h.mergedWith b
    let t := s.merge c voter h b
    if (!(voter :: h.voters).contains s.devid || !s.children.all (fun d => (voter :: h.voters).contains d)) = true then t
    else match s.parent with
      | some p => t.sendMsg m.gtag p (.ballot m)
      | none => if m.merged = s.members.length ∧ (!s.group.newCoord) = true then t.decide c m else t := by
  rw [State.mergeBallot]
  split
  next hnone => rw [hnone] at hh; contradiction
  next g hg =>
    obtain rfl : h = g := Option.some.inj (hh.symm.trans hg)
    rw [if_neg (by simp [hs, ha, hv])]
    rfl

theorem State.mergeBallot_of_missing (hw : ¬ s.votesIn (voter :: h.voters)) : s.mergeBallot c voter b = s.merge c voter h b := by
  rw [State.mergeBallot_of_held hh hs ha hv]
  exact if_pos ((s.not_votesIn_iff _).2 hw)

theorem State.mergeBallot_to_parent {p : Nat} (hw : s.votesIn (voter :: h.voters)) (hp : s.parent = some p) :
    s.mergeBallot c voter b = (s.merge c voter h b).sendMsg (h.mergedWith b).gtag p (.ballot (h.mergedWith b)) := by
  rw [State.mergeBallot_of_held hh hs ha hv]
  exact (if_neg (mt (s.not_votesIn_iff _).1 (not_not_intro hw))).trans (by rw [hp])

theorem State.mergeBallot_at_coordinator (hw : s.votesIn (voter :: h.voters)) (hp : s.parent = none)
    (hm : (h.mergedWith b).merged = s.members.length) (hn : s.group.newCoord = false) :
    s.mergeBallot c voter b = (s.merge c voter h b).decide c (h.mergedWith b) := by
  rw [State.mergeBallot_of_held hh hs ha hv]
  exact (if_neg (mt (s.not_votesIn_iff _).1 (not_not_intro hw))).trans (by simp [hp, hm, hn])

end

end

/-! What the coordinator decides (R299, R366, R372). -/

/-- The decision that a complete merge carries, as yet COMMIT. -/
def decisionOf (m : Ballot) (k : Nat) : Decision := ⟨m.step, m.gtag, m.att, 0, m.skipWhy, k, [], m.xmax⟩

theorem State.drawFlip_spec (s : State) : ∃ k, (k = s.bellNow + 1 ∨ k = s.bellNow + 2) ∧
    s.drawFlip = (k, { s with fresh := s.fresh + 1 }) := by
  refine ⟨s.drawFlip.1, ?_, rfl⟩
  simp only [State.drawFlip]
  split
  · exact .inr rfl
  · exact .inl rfl

section
variable {s : State} {c k : Nat} {m : Ballot} {t : State} (hk : s.drawFlip = (k, t))
include hk

theorem State.decide_of_skip (hm : m.outcome = 3) :
    s.decide c m = (t.endRun c).issueDecision { decisionOf m k with outcome := 3 } := by
  simp [State.decide, hk, hm, decisionOf]

theorem State.decide_of_climb (hm : m.outcome = 2) (hl : m.layers ≠ []) :
    s.decide c m = t.decideAbort c { decisionOf m k with outcome := 2, layers := m.layers, xmax := [] } := by
  simp [State.decide, hk, hm, hl, decisionOf]

theorem State.decide_of_rescale (hm : m.outcome = 1) :
    s.decide c m = t.decideAbort c { decisionOf m k with outcome := 1, xmax := [] } := by
  simp [State.decide, hk, hm, decisionOf]

theorem State.decide_of_pass (hm : m.outcome = 0 ∨ m.outcome = 2 ∧ m.layers = []) :
    s.decide c m = (t.endRun c).issueDecision (decisionOf m k) := by
  rcases hm with hm | ⟨hm, hl⟩
  · simp [State.decide, hk, hm, decisionOf]
  · simp [State.decide, hk, hm, hl, decisionOf]

end

/-! Decisions (R372–R374, R381). -/

theorem exec_decision_taken (d : Decision) (s : State) : exec (.decision .taken d) s =
    .next (if s.up 3 then (s.hearParent.sendDown d.gtag (.decision d)).takeDecision d else s.hearParent.hold 3 (.decision .taken d)) := rfl

section
variable {s : State} {c : Nat} {d : Decision}

section
variable {h : HeldStep} (hh : (s.ctx c).step? d.step = some h) (hs : h.settled = false) (hd : (s.ctx c).decided d.step = false)
include hh hs hd

theorem State.applyDecision_of_commit (ho : d.outcome = 0 ∨ d.outcome = 3) :
    s.applyDecision c d = s.setCtx c { s.ctx c with flips := (s.ctx c).flips ++ [d] } := by
  rcases ho with ho | ho <;> simp [State.applyDecision, ho, hh, hs, hd]

theorem State.applyDecision_of_replay (ho : d.outcome = 1 ∨ d.outcome = 2) (ha : h.attempt = d.att) (hop : h.opened = true)
    (hst : h.state ≠ .aborted) : s.applyDecision c d = s.numericsAbort c d := by
  rcases ho with ho | ho <;> simp [State.applyDecision, ho, hh, hs, hd, ha, hop, hst]

end

theorem State.applyDecision_of_abort (ho : d.outcome = 4) : s.applyDecision c d = s.faultAbort c := by
  simp [State.applyDecision, ho]

theorem State.applyDecision_of_park (ho : d.outcome = 5) : s.applyDecision c d = s.parkCtx c := by
  simp [State.applyDecision, ho]

end

/-! STATE (R374, R375). -/

section
variable {s : State} {src tag : Nat} {d : Option Decision}

theorem exec_state_taken (src : Nat) (d : Option Decision) (s : State) : exec (.state .taken src d) s =
    .next (s.takeState (match d with | some e => e.gtag | none => s.groupTag) src d) := rfl

theorem State.takeState_of_old (h : s.group.newCoord = false) : s.takeState tag src d = s := by
  simp [State.takeState, h]

/-- A new coordinator that misses the state of a member for a group does nothing yet. -/
theorem State.takeStates_of_missing {m g : Nat} (hm : m ∈ s.members) (hg : g ∈ s.tags)
    (hmiss : ∀ e ∈ s.group.states, ¬ (e.1 = m ∧ e.2.1 = g)) : s.takeStates = s := by
  rw [State.takeStates, if_pos]
  have hnone : s.group.states.any (fun e => e.1 == m && e.2.1 == g) = false := by simpa using hmiss
  have hall : s.members.all (fun m => s.tags.all (fun g => s.group.states.any (fun e => e.1 == m && e.2.1 == g))) = false :=
    List.all_eq_false.2 ⟨m, hm, Bool.eq_false_iff.1 (List.all_eq_false.2 ⟨g, hg, Bool.eq_false_iff.1 hnone⟩)⟩
  simp [hall]

/-- While a state of a member and a group is missing, the new coordinator only records this one. -/
theorem State.takeState_of_missing (h : s.group.newCoord = true)
    (hmiss : ∃ m ∈ s.members, ∃ g ∈ s.tags, ¬ (m = src ∧ g = tag) ∧ ∀ e ∈ s.group.states, ¬ (e.1 = m ∧ e.2.1 = g)) :
    s.takeState tag src d = s.modGroup (fun g => { g with
      states := (src, tag, d) :: g.states.filter (fun e => !(e.1 == src && e.2.1 == tag)) }) := by
  obtain ⟨m, hm, g, hg, hne, hnone⟩ := hmiss
  rw [State.takeState, if_neg (by simp [h])]
  refine State.takeStates_of_missing (m := m) (g := g) hm hg fun e he => ?_
  rcases List.mem_cons.1 he with rfl | he
  · exact fun hsrc => hne ⟨hsrc.1.symm, hsrc.2.symm⟩
  · exact hnone e (List.mem_filter.1 he).1

end

/-! Opening entries (R364). -/

theorem Ctx.mayOpen_spec {x : Ctx} {h : HeldStep} (hm : x.mayOpen h = true) :
    h.opened = false ∧ h.state = .prepared ∧ x.parked = false ∧ x.ses.state ≠ .detached ∧ (x.twinEn = true → h.twinAck = true) := by
  simp only [Ctx.mayOpen, Bool.and_eq_true, Bool.or_eq_true, Bool.not_eq_true', beq_iff_eq, bne_iff_ne] at hm
  obtain ⟨⟨⟨⟨⟨⟨⟨hopen, hprep⟩, hpark⟩, hdet⟩, -⟩, -⟩, -⟩, htwin⟩ := hm
  exact ⟨hopen, hprep, hpark, hdet, fun ht => htwin.resolve_left (by simp [ht])⟩

/-- Settles O51: a ballot by its step and by who is still missing, the coordinator's decision by the merge's outcome, a decision by its own,
and STATE by whether another one is missing. -/
theorem voteTreeDecides : Obligations.VoteTreeDecides := by
  unfold Obligations.VoteTreeDecides
  refine ⟨fun src b s => ⟨fun h => ?noChild, fun h h3 => ?waits, fun h h3 hn => ?early, fun c h hc h3 ht hh hs ha hv => ?held⟩,
    fun c m s => ?decide, fun d s => ⟨fun h3 => ?decision, fun h3 => ?decisionWaits⟩,
    fun c d s => ⟨fun h hh hs hd => ⟨State.applyDecision_of_commit hh hs hd, State.applyDecision_of_replay hh hs hd⟩,
      State.applyDecision_of_abort, State.applyDecision_of_park⟩,
    fun src d s => ⟨fun h => ?oldCoordinator, fun h => ?newCoordinator⟩, fun c n ce s => rfl, fun x h => Ctx.mayOpen_spec⟩
  case noChild => rw [exec_ballot_taken, State.takeBallot_of_no_child h]
  case waits => rw [exec_ballot_taken, State.takeBallot_of_fp3_down h h3]
  case early => rw [exec_ballot_taken, State.takeBallot_of_not_held h h3 hn]
  case held =>
    intro m vs t whole
    rw [exec_ballot_taken, State.takeBallot_of_held hc h3 ht hh]
    exact ⟨fun hw => congrArg _ (State.mergeBallot_of_missing hh hs ha hv hw),
      fun p hw hp => congrArg _ (State.mergeBallot_to_parent hh hs ha hv hw hp),
      fun hw hp hm hn => congrArg _ (State.mergeBallot_at_coordinator hh hs ha hv hw hp hm hn)⟩
  case decide =>
    obtain ⟨k, hk, hf⟩ := s.drawFlip_spec
    exact ⟨k, hk, State.decide_of_skip hf, State.decide_of_climb hf, State.decide_of_rescale hf, State.decide_of_pass hf⟩
  case decision => rw [exec_decision_taken, if_pos h3]
  case decisionWaits => rw [exec_decision_taken, if_neg (by simp [h3])]
  case oldCoordinator => rw [exec_state_taken, State.takeState_of_old h]
  case newCoordinator =>
    intro tag hmiss
    exact congrArg _ (State.takeState_of_missing h hmiss)

end Sys2Proof.Machine
end

section
/-! REDUCE_WRITE packets at the owner (R313, R318–R321, R440, R442, R555): what a record leaves of the queue pairs,
how the owner decides a packet, and how the queue pair answers it. -/

namespace Sys2Proof.Machine

/-! Records enter positions and their context; the queue pairs stay as they are (R319). -/

@[simp] theorem State.qp_putTileSlot (s : State) (p : Nat) (x : Slot) (n : Nat) : (s.putTileSlot p x).qp n = s.qp n := by
  rw [State.putTileSlot]
  split <;> rfl

@[simp] theorem State.qp_addAt (s : State) (c : Nat) (h : ReduceHdr) (p : Nat) (rec : List Byte) (n : Nat) :
    (s.addAt c h p rec).qp n = s.qp n := by
  have stamped : ∀ (t : State) (k : Nat), ({ t with nextId := k } : State).qp n = t.qp n := fun _ _ => rfl
  simp only [State.addAt, apply_ite (fun t : State => t.qp n), State.qp_putTileSlot, State.qp_modCtx, stamped, ite_self]

/-- The records of a packet, each added at its position. -/
def State.addRecords (s : State) (c : Nat) (h : ReduceHdr) (recs : List (List Byte)) : State :=
  (List.zip (positionsOf h recs.length) recs).foldl (fun s e => s.addAt c h e.1 e.2) s

@[simp] theorem State.qp_addRecords (s : State) (c : Nat) (h : ReduceHdr) (recs : List (List Byte)) (n : Nat) :
    (s.addRecords c h recs).qp n = s.qp n :=
  foldl_keeps (fun t : State => t.qp n = s.qp n) _ (fun t e ht => (t.qp_addAt c h e.1 e.2 n).trans ht) _ _ rfl

/-! Where the records lie, and which positions refuse them (R319, R442; log entry 108). -/

/-- The positions of `k` records lie in the exchange region. -/
def Ctx.holdsTiles (x : Ctx) (h : ReduceHdr) (k : Nat) : Prop :=
  ∀ p ∈ positionsOf h k, x.slotFirst ≤ p ∧ p + slotWidth h.fmt ≤ x.slotFirst + x.slotCount

theorem Ctx.outside_iff (x : Ctx) (h : ReduceHdr) (k : Nat) :
    ((positionsOf h k).any fun p => p < x.slotFirst || x.slotFirst + x.slotCount < p + slotWidth h.fmt) = true ↔ ¬ x.holdsTiles h k := by
  have outside : ∀ p, (decide (p < x.slotFirst) || decide (x.slotFirst + x.slotCount < p + slotWidth h.fmt)) = true ↔
      ¬ (x.slotFirst ≤ p ∧ p + slotWidth h.fmt ≤ x.slotFirst + x.slotCount) := fun p => by
    simp only [Bool.or_eq_true, decide_eq_true_eq]
    omega
  simp only [Ctx.holdsTiles, List.any_eq_true, outside, Classical.not_forall, exists_prop]

theorem Ctx.not_outside {x : Ctx} {h : ReduceHdr} {k : Nat} (hin : x.holdsTiles h k) :
    ¬ ((positionsOf h k).any fun p => p < x.slotFirst || x.slotFirst + x.slotCount < p + slotWidth h.fmt) = true :=
  fun hout => (x.outside_iff h k).1 hout hin

theorem State.refusesAt_iff (s : State) (c : Nat) (h : ReduceHdr) (p : Nat) : s.refusesAt c h p = true ↔
    (s.slot p).refuses c h = true ∨ h.fmt = 5 ∧ (s.slot p).state = .free ∧ (s.slot (p + 1)).state ≠ .free := by
  simp [State.refusesAt, and_assoc]

/-! How the owner decides a packet (R319–R321, R555). -/

section
variable {s : State} {c : Nat} {h : ReduceHdr} {recs : List (List Byte)}

theorem State.reducePacket_of_outside (hin : ¬ (s.ctx c).holdsTiles h recs.length) : s.reducePacket c h recs =
    ({ s.modCtx c (fun y => y.setXerr xRange) with
      group := { s.group with abortPending := insertNat (s.ctx c).gtag s.group.abortPending } }, .nak nakAccess) :=
  if_pos ((Ctx.outside_iff _ h recs.length).2 hin)

section
variable (hin : (s.ctx c).holdsTiles h recs.length)
include hin

theorem State.reducePacket_of_older (ha : (s.ctx c).age h.step h.att = .older) : s.reducePacket c h recs = (s, .ack) := by
  rw [State.reducePacket, if_neg (Ctx.not_outside hin), ha]

theorem State.reducePacket_of_newer (ha : (s.ctx c).age h.step h.att = .newer) : s.reducePacket c h recs = (s, .rnr) := by
  rw [State.reducePacket, if_neg (Ctx.not_outside hin), ha]

section
variable (ha : (s.ctx c).age h.step h.att = .current)
include ha

theorem State.reducePacket_of_refused (hr : ∃ p ∈ positionsOf h recs.length, s.refusesAt c h p = true) :
    s.reducePacket c h recs = (s, .rnr) := by
  rw [State.reducePacket, if_neg (Ctx.not_outside hin), ha]
  exact if_pos (List.any_eq_true.2 hr)

theorem State.reducePacket_of_added (hr : ∀ p ∈ positionsOf h recs.length, ¬ s.refusesAt c h p = true) :
    s.reducePacket c h recs = ((s.addRecords c h recs).modCtx c (fun y => y.noteSide h), .ack) := by
  rw [State.reducePacket, if_neg (Ctx.not_outside hin), ha]
  exact if_neg fun hany => by
    obtain ⟨p, hp, hpr⟩ := List.any_eq_true.1 hany
    exact hr p hp hpr

end
end
end

/-! How the queue pair answers a packet (R320, R321, R437, R440, R441). -/

theorem State.agbelOk_iff (s : State) (n : Nat) : s.agbelOk n = true ↔
    (s.qp n).agbel = true ∧ (s.qp n).ud = false ∧ s.portRole (s.qp n).port (s.qp n).sub ≠ 0 := by
  simp [State.agbelOk, and_assoc]

theorem Frame.reserved_of_reduceWrite {n psn : Nat} {fr : Frame} {h : ReduceHdr} {recs : List (List Byte)}
    (hf : fr.ordinary (.reduceWrite n psn fr h recs)) : fr.reserved = false := by
  obtain ⟨-, -, -, hop⟩ := hf
  have hc0 : fr.opcode = 0xC0 := by simpa [takesOpcode] using hop
  simp [Frame.reserved, hc0]

section
variable {s t : State} {n psn : Nat} {fr : Frame} {h : ReduceHdr} {recs : List (List Byte)} (hr : s.receives n = true)
  (hc : s.cached n = true) (hp : psn = (s.qp n).rqPsn) (hf : fr.ordinary (.reduceWrite n psn fr h recs))
include hr hc hp hf

theorem exec_reduceWrite_of_expected : exec (.reduceWrite n psn fr h recs) s =
    .next (s.settle n psn 1 (.reduceWrite n psn fr h recs) (s.inReduce n h recs)) := by
  show Host.Outcome.next (s.arrive n psn 1 fr _ _ _) = _
  rw [State.arrive_of_expected hr hc hp hf (Frame.reserved_of_reduceWrite hf)]

theorem exec_reduceWrite_of_not_agbel (hok : s.agbelOk n = false) (h2 : s.up 2 = true) :
    exec (.reduceWrite n psn fr h recs) s = .next ((s.transmit n (.nak n psn nakInvalid)).failQp n false) := by
  rw [exec_reduceWrite_of_expected hr hc hp hf]
  simp [State.inReduce, hok, State.settle, h2]

section
variable (hok : s.agbelOk n = true)
include hok

theorem exec_reduceWrite_of_ack (hpsn : psn < 2 ^ 24) (hd : s.reducePacket (s.qp n).ctx h recs = (t, .ack)) (ht : t.qp n = s.qp n) :
    exec (.reduceWrite n psn fr h recs) s = .next ((t.modQp n (fun q => q.took 1)).ackTo n psn) := by
  have hin : s.inReduce n h recs = (t, .done []) := by simp [State.inReduce, hok, hd]
  have hu : (t.qp n).used = true := ht ▸ State.used_of_receives hr
  rw [exec_reduceWrite_of_expected hr hc hp hf, hin, State.settle_done_one _ hu hpsn]

theorem exec_reduceWrite_of_rnr (hd : s.reducePacket (s.qp n).ctx h recs = (s, .rnr)) :
    exec (.reduceWrite n psn fr h recs) s = .next (s.transmit n (.rnr n psn (s.qp n).minRnr)) := by
  have hin : s.inReduce n h recs = (s, .rnr) := by simp [State.inReduce, hok, hd]
  rw [exec_reduceWrite_of_expected hr hc hp hf, hin, State.settle_rnr]

theorem exec_reduceWrite_of_nak {syn : Nat} (hd : s.reducePacket (s.qp n).ctx h recs = (t, .nak syn)) :
    exec (.reduceWrite n psn fr h recs) s = .next (t.transmit n (.nak n psn syn)) := by
  have hin : s.inReduce n h recs = (t, .nak syn) := by simp [State.inReduce, hok, hd]
  rw [exec_reduceWrite_of_expected hr hc hp hf, hin]
  rfl

end
end

/-- Settles O29: the owner's decision by where the records lie, the age of the packet and the positions that refuse it, and the answer by
the decision. -/
theorem ownerAddsReduceWrites : Obligations.OwnerAddsReduceWrites := by
  unfold Obligations.OwnerAddsReduceWrites
  intro n psn fr h recs s q x w ps inside e refuses hpsn hr hc hp hf
  have hrefuses : ∀ p, s.refusesAt q.ctx h p = true ↔ refuses p := s.refusesAt_iff q.ctx h
  refine ⟨fun hok hin ha hno => ?added, fun hok hin ha => ?older, fun hok hin hre => ?retried, fun hok hin => ?outside,
    fun hok h2 => exec_reduceWrite_of_not_agbel hr hc hp hf hok h2, s.agbelOk_iff n⟩
  case added =>
    have hd := State.reducePacket_of_added hin ha fun p hp => mt (hrefuses p).1 (hno p hp)
    exact exec_reduceWrite_of_ack hr hc hp hf hok hpsn hd (s.qp_addRecords q.ctx h recs n)
  case older => exact exec_reduceWrite_of_ack hr hc hp hf hok hpsn (State.reducePacket_of_older hin ha) rfl
  case retried =>
    refine exec_reduceWrite_of_rnr hr hc hp hf hok ?_
    rcases hre with ha | ⟨ha, p, hp, hpr⟩
    · exact State.reducePacket_of_newer hin ha
    · exact State.reducePacket_of_refused hin ha ⟨p, hp, (hrefuses p).2 hpr⟩
  case outside => exact exec_reduceWrite_of_nak hr hc hp hf hok (State.reducePacket_of_outside hin)

end Sys2Proof.Machine
end

section
/-! The coordinator's judgement (R374, R377–R381, R389, R390, R393, R476): how a report enters the suspicion table, what each kind of report
does, when a suspect is declared, and what a declaration does. -/

namespace Sys2Proof.Machine

/-! The suspicion table (R378, R379). -/

/-- A report of an entry's suspect: it is counted, and its reason joins the others. -/
def Suspect.counted (why : Nat) (e : Suspect) : Suspect := { e with reason := e.reason ||| why, reports := min 65535 (e.reports + 1) }

section
variable {g : Group} {x : Nat}

/-- A change of an entry that keeps its suspect keeps who is suspected. -/
theorem Group.suspected_modSuspect {f : Suspect → Suspect} (hf : ∀ e, (f e).dev = e.dev) (y : Nat) :
    (g.modSuspect y f).suspected x = g.suspected x := by
  have hdev : ∀ e : Suspect, (if e.dev == y then f e else e).dev = e.dev := fun e => by
    split
    · exact hf e
    · rfl
  rw [Group.suspected, Group.modSuspect, List.any_map]
  exact congrArg g.suspects.any (funext fun e => congrArg (· == x) (hdev e))

/-- The table with one more entry. -/
def Group.enter (g : Group) (e : Suspect) : Group := { g with suspects := g.suspects ++ [e] }

theorem Group.suspected_enter (g : Group) (e : Suspect) : (g.enter e).suspected e.dev = true := by
  simp [Group.suspected, Group.enter]

/-- A new entry is the only one of its suspect. -/
theorem Group.modSuspect_enter {f : Suspect → Suspect} {e : Suspect} (h : g.suspected e.dev = false) :
    (g.enter e).modSuspect e.dev f = g.enter (f e) := by
  have hother : ∀ y ∈ g.suspects, y.dev ≠ e.dev := by simpa [Group.suspected] using h
  have hsame : g.suspects.map (fun y => if y.dev == e.dev then f y else y) = g.suspects :=
    (List.map_congr_left fun y hy => if_neg (by simpa using hother y hy)).trans (List.map_id _)
  rw [Group.modSuspect, Group.enter, List.map_append, hsame]
  simp [Group.enter]

end

section
variable {s : State} {x why : Nat}

theorem State.enterReport_of_suspected (h : s.group.suspected x = true) :
    s.enterReport x why = s.modGroup (fun g => g.modSuspect x (Suspect.counted why)) := if_pos h

theorem State.enterReport_of_full (h : s.group.suspected x = false) (hlen : 4096 ≤ s.group.suspects.length) :
    s.enterReport x why = s.modGroup (fun g => { g with drops := min 32767 (g.drops + 1) }) := by
  simp [State.enterReport, h, suspectMax, hlen]

theorem State.enterReport_of_room (h : s.group.suspected x = false) (hlen : s.group.suspects.length < 4096) :
    s.enterReport x why = s.modGroup (fun g => g.enter ⟨x, s.bellNow, why, 1, .judged, true⟩) := by
  simp [State.enterReport, h, suspectMax, Nat.not_le.2 hlen, Group.enter]

/-- A report finds or makes its entry, unless the table is full. -/
theorem State.suspected_enterReport (h : s.group.suspected x = true ∨ s.group.suspects.length < 4096) :
    (s.enterReport x why).group.suspected x = true := by
  cases hs : s.group.suspected x with
  | true => 
    rw [State.enterReport_of_suspected hs]
    exact (Group.suspected_modSuspect (f := Suspect.counted why) (fun _ => rfl) x).trans hs
  | false =>
    rw [State.enterReport_of_room hs (h.resolve_left (by simp [hs]))]
    exact Group.suspected_enter _ _

@[simp] theorem State.up_enterReport (k : Nat) : (s.enterReport x why).up k = s.up k := by
  rw [State.enterReport]
  split
  · rfl
  · split <;> rfl

end

/-! A report with REASON bits 0 and 1 alone (R378, R379, R476). -/

section
variable {s : State} {x why : Nat}

/-- The state that has noted for how many Bells in a row a suspect has been reported. -/
def State.noteStreak (s : State) (x : Nat) : State :=
  s.modGroup (fun g => { g with streak := Table.put g.streak x (s.bellNow, s.group.streakOf x s.bellNow) })

/-- The state that has entered a report, and asked about a suspect that is new to the table. -/
def State.observe (s : State) (x why : Nat) : State :=
  let t := s.noteStreak x
  let u := t.enterReport x why
  if t.group.suspected x || !u.group.suspected x then u
  else if u.up 4 then u.probeSuspect x
  else u.modGroup (fun g => g.modSuspect x (fun e => { e with asked := false }))

theorem State.observe_of_suspected (hs : s.group.suspected x = true) :
    s.observe x why = (s.noteStreak x).modGroup (fun g => g.modSuspect x (Suspect.counted why)) := by
  have hn : (s.noteStreak x).group.suspected x = true := hs
  rw [State.observe, if_pos (by simp [hn]), State.enterReport_of_suspected hn]

section
variable (hs : s.group.suspected x = false)
include hs

theorem State.observe_of_full (hlen : 4096 ≤ s.group.suspects.length) :
    s.observe x why = (s.noteStreak x).modGroup (fun g => { g with drops := min 32767 (g.drops + 1) }) := by
  have hu : (s.noteStreak x).enterReport x why = _ := State.enterReport_of_full hs hlen
  have hno : ((s.noteStreak x).enterReport x why).group.suspected x = false := by rw [hu]; exact hs
  rw [State.observe, if_pos (by simp [hno]), hu]

section
variable (hlen : s.group.suspects.length < 4096)
include hlen

theorem State.observe_of_new : s.observe x why =
    let u := (s.noteStreak x).modGroup (fun g => g.enter ⟨x, s.bellNow, why, 1, .judged, true⟩)
    if u.up 4 then u.probeSuspect x else u.modGroup (fun g => g.modSuspect x (fun e => { e with asked := false })) := by
  have hn : (s.noteStreak x).group.suspected x = false := hs
  have hu : ((s.noteStreak x).enterReport x why).group.suspected x = true := State.suspected_enterReport (.inr hlen)
  rw [State.observe, if_neg (by simp [hn, hu]), State.enterReport_of_room hn hlen]
  rfl

theorem State.observe_of_new_fp4_up (h4 : s.up 4 = true) : s.observe x why =
    ((s.noteStreak x).modGroup (fun g => g.enter ⟨x, s.bellNow, why, 1, .judged, true⟩)).probeSuspect x :=
  (State.observe_of_new hs hlen).trans (if_pos h4)

theorem State.observe_of_new_fp4_down (h4 : s.up 4 = false) : s.observe x why =
    (s.noteStreak x).modGroup (fun g => g.enter ⟨x, s.bellNow, why, 1, .judged, false⟩) := by
  rw [State.observe_of_new hs hlen]
  refine (if_neg (by simpa [State.noteStreak, State.modGroup, State.up] using h4)).trans ?_
  exact congrArg (fun g => { s with group := g })
    (Group.modSuspect_enter (g := (s.noteStreak x).group) (e := ⟨x, s.bellNow, why, 1, .judged, true⟩) hs)

end
end
end

/-! Reports (R377–R379, R393). -/

theorem exec_report_taken (g r x b why : Nat) (s : State) : exec (.report .taken g r x b why) s = .next (s.takeReport g r x b why) := rfl

theorem State.declareDue_of_up {s : State} (h4 : s.up 4 = true) (x : Nat) (p : Bool) : s.declareDue x p = s.declare x p := if_pos h4

section
variable {s : State} {g r x b why : Nat}

theorem State.takeReport_of_stranger (hc : s.isCoordinator = false) (hd : s.isDeputy = false ∨ x ≠ s.coordinator) :
    s.takeReport g r x b why = s := by
  have hmine : (s.isDeputy && x == s.coordinator) = false := by simpa [Classical.or_iff_not_imp_left] using hd
  simp [State.takeReport, hc, hmine]

section
variable (hc : s.isCoordinator = true)
include hc

theorem State.takeReport_of_abortRequest :
    s.takeReport g x x b 0 = (s.abortAll (s.tagged g)).faultEvent x 3 0 1 b 0xFFFF := by
  simp [State.takeReport, hc]

theorem State.takeReport_of_selfRemap : s.takeReport g r x b 8 = s.abortAll s.groupContexts := by
  simp [State.takeReport, hc, show Nat.testBit 8 2 = false from rfl, show Nat.testBit 8 3 = true from rfl]

theorem State.takeReport_of_selfFailed : s.takeReport g r x b 4 =
    if (s.enterReport x 4).group.suspected x then (s.enterReport x 4).declareDue x false else s.enterReport x 4 := by
  simp [State.takeReport, hc, show Nat.testBit 4 2 = true from rfl]

theorem State.takeReport_of_selfFailed_entered (h : s.group.suspected x = true ∨ s.group.suspects.length < 4096) (h4 : s.up 4 = true) :
    s.takeReport g r x b 4 = (s.enterReport x 4).declare x false := by
  rw [State.takeReport_of_selfFailed hc, if_pos (State.suspected_enterReport h), State.declareDue_of_up (by simpa using h4)]

theorem State.takeReport_of_selfFailed_full (hs : s.group.suspected x = false) (hlen : 4096 ≤ s.group.suspects.length) :
    s.takeReport g r x b 4 = s.modGroup (fun g => { g with drops := min 32767 (g.drops + 1) }) := by
  rw [State.takeReport_of_selfFailed hc, State.enterReport_of_full hs hlen, if_neg]
  exact Bool.eq_false_iff.1 hs

section
variable (hw : why < 4) (hr : why ≠ 0 ∨ x ≠ r)
include hw hr

/-- A report that asks neither for an abort nor for a declaration is observed; with the third in a row its suspect is declared. -/
theorem State.takeReport_of_observed : s.takeReport g r x b why =
    if 3 ≤ s.group.streakOf x s.bellNow ∧ (s.observe x why).group.suspected x then (s.observe x why).declareDue x true
    else s.observe x why := by
  have hself : ¬ (x = r ∧ why = 0) := fun h => hr.elim (· h.2) (· h.1)
  have h2 : why.testBit 2 = false := Nat.testBit_lt_two_pow hw
  have h3 : why.testBit 3 = false := Nat.testBit_lt_two_pow (Nat.lt_of_lt_of_le hw (by decide))
  simp only [State.takeReport, hc, hself, h2, h3]
  rfl

theorem State.takeReport_of_no_streak (hk : s.group.streakOf x s.bellNow < 3) : s.takeReport g r x b why = s.observe x why := by
  rw [State.takeReport_of_observed hc hw hr, if_neg fun h => Nat.not_le.2 hk h.1]

theorem State.takeReport_of_full (hs : s.group.suspected x = false) (hlen : 4096 ≤ s.group.suspects.length) :
    s.takeReport g r x b why = s.observe x why := by
  have hno : (s.observe x why).group.suspected x = false := by rw [State.observe_of_full hs hlen]; exact hs
  rw [State.takeReport_of_observed hc hw hr, if_neg (by simp [hno])]

theorem State.takeReport_of_streak (hk : 3 ≤ s.group.streakOf x s.bellNow) (hs : s.group.suspected x = true) (h4 : s.up 4 = true) :
    s.takeReport g r x b why = (s.observe x why).declare x true := by
  have hob := State.observe_of_suspected (why := why) hs
  have hin : (s.observe x why).group.suspected x = true := by
    rw [hob]
    exact (Group.suspected_modSuspect (f := Suspect.counted why) (fun _ => rfl) x).trans hs
  rw [State.takeReport_of_observed hc hw hr, if_pos ⟨hk, hin⟩, State.declareDue_of_up (by rw [hob]; exact h4)]

end
end
end

/-! Declarations (R378, R380, R381, R389, R390). -/

/-- The module judges a suspect: it is the coordinator, or the deputy for the coordinator. -/
def State.judges (s : State) (dev : Nat) : Prop := s.isCoordinator = true ∨ s.isDeputy = true ∧ dev = s.coordinator

section
variable {s : State} {dev : Nat}

theorem exec_suspectDeclare_of_unlisted (h : ∀ e ∈ s.group.suspects, e.dev ≠ dev) : exec (.suspectDeclare dev) s = .next s := by
  have hnone : s.group.suspects.find? (fun e => e.dev == dev) = none := List.find?_eq_none.2 (by simpa using h)
  show execSuspectDeclare dev s = _
  rw [execSuspectDeclare, hnone]

section
variable {e : Suspect} (he : s.group.suspects.find? (fun e => e.dev == dev) = some e)
include he

theorem exec_suspectDeclare_of_due (hb : e.first + 2 ≤ s.bellNow) (hj : s.judges dev) (h4 : s.up 4 = true) :
    exec (.suspectDeclare dev) s = .next (s.declare dev false) := by
  show execSuspectDeclare dev s = _
  simp only [State.judges] at hj
  simp [execSuspectDeclare, he, hb, hj, State.declareDue_of_up h4]

theorem exec_suspectDeclare_of_not_due (h : s.bellNow < e.first + 2 ∨ ¬ s.judges dev) : exec (.suspectDeclare dev) s = .next s := by
  have hno : ¬ (e.first + 2 ≤ s.bellNow ∧ s.judges dev) := fun hd => h.elim (Nat.not_lt.2 hd.1) (· hd.2)
  simp only [State.judges] at hno
  show execSuspectDeclare dev s = _
  simp [execSuspectDeclare, he, hno]

end

/-- The state that has told the session and the group of the failure of entry `e`'s module, and has aborted the group's contexts. -/
def State.announceFailed (s : State) (dev : Nat) (p : Bool) (e : Suspect) : State :=
  let t := (s.faultEvent dev (if p then 2 else 1) e.reason e.reports e.first ((s.chosen dev).getD 0xFFFF)).modGroup
    (fun g => g.dropSuspect dev)
  let u := (t.sendMsg t.groupTag dev (.notice dev (if p then 3 else 2))).failDevice dev
  (u.sendDown u.groupTag (.notice dev (if p then 3 else 2))).abortAll u.groupContexts

/-- A declaration, when no takeover under way has the suspect for its twin: the takeover is ordered, unless a new coordinator still
collects the states. -/
theorem State.declare_of_listed {e : Suspect} {p : Bool} (he : s.group.suspects.find? (fun e => e.dev == dev) = some e)
    (hno : ∀ t ∈ s.group.takeovers, t.twin ≠ dev) : s.declare dev p =
    if (s.announceFailed dev p e).group.newCoord then s.announceFailed dev p e
    else (s.announceFailed dev p e).orderTakeover ⟨dev, Table.get 0xFFFF s.group.twins dev, s.chosen dev⟩ := by
  have hlost : s.group.takeovers.filter (fun t => t.twin == dev && t.dev != dev && s.unheard t) = [] :=
    List.filter_eq_nil_iff.2 fun t ht => by simp [hno t ht]
  simp only [State.declare, hlost, he]
  rfl

end

/-- The decision that aborts every held step of a context (R378, R389). -/
def Ctx.abortDecision (x : Ctx) : Decision where
  step := match x.oldest with | some h => h.desc.step | none => 0
  gtag := x.gtag
  att := match x.oldest with | some h => h.attempt | none => 0
  outcome := 4
  skipWhy := 0
  flipBell := 0
  layers := []
  xmax := []

theorem State.orderAbort_eq (s : State) (c : Nat) : s.orderAbort c =
    if (s.ctx c).abortedAll then s.issueDecision (s.ctx c).abortDecision else s.decideAbort c (s.ctx c).abortDecision := rfl

/-- Settles O50: a report by what it says and by what the table holds, a declaration by the age of its entry, and its effects by whether a
new coordinator still collects the states. -/
theorem coordinatorJudges : Obligations.CoordinatorJudges := by
  unfold Obligations.CoordinatorJudges
  refine ⟨fun g r x b why s hc hd => ?stranger, fun g r x b why s hc hw hr => ?observed, fun g x b s hc => ?abortRequest,
    fun g r x b s hc => ?selfRemap, fun cs s => ⟨fun hn => ?abortNow, fun hn => ?abortOwed⟩, fun g r x b s hc h4 => ?selfFailed,
    fun dev s e he => ⟨exec_suspectDeclare_of_due he, exec_suspectDeclare_of_not_due he⟩, fun dev s => exec_suspectDeclare_of_unlisted,
    fun dev p e s he hno => ?declared, fun c s => ⟨(s.ctx c).abortDecision, rfl, rfl, s.orderAbort_eq c⟩⟩
  case stranger => rw [exec_report_taken, State.takeReport_of_stranger hc hd]
  case observed =>
    intro k t counted
    rw [exec_report_taken]
    refine ⟨fun hk hs hlen => ⟨fun h4 => ?_, fun h4 => ?_⟩, fun hs hlen => ?_, fun hk hs => ?_, fun hk hs h4 => ?_⟩
    · rw [State.takeReport_of_no_streak hc hw hr hk, State.observe_of_new_fp4_up hs hlen h4]; rfl
    · rw [State.takeReport_of_no_streak hc hw hr hk, State.observe_of_new_fp4_down hs hlen h4]; rfl
    · rw [State.takeReport_of_full hc hw hr hs hlen, State.observe_of_full hs hlen]; rfl
    · rw [State.takeReport_of_no_streak hc hw hr hk, State.observe_of_suspected hs]; rfl
    · rw [State.takeReport_of_streak hc hw hr hk hs h4, State.observe_of_suspected hs]; rfl
  case abortRequest => rw [exec_report_taken, State.takeReport_of_abortRequest hc]
  case selfRemap => rw [exec_report_taken, State.takeReport_of_selfRemap hc]
  case abortNow => exact if_neg (Bool.eq_false_iff.1 hn)
  case abortOwed => exact if_pos hn
  case selfFailed =>
    rw [exec_report_taken]
    exact ⟨fun h => ⟨congrArg _ (State.takeReport_of_selfFailed_entered hc h h4), State.suspected_enterReport h⟩,
      fun hs hlen => congrArg _ (State.takeReport_of_selfFailed_full hc hs hlen)⟩
  case declared =>
    intro t u v
    exact ⟨fun hn => (State.declare_of_listed he hno).trans (if_neg (Bool.eq_false_iff.1 hn)),
      fun hn => (State.declare_of_listed he hno).trans (if_pos hn)⟩

end Sys2Proof.Machine
end

section
/-! The lock of the security block: the anti-rollback counters and DEBUG (R504, R505, R508). Each operation of the model that a row can come
to, file by file, leaves the lock as it was, but for the ones that tighten it and the ones that can open debug; of every row then follows
what it can do to the lock. -/

namespace Sys2Proof.Machine

/-- The anti-rollback counters and the debug bit (R504, R508). -/
def Security.lock (x : Security) : Nat × Nat × Bool := (x.fwSvn, x.cfgSvn, x.debug)

@[simp] theorem Security.lock_poked (x : Security) (p : Table Byte) : ({ x with poked := p } : Security).lock = x.lock := rfl
@[simp] theorem Security.lock_cfgNext (x : Security) (p) : ({ x with cfgNext := p } : Security).lock = x.lock := rfl
@[simp] theorem Security.lock_nonce (x : Security) (p) : ({ x with nonce := p } : Security).lock = x.lock := rfl
@[simp] theorem Security.lock_dbgFail (x : Security) (p) : ({ x with dbgFail := p } : Security).lock = x.lock := rfl
@[simp] theorem Security.lock_meas (x : Security) (p) : ({ x with meas := p } : Security).lock = x.lock := rfl
@[simp] theorem Security.lock_testing (x : Security) (p) : ({ x with testing := p } : Security).lock = x.lock := rfl

@[simp] theorem lock_ite (p : Prop) [Decidable p] (s t : State) :
    (if p then s else t).sec.lock = if p then s.sec.lock else t.sec.lock := by split <;> rfl

@[simp] theorem lock_ite_fst {β : Type} (p : Prop) [Decidable p] (r r' : State × β) :
    (if p then r else r').1.sec.lock = if p then r.1.sec.lock else r'.1.sec.lock := by split <;> rfl

/-- A property of states that only the lock decides. -/
def ReadsLock (P : State → Prop) : Prop := ∀ s t, t.sec.lock = s.sec.lock → P s → P t

theorem ReadsLock.lock_eq (l : Nat × Nat × Bool) : ReadsLock (fun t => t.sec.lock = l) := fun _ _ h hs => h.trans hs

@[simp] theorem lock_foldl {α : Type} {f : State → α → State} (h : ∀ s a, (f s a).sec.lock = s.sec.lock) (xs : List α) (s : State) :
    (xs.foldl f s).sec.lock = s.sec.lock := foldl_keeps (fun r => r.sec.lock = s.sec.lock) f (fun r a hr => (h r a).trans hr) xs s rfl

@[simp] theorem State.after_next (s t : State) : s.after (.next t) = t := by simp only [State.after]

/-! Machine/Ops. -/

@[simp] theorem lock_setCroftOf (s : State) (c l : Nat) (x : Croft) :
    (s.setCroftOf c l x).sec.lock = s.sec.lock := by simp [State.setCroftOf]

@[simp] theorem lock_setStrmOf (s : State) (c l : Nat) (t : Strm) (y : Stream) :
    (s.setStrmOf c l t y).sec.lock = s.sec.lock := by simp [State.setStrmOf]

@[simp] theorem lock_mapCrofts (s : State) (c : Nat) (f : Croft → Croft) :
    (s.mapCrofts c f).sec.lock = s.sec.lock := by simp [State.mapCrofts]

@[simp] theorem lock_draw64 (s : State) : s.draw64.2.sec.lock = s.sec.lock := by simp [State.draw64]

@[simp] theorem lock_draw256 (s : State) : s.draw256.2.sec.lock = s.sec.lock := by simp [State.draw256]

@[simp] theorem lock_drawBytes (s : State) (n : Nat) : (s.drawBytes n).2.sec.lock = s.sec.lock := by simp [State.drawBytes]

@[simp] theorem lock_poke (s : State) (a : Nat) (bs : List Byte) : (s.poke a bs).sec.lock = s.sec.lock := by simp [State.poke]

@[simp] theorem lock_unpoke (s : State) (a n : Nat) : (s.unpoke a n).sec.lock = s.sec.lock := by simp [State.unpoke]

@[simp] theorem lock_ibi (s : State) (code : Nat) : (s.ibi code).sec.lock = s.sec.lock := by simp [State.ibi]

@[simp] theorem lock_setPhase (s : State) (p : Nat) : (s.setPhase p).sec.lock = s.sec.lock := by simp [State.setPhase]

/-! Machine/Events. -/

@[simp] theorem lock_cacheIn (s : State) (n : Nat) : (s.cacheIn n).sec.lock = s.sec.lock := by
  unfold State.cacheIn
  dsimp only
  split <;> simp

@[simp] theorem lock_enqueue (s : State) (n : Nat) (o : Output) : (s.enqueue n o).sec.lock = s.sec.lock := by simp [State.enqueue]

@[simp] theorem lock_transmit (s : State) (n : Nat) (o : Output) : (s.transmit n o).sec.lock = s.sec.lock := by simp [State.transmit]

@[simp] theorem lock_postAll (s : State) (n : Nat) (o : Owner) (count : Nat) (data : Bool) (outs : Nat → List Output) :
    (s.postAll n o count data outs).sec.lock = s.sec.lock := by simp [State.postAll]

@[simp] theorem lock_post (s : State) (n : Nat) (o : Owner) (count : Nat) (data : Bool) (out : Nat → Output) :
    (s.post n o count data out).sec.lock = s.sec.lock := by simp [State.post]

@[simp] theorem lock_postHost (s : State) (n : Nat) (ws : List (Nat × Reg × List Byte)) :
    (s.postHost n ws).sec.lock = s.sec.lock := by simp [State.postHost]

@[simp] theorem lock_writeEvent (s : State) (c : Nat) (e : Event) : (s.writeEvent c e).sec.lock = s.sec.lock := by simp [State.writeEvent]

@[simp] theorem lock_raise (s : State) (c : Nat) (tag code : Nat) (payload : List (Nat × Nat)) :
    (s.raise c tag code payload).sec.lock = s.sec.lock := by
  unfold State.raise
  dsimp only
  split <;> simp

@[simp] theorem lock_event (s : State) (c code : Nat) (payload : List (Nat × Nat)) :
    (s.event c code payload).sec.lock = s.sec.lock := by simp [State.event]

@[simp] theorem lock_eventAll (s : State) (code : Nat) (payload : List (Nat × Nat)) :
    (s.eventAll code payload).sec.lock = s.sec.lock := by simp [State.eventAll]

theorem lock_flushGo (n : Nat) (s : State) (c : Nat) : (flushGo n s c).sec.lock = s.sec.lock := by
  obtain ⟨x, q, w, h⟩ := flushGo_fields n s c
  rw [h]

@[simp] theorem lock_flushEvents (s : State) (c : Nat) : (s.flushEvents c).sec.lock = s.sec.lock := lock_flushGo _ s c

/-! Machine/Tally. -/

@[simp] theorem lock_applyChange (s : State) (c a : Nat) (n : Int) :
    (s.applyChange c a n).sec.lock = s.sec.lock := by simp [State.applyChange]

@[simp] theorem lock_firmwareTick (s : State) : s.firmwareTick.sec.lock = s.sec.lock := by simp [State.firmwareTick]

@[simp] theorem lock_change (s : State) (c a : Nat) (n : Int) (flight : Option Nat) :
    (s.change c a n flight).sec.lock = s.sec.lock := by simp [State.change]

@[simp] theorem lock_signal (s : State) (c a : Nat) (n : Nat) : (s.signal c a n).sec.lock = s.sec.lock := by simp [State.signal]

@[simp] theorem lock_withdraw (s : State) (l : Nat) (t : Strm) : (s.withdraw l t).sec.lock = s.sec.lock := by
  unfold State.withdraw
  dsimp only
  split <;> simp

@[simp] theorem lock_swapSemaphores (s : State) (out inn : Nat) :
    (s.swapSemaphores out inn).sec.lock = s.sec.lock := by simp [State.swapSemaphores]

@[simp] theorem lock_zeroSemaphores (s : State) (c : Nat) : (s.zeroSemaphores c).sec.lock = s.sec.lock := by
  unfold State.zeroSemaphores
  dsimp only
  split <;> simp

/-! Machine/Flags. -/

@[simp] theorem lock_faultAt (s : State) (l : Nat) (t : Strm) (code : Nat) :
    (s.faultAt l t code).sec.lock = s.sec.lock := by simp [State.faultAt]

@[simp] theorem lock_dropFlight (s : State) (id : Nat) : (s.dropFlight id).sec.lock = s.sec.lock := by simp [State.dropFlight]

@[simp] theorem lock_complete (s : State) (f : Flight) (code : Nat) : (s.complete f code).sec.lock = s.sec.lock := by simp [State.complete]

/-! Machine/Operands. -/

@[simp] theorem lock_advance (s : State) (l : Nat) (t : Strm) (bytes : Nat) :
    (s.advance l t bytes).sec.lock = s.sec.lock := by simp [State.advance]

@[simp] theorem lock_issue (s : State) (l : Nat) (t : Strm) (bytes : Nat) (n : Need) (op : FlightOp) (doneSem doneAdd : Nat)
    (far : Option Nat) (posted : Bool) :
    (s.issue l t bytes n op doneSem doneAdd far posted).sec.lock = s.sec.lock := by simp [State.issue]

/-! Machine/Control. -/

@[simp] theorem lock_shortForm (l : Nat) (t : Strm) (n : Need) (act : State → State) (s : State)
    (hact : ∀ s, (act s).sec.lock = s.sec.lock) :
    (s.after (shortForm l t n act s)).sec.lock = s.sec.lock := by simp [shortForm, hact]

@[simp] theorem lock_goTo (s : State) (l : Nat) (t : Strm) (target : Nat) (link : Bool) :
    (s.goTo l t target link).sec.lock = s.sec.lock := by simp [State.goTo]

@[simp] theorem lock_putS (s : State) (l : Nat) (t : Strm) (n : Nat) (v : Word) :
    (s.putS l t n v).sec.lock = s.sec.lock := by simp [State.putS]

@[simp] theorem lock_execNop (c : CroftId) (t : Strm) (_w : Word) (s : State) :
    (s.after (execNop c t _w s)).sec.lock = s.sec.lock := by simp [execNop]

@[simp] theorem lock_execJmp (c : CroftId) (t : Strm) (w : Word) (s : State) :
    (s.after (execJmp c t w s)).sec.lock = s.sec.lock := by simp [execJmp]

@[simp] theorem lock_execBr (c : CroftId) (t : Strm) (w : Word) (s : State) :
    (s.after (execBr c t w s)).sec.lock = s.sec.lock := by simp [execBr]

@[simp] theorem lock_execLoop (c : CroftId) (t : Strm) (w : Word) (s : State) :
    (s.after (execLoop c t w s)).sec.lock = s.sec.lock := by simp [execLoop]

@[simp] theorem lock_execCall (c : CroftId) (t : Strm) (w : Word) (s : State) :
    (s.after (execCall c t w s)).sec.lock = s.sec.lock := by simp [execCall]

@[simp] theorem lock_execRet (c : CroftId) (t : Strm) (_w : Word) (s : State) :
    (s.after (execRet c t _w s)).sec.lock = s.sec.lock := by simp [execRet]

@[simp] theorem lock_execSli (c : CroftId) (t : Strm) (w : Word) (s : State) :
    (s.after (execSli c t w s)).sec.lock = s.sec.lock := by simp [execSli]

@[simp] theorem lock_execSalu (c : CroftId) (t : Strm) (w : Word) (s : State) :
    (s.after (execSalu c t w s)).sec.lock = s.sec.lock := by simp [execSalu]

@[simp] theorem lock_execPset (c : CroftId) (t : Strm) (w : Word) (s : State) : (s.after (execPset c t w s)).sec.lock = s.sec.lock := by
  rw [execPset, lock_shortForm]
  exact fun _ => rfl

@[simp] theorem lock_execBellw (c : CroftId) (t : Strm) (w : Word) (s : State) :
    (s.after (execBellw c t w s)).sec.lock = s.sec.lock := by simp [execBellw]

@[simp] theorem lock_execRdstat (c : CroftId) (t : Strm) (w : Word) (s : State) :
    (s.after (execRdstat c t w s)).sec.lock = s.sec.lock := by simp [execRdstat]

@[simp] theorem lock_execRdctx (c : CroftId) (t : Strm) (w : Word) (s : State) :
    (s.after (execRdctx c t w s)).sec.lock = s.sec.lock := by simp [execRdctx]

@[simp] theorem lock_execHalt (c : CroftId) (t : Strm) (_w : Word) (s : State) :
    (s.after (execHalt c t _w s)).sec.lock = s.sec.lock := by simp [execHalt]

@[simp] theorem lock_execReservedOpcode (c : CroftId) (t : Strm) (_w : Word) (s : State) :
    (s.after (execReservedOpcode c t _w s)).sec.lock = s.sec.lock := by simp [execReservedOpcode]

@[simp] theorem lock_execInstructionWindowArrival (c : CroftId) (t : Strm) (window : Nat) (s : State) :
    (s.after (execInstructionWindowArrival c t window s)).sec.lock = s.sec.lock := by simp [execInstructionWindowArrival]

/-! Machine/Convert. -/

@[simp] theorem lock_issueConv (s : State) (l : Nat) (t : Strm) (bytes : Nat) (j : ConvJob) (sem add : Nat) :
    (s.issueConv l t bytes j sem add).sec.lock = s.sec.lock := by simp [State.issueConv]

@[simp] theorem lock_runConv (c : Nat) (t : Strm) (j : ConvJob) (s : State) : (runConv c t j s).sec.lock = s.sec.lock := by simp [runConv]

@[simp] theorem lock_execCvt (c : CroftId) (t : Strm) (w : Word) (s : State) :
    (s.after (execCvt c t w s)).sec.lock = s.sec.lock := by simp [execCvt]

@[simp] theorem lock_execCvtt (c : CroftId) (t : Strm) (w : Word) (s : State) :
    (s.after (execCvtt c t w s)).sec.lock = s.sec.lock := by simp [execCvtt]

@[simp] theorem lock_execConversionComplete (id : Nat) (s : State) : (s.after (execConversionComplete id s)).sec.lock = s.sec.lock := by
  unfold execConversionComplete
  (repeat' split) <;> simp

@[simp] theorem lock_execRot (c : CroftId) (t : Strm) (w : Word) (s : State) :
    (s.after (execRot c t w s)).sec.lock = s.sec.lock := by simp [execRot]

@[simp] theorem lock_execRotationComplete (id : Nat) (s : State) : (s.after (execRotationComplete id s)).sec.lock = s.sec.lock := by
  unfold execRotationComplete
  (repeat' split) <;> simp

@[simp] theorem lock_execStat (c : CroftId) (t : Strm) (w : Word) (s : State) :
    (s.after (execStat c t w s)).sec.lock = s.sec.lock := by simp [execStat]

@[simp] theorem lock_execStatRingWrite (id : Nat) (s : State) : (s.after (execStatRingWrite id s)).sec.lock = s.sec.lock := by
  unfold execStatRingWrite
  (repeat' split) <;> simp

/-! Machine/Matrix. -/

@[simp] theorem lock_longForm (l : Nat) (t : Strm) (n : Need) (act : State → State) (s : State)
    (hact : ∀ s, (act s).sec.lock = s.sec.lock) :
    (s.after (longForm l t n act s)).sec.lock = s.sec.lock := by simp [longForm, hact]

@[simp] theorem lock_issueMma (tr : Bool) (c : Nat) (t : Strm) (w : BitVec 128) (s : State) :
    (issueMma tr c t w s).sec.lock = s.sec.lock := by simp [issueMma]

@[simp] theorem lock_execMma (c : CroftId) (t : Strm) (w : BitVec 128) (s : State) :
    (s.after (execMma c t w s)).sec.lock = s.sec.lock := by simp [execMma]

@[simp] theorem lock_execMmat (c : CroftId) (t : Strm) (w : BitVec 128) (s : State) :
    (s.after (execMmat c t w s)).sec.lock = s.sec.lock := by simp [execMmat]

@[simp] theorem lock_execMmaBlockLanding (id : Nat) (s : State) : (s.after (execMmaBlockLanding id s)).sec.lock = s.sec.lock := by
  unfold execMmaBlockLanding
  (repeat' split) <;> simp

@[simp] theorem lock_execDrain (c : CroftId) (t : Strm) (w : BitVec 128) (s : State) :
    (s.after (execDrain c t w s)).sec.lock = s.sec.lock := by simp [execDrain]

@[simp] theorem lock_execAccld (c : CroftId) (t : Strm) (w : BitVec 128) (s : State) :
    (s.after (execAccld c t w s)).sec.lock = s.sec.lock := by simp [execAccld]

@[simp] theorem lock_execAccst (c : CroftId) (t : Strm) (w : BitVec 128) (s : State) :
    (s.after (execAccst c t w s)).sec.lock = s.sec.lock := by simp [execAccst]

@[simp] theorem lock_execComet (c : CroftId) (t : Strm) (w : BitVec 128) (s : State) :
    (s.after (execComet c t w s)).sec.lock = s.sec.lock := by simp [execComet]

@[simp] theorem lock_execCometComplete (id : Nat) (s : State) : (s.after (execCometComplete id s)).sec.lock = s.sec.lock := by
  unfold execCometComplete
  (repeat' split) <;> simp

/-! Machine/Numerics. -/

@[simp] theorem lock_writePage (s : State) (c : Nat) (h : HeldStep) : (s.writePage c h).sec.lock = s.sec.lock := by simp [State.writePage]

@[simp] theorem lock_openNumerics (s : State) (c step : Nat) : (s.openNumerics c step).sec.lock = s.sec.lock := by
  unfold State.openNumerics
  dsimp only
  split <;> simp

@[simp] theorem lock_enterHistory (s : State) (c : Nat) (h : HeldStep) (xmax : Table A40) (skipped : Bool) :
    (s.enterHistory c h xmax skipped).sec.lock = s.sec.lock := by simp [State.enterHistory]

@[simp] theorem lock_numEvent (s : State) (c : Nat) (h : HeldStep) (skipped : Bool) :
    (s.numEvent c h skipped).sec.lock = s.sec.lock := by simp [State.numEvent]

@[simp] theorem lock_commitNumerics (s : State) (c : Nat) (h : HeldStep) (xmax : Table A40) (skipped : Bool) :
    (s.commitNumerics c h xmax skipped).sec.lock = s.sec.lock := by simp [State.commitNumerics]

/-! Machine/Wire. -/

theorem State.admitFrame_keeps {P : State → Prop} (hP : ReadsLock P) {s : State} {fr : Frame} {k : State → State}
    (hk : ∀ t, P t → P (k t)) (h : P s) : P (s.admitFrame fr k) := by
  unfold State.admitFrame
  split
  · exact hP s _ rfl h
  · split
    · exact h
    · exact hk s h

@[simp] theorem lock_admitFrame (s : State) (fr : Frame) (k : State → State) (hk : ∀ s, (k s).sec.lock = s.sec.lock) :
    (s.admitFrame fr k).sec.lock = s.sec.lock := State.admitFrame_keeps (.lock_eq _) (fun t ht => (hk t).trans ht) rfl

@[simp] theorem lock_dropEgress (s : State) (p : Nat → Bool) : (s.dropEgress p).sec.lock = s.sec.lock := by simp [State.dropEgress]

@[simp] theorem lock_sendFrame (s : State) (k : Nat) : (s.sendFrame k).sec.lock = s.sec.lock := by
  unfold State.sendFrame
  (repeat' split) <;> simp

@[simp] theorem lock_portTick (s : State) : s.portTick.sec.lock = s.sec.lock := by
  unfold State.portTick
  exact lock_foldl lock_sendFrame _ _

/-! Machine/Hub. -/

@[simp] theorem lock_acked (s : State) (o : Owner) : (s.acked o).sec.lock = s.sec.lock := by simp [State.acked]

@[simp] theorem lock_abandon (s : State) (o : Owner) : (s.abandon o).sec.lock = s.sec.lock := by simp [State.abandon]

@[simp] theorem lock_congested (s : State) (n : Nat) : (s.congested n).sec.lock = s.sec.lock := by simp [State.congested]

@[simp] theorem lock_marked (s : State) (n : Nat) (ce : Bool) : (s.marked n ce).sec.lock = s.sec.lock := by simp [State.marked]

@[simp] theorem lock_heard (s : State) (o : Owner) (ce : Bool) : (s.heard o ce).sec.lock = s.sec.lock := by
  unfold State.heard
  (repeat' split) <;> simp

@[simp] theorem lock_rdmaException (s : State) (qpn syndrome psn : Nat) :
    (s.rdmaException qpn syndrome psn).sec.lock = s.sec.lock := by simp [State.rdmaException]

@[simp] theorem lock_spoil (s : State) (a len : Nat) : (s.spoil a len).sec.lock = s.sec.lock := by simp [State.spoil]

@[simp] theorem lock_spoilTile (s : State) (c l tile len : Nat) :
    (s.spoilTile c l tile len).sec.lock = s.sec.lock := by simp [State.spoilTile]

@[simp] theorem lock_spoilDest (s : State) (f : Flight) : (s.spoilDest f).sec.lock = s.sec.lock := by
  unfold State.spoilDest
  split
  case h_3 =>
    split
    · refine lock_foldl (fun _ _ => ?_) _ _
      rfl
    · rfl
  all_goals simp

@[simp] theorem lock_loseStep (s : State) (c step : Nat) : (s.loseStep c step).sec.lock = s.sec.lock := by simp [State.loseStep]

@[simp] theorem lock_failFlight (s : State) (f : Flight) (code : Nat) :
    (s.failFlight f code).sec.lock = s.sec.lock := by simp [State.failFlight]

@[simp] theorem lock_kill (s : State) (code : Nat) (f : Flight) : (s.kill code f).sec.lock = s.sec.lock := by simp [State.kill]

@[simp] theorem lock_stopStreams (s : State) (c code : Nat) : (s.stopStreams c code).sec.lock = s.sec.lock := by simp [State.stopStreams]

@[simp] theorem lock_parkDetached (s : State) (c : Nat) : (s.parkDetached c).sec.lock = s.sec.lock := by simp [State.parkDetached]

@[simp] theorem lock_askReport (s : State) (dev why : Nat) : (s.askReport dev why).sec.lock = s.sec.lock := by simp [State.askReport]

@[simp] theorem lock_startEntry (s : State) (c i : Nat) : (s.startEntry c i).1.sec.lock = s.sec.lock := by
  unfold State.startEntry
  dsimp only
  split <;> simp

theorem lock_walkGo (n : Nat) (s : State) (c : Nat) : (walkGo n s c).sec.lock = s.sec.lock := by
  induction n generalizing s with
  | zero => rfl
  | succ n ih =>
    unfold walkGo
    dsimp only
    split
    · rfl
    · split
      · split
        · simp [ih]
        · rfl
      · split
        · simp [ih]
        · rfl

@[simp] theorem lock_walk (s : State) (c : Nat) : (s.walk c).sec.lock = s.sec.lock := lock_walkGo _ s c

@[simp] theorem lock_startWalk (s : State) (c step : Nat) : (s.startWalk c step).sec.lock = s.sec.lock := by simp [State.startWalk]

@[simp] theorem lock_entryDone (s : State) (c i : Nat) : (s.entryDone c i).sec.lock = s.sec.lock := by simp [State.entryDone]

@[simp] theorem lock_entryWritten (s : State) (c i : Nat) : (s.entryWritten c i).sec.lock = s.sec.lock := by simp [State.entryWritten]

@[simp] theorem lock_failWork (s : State) (code : Nat) (w : WorkReq) : (s.failWork code w).sec.lock = s.sec.lock := by
  unfold State.failWork
  (repeat' split) <;> simp

@[simp] theorem lock_failFrom (s : State) (n : Nat) (lost : Bool) (k : Nat) :
    (s.failFrom n lost k).sec.lock = s.sec.lock := by simp [State.failFrom]

@[simp] theorem lock_failQp (s : State) (n : Nat) (lost : Bool) : (s.failQp n lost).sec.lock = s.sec.lock := by simp [State.failQp]

@[simp] theorem lock_failRest (s : State) (n : Nat) (lost : Bool) : (s.failRest n lost).sec.lock = s.sec.lock := by simp [State.failRest]

@[simp] theorem lock_exhaust (s : State) (n : Nat) : (s.exhaust n).sec.lock = s.sec.lock := by simp [State.exhaust]

@[simp] theorem lock_resolve (s : State) (n : Nat) : (s.resolve n).sec.lock = s.sec.lock := by simp [State.resolve]

@[simp] theorem lock_reestablish (s : State) (n : Nat) : (s.reestablish n).sec.lock = s.sec.lock := by simp [State.reestablish]

@[simp] theorem lock_newVoteQp (s : State) (dst : Nat) : (s.newVoteQp dst).2.sec.lock = s.sec.lock := by
  unfold State.newVoteQp
  split <;> simp

@[simp] theorem lock_keepVoteQp (s : State) (dst : Nat) : (s.keepVoteQp dst).2.sec.lock = s.sec.lock := by
  unfold State.keepVoteQp
  (repeat' split) <;> simp

@[simp] theorem lock_sendMsg (s : State) (gtag dst : Nat) (m : Msg) : (s.sendMsg gtag dst m).sec.lock = s.sec.lock := by
  unfold State.sendMsg
  split
  · rfl
  · dsimp only
    split <;> simp

@[simp] theorem lock_allCrofts (s : State) (c : Nat) (f : Croft → Croft) :
    (s.allCrofts c f).sec.lock = s.sec.lock := by simp [State.allCrofts]

@[simp] theorem lock_startStreams (s : State) (c : Nat) (f : Stream → Ptr → Nat → Stream) : (s.startStreams c f).sec.lock = s.sec.lock := by
  unfold State.startStreams
  split <;> simp

@[simp] theorem lock_resetSemaphores (s : State) (c : Nat) : (s.resetSemaphores c).sec.lock = s.sec.lock := by simp [State.resetSemaphores]

@[simp] theorem lock_restartContext (s : State) (c : Nat) (f : Stream → Ptr → Nat → Stream) :
    (s.restartContext c f).sec.lock = s.sec.lock := by simp [State.restartContext]

/-! Machine/Move. -/

@[simp] theorem lock_farSend (s : State) (n id len : Nat) (out : Nat → Output) : (s.farSend n id len out).sec.lock = s.sec.lock := by
  unfold State.farSend
  split <;> simp

@[simp] theorem lock_issueMove (s : State) (l : Nat) (t : Strm) (n : Need) (op : FlightOp) (p : Place) (len : Nat) (posted : Bool)
    (out : Nat → Output) :
    (s.issueMove l t n op p len posted out).sec.lock = s.sec.lock := by
  unfold State.issueMove
  split <;> simp

@[simp] theorem lock_loadBlocks (pre : Bool) (c : Nat) (t : Strm) (w : Word) (s : State) :
    (s.after (loadBlocks pre c t w s)).sec.lock = s.sec.lock := by
  rw [loadBlocks, lock_shortForm]
  intro s
  split <;> simp

@[simp] theorem lock_execLd (c : CroftId) (t : Strm) (w : Word) (s : State) :
    (s.after (execLd c t w s)).sec.lock = s.sec.lock := by simp [execLd]

@[simp] theorem lock_execPrefetch (c : CroftId) (t : Strm) (w : Word) (s : State) :
    (s.after (execPrefetch c t w s)).sec.lock = s.sec.lock := by simp [execPrefetch]

@[simp] theorem lock_execSt (c : CroftId) (t : Strm) (w : Word) (s : State) : (s.after (execSt c t w s)).sec.lock = s.sec.lock := by
  rw [execSt, lock_shortForm]
  intro s
  split <;> simp

@[simp] theorem lock_execLdt (c : CroftId) (t : Strm) (w : Word) (s : State) : (s.after (execLdt c t w s)).sec.lock = s.sec.lock := by
  rw [execLdt, lock_shortForm]
  intro s
  split <;> simp

@[simp] theorem lock_execStt (c : CroftId) (t : Strm) (w : Word) (s : State) : (s.after (execStt c t w s)).sec.lock = s.sec.lock := by
  rw [execStt, lock_shortForm]
  intro s
  split <;> simp

@[simp] theorem lock_gatherSend (s : State) (id size : Nat) (ms : List (Place × Nat)) :
    (s.gatherSend id size ms).sec.lock = s.sec.lock := by
  unfold State.gatherSend
  refine lock_foldl (fun s a => ?_) _ _
  split <;> simp

@[simp] theorem lock_execGather (c : CroftId) (t : Strm) (w : Word) (s : State) : (s.after (execGather c t w s)).sec.lock = s.sec.lock := by
  rw [execGather, lock_shortForm]
  intro s
  split
  · simp
  · split <;> simp

@[simp] theorem lock_copyBlocks (s : State) (a d len : Nat) : (s.copyBlocks a d len).sec.lock = s.sec.lock := by simp [State.copyBlocks]

theorem lock_moveResult {s : State} {f : Flight} {data : List Byte} {r : State × Nat} (h : s.moveResult f data = some r) :
    r.1.sec.lock = s.sec.lock := by
  unfold State.moveResult at h
  dsimp only at h
  split at h <;> cases h <;> simp

@[simp] theorem lock_execDataMoveComplete (id : Nat) (farData : Landed) (s : State) :
    (s.after (execDataMoveComplete id farData s)).sec.lock = s.sec.lock := by
  rw [execDataMoveComplete, State.after_next]
  split
  · split
    · simp
    · split
      next r hr => simp [lock_moveResult hr]
      · simp
  · simp

@[simp] theorem lock_prefetchStep (s : State) (f : Flight) (p : Place) (d blocks done : Nat) :
    (s.prefetchStep f p d blocks done).sec.lock = s.sec.lock := by simp [State.prefetchStep]

@[simp] theorem lock_execPrefetchBlockLanding (id : Nat) (farData : Landed) (s : State) :
    (s.after (execPrefetchBlockLanding id farData s)).sec.lock = s.sec.lock := by
  rw [execPrefetchBlockLanding, State.after_next]
  split
  · split
    · simp
    · split <;> simp
    · simp
  · simp

@[simp] theorem lock_execFarMemoryTimeout (id : Nat) (s : State) : (s.after (execFarMemoryTimeout id s)).sec.lock = s.sec.lock := by
  unfold execFarMemoryTimeout
  (repeat' split) <;> simp

/-! Machine/Net. -/

@[simp] theorem lock_execPut (c : CroftId) (t : Strm) (w : BitVec 128) (s : State) :
    (s.after (execPut c t w s)).sec.lock = s.sec.lock := by simp [execPut]

@[simp] theorem lock_execGet (c : CroftId) (t : Strm) (w : BitVec 128) (s : State) :
    (s.after (execGet c t w s)).sec.lock = s.sec.lock := by simp [execGet]

@[simp] theorem lock_execRedw (c : CroftId) (t : Strm) (w : BitVec 128) (s : State) :
    (s.after (execRedw c t w s)).sec.lock = s.sec.lock := by simp [execRedw]

@[simp] theorem lock_execNsig (c : CroftId) (t : Strm) (w : BitVec 128) (s : State) :
    (s.after (execNsig c t w s)).sec.lock = s.sec.lock := by simp [execNsig]

@[simp] theorem lock_netAck (s : State) (id : Nat) (kind : FlightOp → Bool) : (s.netAck id kind).sec.lock = s.sec.lock := by
  unfold State.netAck
  split <;> simp

@[simp] theorem lock_execPutAck (id : Marked) (s : State) : (s.after (execPutAck id s)).sec.lock = s.sec.lock := by simp [execPutAck]

@[simp] theorem lock_execNsigAck (id : Marked) (s : State) : (s.after (execNsigAck id s)).sec.lock = s.sec.lock := by simp [execNsigAck]

@[simp] theorem lock_getData (s : State) (id : Nat) (data : List Byte) : (s.getData id data).sec.lock = s.sec.lock := by
  unfold State.getData
  (repeat' split) <;> simp

@[simp] theorem lock_execGetResponse (id : Nat) (data : Landed) (s : State) :
    (s.after (execGetResponse id data s)).sec.lock = s.sec.lock := by simp [execGetResponse]

@[simp] theorem lock_faultFlight (s : State) (f : Flight) (code : Nat) :
    (s.faultFlight f code).sec.lock = s.sec.lock := by simp [State.faultFlight]

@[simp] theorem lock_execVote (c : CroftId) (t : Strm) (w : BitVec 128) (s : State) :
    (s.after (execVote c t w s)).sec.lock = s.sec.lock := by
  rw [execVote, lock_longForm]
  intro s
  split
  · rfl
  · split <;> simp

@[simp] theorem lock_execVoteRecorded (id : Nat) (s : State) : (s.after (execVoteRecorded id s)).sec.lock = s.sec.lock := by
  unfold execVoteRecorded
  (repeat' split) <;> simp

@[simp] theorem lock_updateForm (last : Bool) (l : Nat) (t : Strm) (w : BitVec 128) (n : Need) (act : Nat → HeldStep → State → State)
    (s : State) (hact : ∀ n h s, (act n h s).sec.lock = s.sec.lock) :
    (s.after (updateForm last l t w n act s)).sec.lock = s.sec.lock := by
  rw [updateForm, lock_longForm]
  intro s
  split
  · rfl
  · split
    · simp
    · split <;> simp [hact]

@[simp] theorem lock_execUpskip (c : CroftId) (t : Strm) (w : BitVec 128) (s : State) :
    (s.after (execUpskip c t w s)).sec.lock = s.sec.lock := by simp [execUpskip]

@[simp] theorem lock_execUpskipRecorded (id : Nat) (s : State) : (s.after (execUpskipRecorded id s)).sec.lock = s.sec.lock := by
  unfold execUpskipRecorded
  (repeat' split) <;> simp

@[simp] theorem lock_execUpcmt (c : CroftId) (t : Strm) (w : BitVec 128) (s : State) :
    (s.after (execUpcmt c t w s)).sec.lock = s.sec.lock := by simp [execUpcmt]

@[simp] theorem lock_execUpcmtRecorded (id : Nat) (s : State) : (s.after (execUpcmtRecorded id s)).sec.lock = s.sec.lock := by
  unfold execUpcmtRecorded
  (repeat' split) <;> simp

/-! Machine/Exchange. -/

@[simp] theorem lock_freeSlots (s : State) (c : Nat) : (s.freeSlots c).sec.lock = s.sec.lock := by simp [State.freeSlots]

@[simp] theorem lock_putTileSlot (s : State) (p : Nat) (x : Slot) : (s.putTileSlot p x).sec.lock = s.sec.lock := by simp [State.putTileSlot]

@[simp] theorem lock_addAt (s : State) (c : Nat) (h : ReduceHdr) (p : Nat) (rec : List Byte) :
    (s.addAt c h p rec).sec.lock = s.sec.lock := by simp [State.addAt]

@[simp] theorem lock_reducePacket (s : State) (c : Nat) (h : ReduceHdr) (recs : List (List Byte)) :
    (s.reducePacket c h recs).1.sec.lock = s.sec.lock := by
  unfold State.reducePacket
  dsimp only
  split
  · simp
  · split
    · rfl
    · rfl
    · split
      · rfl
      · simp

@[simp] theorem lock_keepInner (s : State) (id n : Nat) (inner : List (Nat × ReduceHdr × List (List Byte))) :
    (s.keepInner id n inner).sec.lock = s.sec.lock := by simp [State.keepInner]

theorem lock_innerGo (id n : Nat) (ps : List (Nat × ReduceHdr × List (List Byte))) (s : State) :
    (innerGo id n s ps).sec.lock = s.sec.lock := by
  induction ps generalizing s with
  | nil => simp [innerGo]
  | cons p ps ih =>
    obtain ⟨psn, h, recs⟩ := p
    unfold innerGo
    dsimp only
    split
    · simp [ih]
    · simp
    · split
      · simp
      · split <;> simp

@[simp] theorem lock_redwDone (s : State) (id : Nat) : (s.redwDone id).sec.lock = s.sec.lock := by
  unfold State.redwDone
  split
  · split
    · simp [lock_innerGo]
    · simp
  · simp

@[simp] theorem lock_execRedwAck (id : Marked) (s : State) : (s.after (execRedwAck id s)).sec.lock = s.sec.lock := by simp [execRedwAck]

/-! Machine/Mill. -/

@[simp] theorem lock_mirror (s : State) (c step a len : Nat) : (s.mirror c step a len).sec.lock = s.sec.lock := by simp [State.mirror]

@[simp] theorem lock_millWrite (s : State) (c step a : Nat) (bs : List Byte) :
    (s.millWrite c step a bs).sec.lock = s.sec.lock := by simp [State.millWrite]

@[simp] theorem lock_mirrorRes (s : State) (c : Nat) (d : Shard) : (s.mirrorRes c d).sec.lock = s.sec.lock := by simp [State.mirrorRes]

@[simp] theorem lock_execUpel (c : CroftId) (t : Strm) (w : BitVec 128) (s : State) :
    (s.after (execUpel c t w s)).sec.lock = s.sec.lock := by simp [execUpel]

@[simp] theorem lock_releasePos (s : State) (c : Nat) (d : Shard) (p : Nat) :
    (s.releasePos c d p).sec.lock = s.sec.lock := by simp [State.releasePos]

@[simp] theorem lock_faultUpel (s : State) (c : Nat) (d : Shard) : (s.faultUpel c d).sec.lock = s.sec.lock := by simp [State.faultUpel]

@[simp] theorem lock_deliver (s : State) (c : Nat) (d : Shard) (p t : Nat) :
    (s.deliver c d p t).sec.lock = s.sec.lock := by simp [State.deliver]

@[simp] theorem lock_execFrontHandover (pos : Nat) (s : State) : (s.after (execFrontHandover pos s)).sec.lock = s.sec.lock := by
  rw [execFrontHandover, State.after_next]
  dsimp only
  split
  · rfl
  · split <;> simp

@[simp] theorem lock_stationWork (s : State) (j : StationJob) : (s.stationWork j).sec.lock = s.sec.lock := by
  unfold State.stationWork
  split <;> simp

@[simp] theorem lock_leavePos (s : State) (j : StationJob) : (s.leavePos j).sec.lock = s.sec.lock := by simp [State.leavePos]

@[simp] theorem lock_execStationTileDone (stack : Fin 8) (s : State) : (s.after (execStationTileDone stack s)).sec.lock = s.sec.lock := by
  unfold execStationTileDone
  split <;> simp

@[simp] theorem lock_clearStations (s : State) (c : Nat) (keep : Nat → Bool) :
    (s.clearStations c keep).sec.lock = s.sec.lock := by simp [State.clearStations]

@[simp] theorem lock_execUpelComplete (id : Nat) (s : State) : (s.after (execUpelComplete id s)).sec.lock = s.sec.lock := by
  unfold execUpelComplete
  (repeat' split) <;> simp

@[simp] theorem lock_execUplw (c : CroftId) (t : Strm) (w : BitVec 128) (s : State) :
    (s.after (execUplw c t w s)).sec.lock = s.sec.lock := by simp [execUplw]

@[simp] theorem lock_execUplwComplete (id : Nat) (s : State) : (s.after (execUplwComplete id s)).sec.lock = s.sec.lock := by
  unfold execUplwComplete
  (repeat' split) <;> simp

@[simp] theorem lock_execMirrorAck (id : Marked) (s : State) :
    (s.after (execMirrorAck id s)).sec.lock = s.sec.lock := by simp [execMirrorAck]

@[simp] theorem lock_keepMaps (s : State) (c step : Nat) : (s.keepMaps c step).sec.lock = s.sec.lock := by simp [State.keepMaps]

/-! Machine/Ledger. -/

@[simp] theorem lock_sendDown (s : State) (gtag : Nat) (m : Msg) : (s.sendDown gtag m).sec.lock = s.sec.lock := by simp [State.sendDown]

@[simp] theorem lock_hearParent (s : State) : s.hearParent.sec.lock = s.sec.lock := by simp [State.hearParent]

@[simp] theorem lock_openEntry (s : State) (c step : Nat) : (s.openEntry c step).sec.lock = s.sec.lock := by simp [State.openEntry]

@[simp] theorem lock_openEntries (s : State) (c : Nat) : (s.openEntries c).sec.lock = s.sec.lock := by
  unfold State.openEntries
  refine lock_foldl (fun s a => ?_) _ _
  split <;> simp

@[simp] theorem lock_abortCtx (s : State) (c : Nat) : (s.abortCtx c).sec.lock = s.sec.lock := by simp [State.abortCtx]

@[simp] theorem lock_faultAbort (s : State) (c : Nat) : (s.faultAbort c).sec.lock = s.sec.lock := by simp [State.faultAbort]

@[simp] theorem lock_numericsAbort (s : State) (c : Nat) (d : Decision) :
    (s.numericsAbort c d).sec.lock = s.sec.lock := by simp [State.numericsAbort]

@[simp] theorem lock_parkCtx (s : State) (c : Nat) : (s.parkCtx c).sec.lock = s.sec.lock := by simp [State.parkCtx]

@[simp] theorem lock_spoilStore (s : State) (c : Nat) : (s.spoilStore c).sec.lock = s.sec.lock := by simp [State.spoilStore]

@[simp] theorem lock_sendNumerics (s : State) (c : Nat) : (s.sendNumerics c).sec.lock = s.sec.lock := by simp [State.sendNumerics]

@[simp] theorem lock_sendLedger (s : State) (c : Nat) (d : StepDesc) :
    (s.sendLedger c d).sec.lock = s.sec.lock := by simp [State.sendLedger]

@[simp] theorem lock_resendLedger (s : State) (c : Nat) : (s.resendLedger c).sec.lock = s.sec.lock := by simp [State.resendLedger]

@[simp] theorem lock_twinBack (s : State) (n : Nat) : (s.twinBack n).sec.lock = s.sec.lock := by simp [State.twinBack]

@[simp] theorem lock_flipMirrors (s : State) (c : Nat) (skipped : Bool) : (s.flipMirrors c skipped).sec.lock = s.sec.lock := by
  unfold State.flipMirrors
  refine lock_foldl (fun _ _ => ?_) _ _
  rfl

@[simp] theorem lock_commitStep (s : State) (c : Nat) (d : Decision) : (s.commitStep c d).sec.lock = s.sec.lock := by
  unfold State.commitStep
  split <;> simp

@[simp] theorem lock_flipDue (s : State) (c : Nat) : (s.flipDue c).sec.lock = s.sec.lock := by
  unfold State.flipDue
  refine (lock_foldl (fun s n => ?_) _ _).trans (by simp)
  split <;> simp

@[simp] theorem lock_restoreBlocks (s : State) : s.restoreBlocks.sec.lock = s.sec.lock := by
  have ht : ∀ u : State, (s.badStores.foldl (fun s e => s.modCtx e.1 (fun x => x.loadStore e.2)) u).sec.lock = u.sec.lock := by
    refine lock_foldl (fun _ _ => ?_) _
    rfl
  simp [State.restoreBlocks, ht]

@[simp] theorem lock_rebind (s : State) (n dev : Nat) : (s.rebind n dev).sec.lock = s.sec.lock := by
  unfold State.rebind
  dsimp only
  split <;> simp

@[simp] theorem lock_copyOut (s : State) (c : Nat) : (s.copyOut c).sec.lock = s.sec.lock := by simp [State.copyOut]

@[simp] theorem lock_sendTwinCopies (s : State) (dev : Nat) : (s.sendTwinCopies dev).sec.lock = s.sec.lock := by simp [State.sendTwinCopies]

@[simp] theorem lock_recoverQp (s : State) (c n : Nat) : (s.recoverQp c n).sec.lock = s.sec.lock := by simp [State.recoverQp]

@[simp] theorem lock_recoverQps (s : State) (c : Nat) : (s.recoverQps c).sec.lock = s.sec.lock := by simp [State.recoverQps]

@[simp] theorem lock_rerun (s : State) (c : Nat) : (s.rerun c).sec.lock = s.sec.lock := by simp [State.rerun]

@[simp] theorem lock_finishResume (s : State) (c : Nat) : (s.finishResume c).sec.lock = s.sec.lock := by simp [State.finishResume]

@[simp] theorem lock_resumeDue (s : State) (c : Nat) : (s.resumeDue c).sec.lock = s.sec.lock := by
  unfold State.resumeDue
  split <;> simp

@[simp] theorem lock_execQuietReached (ctx : CtxId) (s : State) :
    (s.after (execQuietReached ctx s)).sec.lock = s.sec.lock := by simp [execQuietReached]

@[simp] theorem lock_applyDecision (s : State) (c : Nat) (d : Decision) : (s.applyDecision c d).sec.lock = s.sec.lock := by
  unfold State.applyDecision
  dsimp only
  split
  · split <;> simp
  · split <;> simp
  · split <;> simp
  · split <;> simp
  · simp
  · simp

@[simp] theorem lock_takeDecision (s : State) (d : Decision) : (s.takeDecision d).sec.lock = s.sec.lock := by simp [State.takeDecision]

@[simp] theorem lock_issueDecision (s : State) (d : Decision) : (s.issueDecision d).sec.lock = s.sec.lock := by simp [State.issueDecision]

@[simp] theorem lock_drawFlip (s : State) : s.drawFlip.2.sec.lock = s.sec.lock := by simp [State.drawFlip]

@[simp] theorem lock_endRun (s : State) (c : Nat) : (s.endRun c).sec.lock = s.sec.lock := by simp [State.endRun]

@[simp] theorem lock_decideAbort (s : State) (c : Nat) (d : Decision) :
    (s.decideAbort c d).sec.lock = s.sec.lock := by simp [State.decideAbort]

@[simp] theorem lock_decide (s : State) (c : Nat) (m : Ballot) : (s.decide c m).sec.lock = s.sec.lock := by simp [State.decide]

@[simp] theorem lock_mergeBallot (s : State) (c voter : Nat) (b : Ballot) : (s.mergeBallot c voter b).sec.lock = s.sec.lock := by
  unfold State.mergeBallot
  split
  · rfl
  · split
    · rfl
    · dsimp only
      (repeat' split) <;> simp

@[simp] theorem lock_takeBallot (s : State) (src : Nat) (b : Ballot) : (s.takeBallot src b).sec.lock = s.sec.lock := by
  unfold State.takeBallot
  (repeat' split) <;> simp

@[simp] theorem lock_takeEarly (s : State) (c : Nat) : (s.takeEarly c).sec.lock = s.sec.lock := by simp [State.takeEarly]

@[simp] theorem lock_decisionIn (s : State) (d : Decision) : (s.decisionIn d).sec.lock = s.sec.lock := by simp [State.decisionIn]

@[simp] theorem lock_settleMaps (s : State) (c n : Nat) : (s.settleMaps c n).sec.lock = s.sec.lock := by
  unfold State.settleMaps
  split <;> simp

@[simp] theorem lock_endCheck (s : State) (c n : Nat) : (s.endCheck c n).sec.lock = s.sec.lock := by simp [State.endCheck]

@[simp] theorem lock_execNumericsCheck (ctx : CtxId) (step : Nat) (s : State) :
    (s.after (execNumericsCheck ctx step s)).sec.lock = s.sec.lock := by
  unfold execNumericsCheck
  dsimp only
  split <;> simp

@[simp] theorem lock_castBallots (s : State) (c : Nat) : (s.castBallots c).sec.lock = s.sec.lock := by
  unfold State.castBallots
  refine lock_foldl (fun s a => ?_) _ _
  dsimp only
  split <;> simp

@[simp] theorem lock_execGatherEntryComplete (ctx : CtxId) (entry : Marked) (s : State) :
    (s.after (execGatherEntryComplete ctx entry s)).sec.lock = s.sec.lock := by
  unfold execGatherEntryComplete
  split <;> simp

@[simp] theorem lock_execTwinLedgerAck (ctx : CtxId) (step : Marked) (s : State) :
    (s.after (execTwinLedgerAck ctx step s)).sec.lock = s.sec.lock := by simp [execTwinLedgerAck]

/-! Machine/Group. -/

@[simp] theorem lock_keepTree (s : State) : s.keepTree.sec.lock = s.sec.lock := by simp [State.keepTree]

@[simp] theorem lock_fence (s : State) : s.fence.sec.lock = s.sec.lock := by simp [State.fence]

@[simp] theorem lock_faultEvent (s : State) (suspect outcome reason reports firstBell standin : Nat) :
    (s.faultEvent suspect outcome reason reports firstBell standin).sec.lock = s.sec.lock := by simp [State.faultEvent]

@[simp] theorem lock_orderAbort (s : State) (c : Nat) : (s.orderAbort c).sec.lock = s.sec.lock := by simp [State.orderAbort]

@[simp] theorem lock_abortAll (s : State) (cs : List Nat) : (s.abortAll cs).sec.lock = s.sec.lock := by simp [State.abortAll]

@[simp] theorem lock_takeLoss (s : State) (gtag dev : Nat) (mask : BitVec 16) :
    (s.takeLoss gtag dev mask).sec.lock = s.sec.lock := by simp [State.takeLoss]

@[simp] theorem lock_orderLoss (s : State) (dev : Nat) : (s.orderLoss dev).sec.lock = s.sec.lock := by simp [State.orderLoss]

@[simp] theorem lock_orderTakeover (s : State) (t : Takeover) : (s.orderTakeover t).sec.lock = s.sec.lock := by
  unfold State.orderTakeover
  split <;> simp

@[simp] theorem lock_takeStates (s : State) : s.takeStates.sec.lock = s.sec.lock := by simp [State.takeStates]

@[simp] theorem lock_loseQps (s : State) (dev : Nat) : (s.loseQps dev).sec.lock = s.sec.lock := by simp [State.loseQps]

@[simp] theorem lock_dropPeer (s : State) (dev : Nat) : (s.dropPeer dev).sec.lock = s.sec.lock := by simp [State.dropPeer]

@[simp] theorem lock_resumeFp2 (s : State) : s.resumeFp2.sec.lock = s.sec.lock := by simp [State.resumeFp2]

@[simp] theorem lock_loseTwin (s : State) (dev : Nat) : (s.loseTwin dev).sec.lock = s.sec.lock := by simp [State.loseTwin]

@[simp] theorem lock_coordChange (s : State) (old : Nat) : (s.coordChange old).sec.lock = s.sec.lock := by simp [State.coordChange]

@[simp] theorem lock_oweCopies (s : State) (dev : Nat) (ok : Bool) : (s.oweCopies dev ok).sec.lock = s.sec.lock := by
  unfold State.oweCopies
  refine lock_foldl (fun _ _ => ?_) _ _
  rfl

@[simp] theorem lock_failDevice (s : State) (dev : Nat) : (s.failDevice dev).sec.lock = s.sec.lock := by simp [State.failDevice]

@[simp] theorem lock_declare (s : State) (dev : Nat) (partFail : Bool) :
    (s.declare dev partFail).sec.lock = s.sec.lock := by simp [State.declare]

@[simp] theorem lock_requestUnsent (s : State) (suspect : Nat) : (s.requestUnsent suspect).sec.lock = s.sec.lock := by
  unfold State.requestUnsent
  split
  · refine lock_foldl (fun _ _ => ?_) _ _
    rfl
  · rfl

@[simp] theorem lock_clearSuspect (s : State) (dev : Nat) : (s.clearSuspect dev).sec.lock = s.sec.lock := by
  unfold State.clearSuspect
  split <;> simp

@[simp] theorem lock_declareDue (s : State) (dev : Nat) (partFail : Bool) :
    (s.declareDue dev partFail).sec.lock = s.sec.lock := by simp [State.declareDue]

@[simp] theorem lock_enterReport (s : State) (suspect reason : Nat) :
    (s.enterReport suspect reason).sec.lock = s.sec.lock := by simp [State.enterReport]

@[simp] theorem lock_probeSuspect (s : State) (dev : Nat) : (s.probeSuspect dev).sec.lock = s.sec.lock := by simp [State.probeSuspect]

@[simp] theorem lock_takeReport (s : State) (gtag reporter suspect bell reason : Nat) :
    (s.takeReport gtag reporter suspect bell reason).sec.lock = s.sec.lock := by simp [State.takeReport]

@[simp] theorem lock_execSuspectDeclare (dev : Nat) (s : State) : (s.after (execSuspectDeclare dev s)).sec.lock = s.sec.lock := by
  unfold execSuspectDeclare
  split <;> simp

@[simp] theorem lock_takeProbe (s : State) (src suspect : Nat) :
    (s.takeProbe src suspect).sec.lock = s.sec.lock := by simp [State.takeProbe]

@[simp] theorem lock_takeResume (s : State) (bell : Nat) (mask : BitVec 16) (ok : Nat → Bool) :
    (s.takeResume bell mask ok).sec.lock = s.sec.lock := by
  unfold State.takeResume
  refine lock_foldl (fun _ _ => ?_) _ _
  rfl

@[simp] theorem lock_tryResume (s : State) : s.tryResume.sec.lock = s.sec.lock := by simp [State.tryResume]

@[simp] theorem lock_takeHeartbeat (s : State) (src : Nat) (quiet : BitVec 16) :
    (s.takeHeartbeat src quiet).sec.lock = s.sec.lock := by simp [State.takeHeartbeat]

@[simp] theorem lock_sendReport (s : State) (dev why : Nat) : (s.sendReport dev why).sec.lock = s.sec.lock := by
  unfold State.sendReport
  split
  · rfl
  · dsimp only
    split
    · split <;> simp
    · split <;> simp

@[simp] theorem lock_sendAbortRequest (s : State) (gtag : Nat) :
    (s.sendAbortRequest gtag).sec.lock = s.sec.lock := by simp [State.sendAbortRequest]

@[simp] theorem lock_execHeartbeatTimeout (dev : Nat) (s : State) :
    (s.after (execHeartbeatTimeout dev s)).sec.lock = s.sec.lock := by simp [execHeartbeatTimeout]

@[simp] theorem lock_execParentSilence (s : State) : (s.after (execParentSilence s)).sec.lock = s.sec.lock := by simp [execParentSilence]

@[simp] theorem lock_takeNotice (s : State) (suspect kind : Nat) : (s.takeNotice suspect kind).sec.lock = s.sec.lock := by
  unfold State.takeNotice
  split <;> simp

@[simp] theorem lock_resumeIn (s : State) (gtag bell : Nat) (mask : BitVec 16) :
    (s.resumeIn gtag bell mask).sec.lock = s.sec.lock := by simp [State.resumeIn]

@[simp] theorem lock_takeState (s : State) (gtag src : Nat) (d : Option Decision) :
    (s.takeState gtag src d).sec.lock = s.sec.lock := by simp [State.takeState]

@[simp] theorem lock_takeAddr (s : State) (a : PortAddr) : (s.takeAddr a).sec.lock = s.sec.lock := by simp [State.takeAddr]

@[simp] theorem lock_announce (s : State) : s.announce.sec.lock = s.sec.lock := by
  unfold State.announce
  refine lock_foldl (fun _ _ => ?_) _ _
  rfl

@[simp] theorem lock_takeOver (s : State) (dev twin : Nat) (addrs : List PortAddr) :
    (s.takeOver dev twin addrs).sec.lock = s.sec.lock := by simp [State.takeOver]

@[simp] theorem lock_execGratuitousArp (s : State) : (s.after (execGratuitousArp s)).sec.lock = s.sec.lock := by simp [execGratuitousArp]

@[simp] theorem lock_lossIn (s : State) (gtag dev : Nat) (mask : BitVec 16) :
    (s.lossIn gtag dev mask).sec.lock = s.sec.lock := by simp [State.lossIn]

@[simp] theorem lock_recoverAll (s : State) : s.recoverAll.sec.lock = s.sec.lock := by simp [State.recoverAll]

@[simp] theorem lock_sendHeartbeats (s : State) : s.sendHeartbeats.sec.lock = s.sec.lock := by simp [State.sendHeartbeats]

@[simp] theorem lock_countSilence (s : State) : s.countSilence.sec.lock = s.sec.lock := by simp [State.countSilence]

@[simp] theorem lock_declareWaiting (s : State) : s.declareWaiting.sec.lock = s.sec.lock := by
  unfold State.declareWaiting
  refine (lock_foldl (fun s e => ?_) _ _).trans (by simp)
  split <;> simp

@[simp] theorem lock_askLost (s : State) : s.askLost.sec.lock = s.sec.lock := by
  unfold State.askLost
  split
  · rfl
  · refine lock_foldl (fun _ _ => ?_) _ _
    rfl

@[simp] theorem lock_sendReports (s : State) : s.sendReports.sec.lock = s.sec.lock := by simp [State.sendReports]

@[simp] theorem lock_joinDue (s : State) : s.joinDue.sec.lock = s.sec.lock := by simp [State.joinDue]

/-! Machine/Power. -/

@[simp] theorem lock_powerEvent (s : State) (kind : Nat) (dom : Option (Nat × Nat)) : (s.powerEvent kind dom).sec.lock = s.sec.lock := by
  unfold State.powerEvent
  split <;> simp

@[simp] theorem lock_startEmergency (s : State) : s.startEmergency.sec.lock = s.sec.lock := by simp [State.startEmergency]

@[simp] theorem lock_execPwrAlert (s : State) : (s.after (execPwrAlert s)).sec.lock = s.sec.lock := by simp [execPwrAlert]

@[simp] theorem lock_execAlertEnd (s : State) : (s.after (execAlertEnd s)).sec.lock = s.sec.lock := by simp [execAlertEnd]

@[simp] theorem lock_trip (s : State) (d : Nat) : (s.trip d).sec.lock = s.sec.lock := by simp [State.trip]

@[simp] theorem lock_execTripClear (domain : Nat) (s : State) :
    (s.after (execTripClear domain s)).sec.lock = s.sec.lock := by simp [execTripClear]

@[simp] theorem lock_moveThermal (s : State) : s.moveThermal.sec.lock = s.sec.lock := by simp [State.moveThermal]

@[simp] theorem lock_chooseClock (s : State) (m : PowerMeas) (old oldCap : Nat) : (s.chooseClock m old oldCap).sec.lock = s.sec.lock := by
  unfold State.chooseClock
  dsimp only
  split
  · rfl
  · split
    · rfl
    · split <;> (try split) <;> (try split) <;> simp

@[simp] theorem lock_setCapped (s : State) (c : Bool) : (s.setCapped c).sec.lock = s.sec.lock := by simp [State.setCapped]

@[simp] theorem lock_applyClock (s : State) : s.applyClock.sec.lock = s.sec.lock := by simp [State.applyClock]

@[simp] theorem lock_powerTick (s : State) (m : PowerMeas) (old oldCap : Nat) :
    (s.powerTick m old oldCap).sec.lock = s.sec.lock := by simp [State.powerTick]

@[simp] theorem lock_bootFailed (s : State) (why : Nat) : (s.bootFailed why).sec.lock = s.sec.lock := by simp [State.bootFailed]

@[simp] theorem lock_loadRecord (s : State) : s.loadRecord.sec.lock = s.sec.lock := by simp [State.loadRecord]

@[simp] theorem lock_align (s : State) : s.align.sec.lock = s.sec.lock := by simp [State.align]

@[simp] theorem lock_lockTime (s : State) : s.lockTime.sec.lock = s.sec.lock := by simp [State.lockTime]

@[simp] theorem lock_train (s : State) (port sub : Nat) : (s.train port sub).sec.lock = s.sec.lock := by simp [State.train]

@[simp] theorem lock_execHbmTrainDone (ok : Bool) (s : State) :
    (s.after (execHbmTrainDone ok s)).sec.lock = s.sec.lock := by simp [execHbmTrainDone]

@[simp] theorem lock_execLinkUpTimeout (s : State) : (s.after (execLinkUpTimeout s)).sec.lock = s.sec.lock := by simp [execLinkUpTimeout]

@[simp] theorem lock_correctLanes (s : State) (port sub : Nat) : (s.correctLanes port sub).sec.lock = s.sec.lock := by
  unfold State.correctLanes
  split <;> simp

@[simp] theorem lock_execLinkUp (port sub : Nat) (s : State) : (s.after (execLinkUp port sub s)).sec.lock = s.sec.lock := by
  rw [execLinkUp, State.after_next]
  split
  · rfl
  · dsimp only
    split <;> simp

@[simp] theorem lock_execLinkDown (port sub : Nat) (s : State) :
    (s.after (execLinkDown port sub s)).sec.lock = s.sec.lock := by simp [execLinkDown]

@[simp] theorem lock_execSetdasa (static dynamic : Nat) (s : State) :
    (s.after (execSetdasa static dynamic s)).sec.lock = s.sec.lock := by simp [execSetdasa]

@[simp] theorem lock_execEntdaa (dynamic : Nat) (s : State) : (s.after (execEntdaa dynamic s)).sec.lock = s.sec.lock := by simp [execEntdaa]

@[simp] theorem lock_execSidebandWrite (index : Nat) (v : Option Reg) (s : State) :
    (s.after (execSidebandWrite index v s)).sec.lock = s.sec.lock := by
  unfold execSidebandWrite
  (repeat' split) <;> simp

@[simp] theorem lock_execRingOscillatorMeasure (drift0 drift1 : Int) (s : State) :
    (s.after (execRingOscillatorMeasure drift0 drift1 s)).sec.lock = s.sec.lock := by simp [execRingOscillatorMeasure]

@[simp] theorem lock_execHealthDailyUpdate (ce24 : List Nat) (eye : List Nat) (s : State) :
    (s.after (execHealthDailyUpdate ce24 eye s)).sec.lock = s.sec.lock := by simp [execHealthDailyUpdate]

/-! Machine/Window. -/

@[simp] theorem lock_putSaved (s : State) (a : Nat) (xs : List Byte) : (s.putSaved a xs).sec.lock = s.sec.lock := by
  induction xs generalizing s a with
  | nil => rfl
  | cons b bs ih =>
    rw [State.putSaved, ih]
    split <;> simp

/-! Machine/Ports. -/

@[simp] theorem lock_execArpRequest (port sub : Nat) (target : BitVec 32) (s : State) :
    (s.after (execArpRequest port sub target s)).sec.lock = s.sec.lock := by simp [execArpRequest]

@[simp] theorem lock_execNeighborSolicitation (port sub : Nat) (target : BitVec 128) (s : State) :
    (s.after (execNeighborSolicitation port sub target s)).sec.lock = s.sec.lock := by simp [execNeighborSolicitation]

@[simp] theorem lock_execEchoRequest (port sub : Nat) (target : BitVec 128) (echo : Echo) (s : State) :
    (s.after (execEchoRequest port sub target echo s)).sec.lock = s.sec.lock := by simp [execEchoRequest]

@[simp] theorem lock_execPfcFrame (port sub prio : Nat) (xoff : Bool) (s : State) :
    (s.after (execPfcFrame port sub prio xoff s)).sec.lock = s.sec.lock := by simp [execPfcFrame]

@[simp] theorem lock_pauseIn (s : State) (k prio : Nat) : (s.pauseIn k prio).sec.lock = s.sec.lock := by simp [State.pauseIn]

@[simp] theorem lock_unpause (s : State) : s.unpause.sec.lock = s.sec.lock := by
  unfold State.unpause
  refine lock_foldl (fun _ _ => ?_) _ _
  rfl

@[simp] theorem lock_execPfcStorm (port sub prio : Nat) (s : State) :
    (s.after (execPfcStorm port sub prio s)).sec.lock = s.sec.lock := by simp [execPfcStorm]

@[simp] theorem lock_timed (s : State) (st : Nat) : (s.timed st).sec.lock = s.sec.lock := by
  unfold State.timed
  dsimp only
  split <;> simp

@[simp] theorem lock_holdover (s : State) : s.holdover.sec.lock = s.sec.lock := by simp [State.holdover]

@[simp] theorem lock_askDelay (s : State) (port : Nat) : (s.askDelay port).sec.lock = s.sec.lock := by simp [State.askDelay]

@[simp] theorem lock_execPtpSync (port : Nat) (offset : Int) (s : State) :
    (s.after (execPtpSync port offset s)).sec.lock = s.sec.lock := by simp [execPtpSync]

@[simp] theorem lock_execSyncTimeout (s : State) : (s.after (execSyncTimeout s)).sec.lock = s.sec.lock := by simp [execSyncTimeout]

@[simp] theorem lock_execPpsEdge (delta : Int) (s : State) : (s.after (execPpsEdge delta s)).sec.lock = s.sec.lock := by simp [execPpsEdge]

@[simp] theorem lock_tellPriority (s : State) (port : Nat) : (s.tellPriority port).sec.lock = s.sec.lock := by simp [State.tellPriority]

@[simp] theorem lock_lead (s : State) : s.lead.sec.lock = s.sec.lock := by simp [State.lead]

@[simp] theorem lock_ptpTick (s : State) : s.ptpTick.sec.lock = s.sec.lock := by simp [State.ptpTick]

@[simp] theorem lock_execAnnounce (port domain : Nat) (m : Master) (s : State) :
    (s.after (execAnnounce port domain m s)).sec.lock = s.sec.lock := by
  rw [execAnnounce, State.after_next]
  split
  · rfl
  · dsimp only
    split
    · split <;> rfl
    · split <;> simp

@[simp] theorem lock_execDelayReq (port : Nat) (peer : Bool) (s : State) :
    (s.after (execDelayReq port peer s)).sec.lock = s.sec.lock := by simp [execDelayReq]

@[simp] theorem lock_execGrandmasterTimeout (s : State) :
    (s.after (execGrandmasterTimeout s)).sec.lock = s.sec.lock := by simp [execGrandmasterTimeout]

/-! Machine/Session. -/

@[simp] theorem lock_allocRegion (s : State) (c g : Nat) : (s.allocRegion c g).sec.lock = s.sec.lock := by
  unfold State.allocRegion
  split <;> simp

@[simp] theorem lock_newRegion (s : State) (c g : Nat) : (s.newRegion c g).sec.lock = s.sec.lock := by simp [State.newRegion]

@[simp] theorem lock_execLedgerRegionAllocate (ctx : CtxId) (gib : Nat) (s : State) :
    (s.after (execLedgerRegionAllocate ctx gib s)).sec.lock = s.sec.lock := by simp [execLedgerRegionAllocate]

@[simp] theorem lock_giveRegion (s : State) (c : Nat) (old : Ctx) : (s.giveRegion c old).sec.lock = s.sec.lock := by simp [State.giveRegion]

@[simp] theorem lock_createCtx (s : State) (c : Nat) : (s.createCtx c).sec.lock = s.sec.lock := by simp [State.createCtx]

@[simp] theorem lock_dropQps (s : State) (p : Nat → Qp → Bool) : (s.dropQps p).sec.lock = s.sec.lock := by simp [State.dropQps]

@[simp] theorem lock_emptyBanks (s : State) (c : Nat) : (s.emptyBanks c).sec.lock = s.sec.lock := by simp [State.emptyBanks]

@[simp] theorem lock_emptyCrofts (s : State) (c : Nat) : (s.emptyCrofts c).sec.lock = s.sec.lock := by simp [State.emptyCrofts]

@[simp] theorem lock_releaseCtx (s : State) (c : Nat) (keep : Bool) :
    (s.releaseCtx c keep).sec.lock = s.sec.lock := by simp [State.releaseCtx]

@[simp] theorem lock_writeCheckpoint (s : State) (c : Nat) : (s.writeCheckpoint c).sec.lock = s.sec.lock := by simp [State.writeCheckpoint]

@[simp] theorem lock_reply (s : State) (port sub dqpn : Nat) (dip : BitVec 128) (c code : Nat) (nonce : Reg) :
    (s.reply port sub dqpn dip c code nonce).sec.lock = s.sec.lock := by simp [State.reply]

@[simp] theorem lock_acceptOpen (s : State) (port sub : Nat) (c : Nat) (m : SesOpen) :
    (s.acceptOpen port sub c m).sec.lock = s.sec.lock := by
  unfold State.acceptOpen
  dsimp only
  split <;> simp

@[simp] theorem lock_openSession (s : State) (port sub : Nat) (src : Sender) (m : SesOpen) :
    (s.openSession port sub src m).sec.lock = s.sec.lock := by
  unfold State.openSession
  split <;> simp

@[simp] theorem lock_markedUd (s : State) (port sub : Nat) (src : Sender) :
    (s.markedUd port sub src).sec.lock = s.sec.lock := by simp [State.markedUd]

@[simp] theorem lock_execSesOpen (port sub : Nat) (src : Sender) (m : SesOpen) (s : State) :
    (s.after (execSesOpen port sub src m s)).sec.lock = s.sec.lock := by simp [execSesOpen]

@[simp] theorem lock_detach (s : State) (c : Nat) : (s.detach c).sec.lock = s.sec.lock := by simp [State.detach]

@[simp] theorem lock_renew (s : State) (c : Nat) : (s.renew c).sec.lock = s.sec.lock := by simp [State.renew]

@[simp] theorem lock_execLeaseLapse (ctx : CtxId) (s : State) :
    (s.after (execLeaseLapse ctx s)).sec.lock = s.sec.lock := by simp [execLeaseLapse]

@[simp] theorem lock_endSession (s : State) (c : Nat) : (s.endSession c).sec.lock = s.sec.lock := by simp [State.endSession]

@[simp] theorem lock_execReleaseTimeout (ctx : CtxId) (s : State) :
    (s.after (execReleaseTimeout ctx s)).sec.lock = s.sec.lock := by simp [execReleaseTimeout]

@[simp] theorem lock_execSesRenew (sess : CtxId) (_v : Reg) (s : State) :
    (s.after (execSesRenew sess _v s)).sec.lock = s.sec.lock := by simp [execSesRenew]

/-! Machine/Mailbox. -/

@[simp] theorem lock_finish (s : State) (sess seq : Nat) (r : Nat × List Byte) :
    (s.finish sess seq r).sec.lock = s.sec.lock := by simp [State.finish]

theorem State.serve_keeps {P : State → Prop} (hP : ReadsLock P) {s : State} {sess seq : Nat} {c0 : Bool} {act : State → Reply'}
    (hact : ∀ t, P t → P (act t).1) (h : P s) : P (s.serve sess seq c0 act) := by
  unfold State.serve
  split
  · exact hP s _ (lock_finish ..) h
  · exact hP _ _ (lock_finish ..) (hact s h)

@[simp] theorem lock_serve (s : State) (sess seq : Nat) (c0 : Bool) (act : State → Reply') (hact : ∀ s, (act s).1.sec.lock = s.sec.lock) :
    (s.serve sess seq c0 act).sec.lock = s.sec.lock := State.serve_keeps (.lock_eq _) (fun t ht => (hact t).trans ht) rfl

theorem State.takeIn_keeps {P : State → Prop} (hP : ReadsLock P) {s : State} {k : Nat} {i : Instr} {run : State → State}
    (hrun : ∀ t, P t → P (run t)) (h : P s) : P (s.takeIn k i run) := by
  unfold State.takeIn
  split
  · exact hP s _ rfl h
  · split
    · exact hP s _ rfl h
    · exact hrun s h

@[simp] theorem lock_takeIn (s : State) (k : Nat) (i : Instr) (run : State → State) (hrun : ∀ s, (run s).sec.lock = s.sec.lock) :
    (s.takeIn k i run).sec.lock = s.sec.lock := State.takeIn_keeps (.lock_eq _) (fun t ht => (hrun t).trans ht) rfl

theorem State.offer_keeps {P : State → Prop} (hP : ReadsLock P) {s : State} {sess seq k : Nat} {i : Instr} {run : State → State}
    (hrun : ∀ t, P t → P (run t)) (h : P s) : P (s.offer sess seq k i run) := by
  have hr : P (s.renew sess) := hP s _ (lock_renew ..) h
  unfold State.offer
  dsimp only
  split
  · exact h
  · split
    · exact hr
    · exact State.takeIn_keeps hP hrun (hP (s.renew sess) _ rfl hr)

@[simp] theorem lock_offer (s : State) (sess seq k : Nat) (i : Instr) (run : State → State) (hrun : ∀ s, (run s).sec.lock = s.sec.lock) :
    (s.offer sess seq k i run).sec.lock = s.sec.lock := State.offer_keeps (.lock_eq _) (fun t ht => (hrun t).trans ht) rfl

@[simp] theorem lock_doRenew (sess seq : Nat) (s : State) : (doRenew sess seq s).sec.lock = s.sec.lock := by
  unfold doRenew
  refine lock_serve _ _ _ _ _ fun s => ?_
  simp

@[simp] theorem lock_execRenew (sess : CtxId) (seq : Nat) (s : State) :
    (s.after (execRenew sess seq s)).sec.lock = s.sec.lock := by simp [execRenew]

@[simp] theorem lock_doCloseDetach (sess seq : Nat) (s : State) : (doCloseDetach sess seq s).sec.lock = s.sec.lock := by
  unfold doCloseDetach
  refine lock_serve _ _ _ _ _ fun s => ?_
  simp

@[simp] theorem lock_execCloseDetach (sess : CtxId) (seq : Nat) (s : State) :
    (s.after (execCloseDetach sess seq s)).sec.lock = s.sec.lock := by simp [execCloseDetach]

@[simp] theorem lock_doCloseRelease (sess seq : Nat) (s : State) : (doCloseRelease sess seq s).sec.lock = s.sec.lock := by
  unfold doCloseRelease
  refine lock_serve _ _ _ _ _ fun s => ?_
  (repeat' split) <;> simp

@[simp] theorem lock_execCloseRelease (sess : CtxId) (seq : Nat) (s : State) :
    (s.after (execCloseRelease sess seq s)).sec.lock = s.sec.lock := by simp [execCloseRelease]

@[simp] theorem lock_launchCtx (s : State) (c : Nat) : (s.launchCtx c).sec.lock = s.sec.lock := by simp [State.launchCtx]

@[simp] theorem lock_doLaunch (sess seq : Nat) (s : State) : (doLaunch sess seq s).sec.lock = s.sec.lock := by
  unfold doLaunch
  split
  · rfl
  · refine lock_serve _ _ _ _ _ fun s => ?_
    split <;> simp

@[simp] theorem lock_execLaunch (sess : CtxId) (seq : Nat) (s : State) :
    (s.after (execLaunch sess seq s)).sec.lock = s.sec.lock := by simp [execLaunch]

@[simp] theorem lock_schedule (s : State) (c b : Nat) : (s.schedule c b).sec.lock = s.sec.lock := by simp [State.schedule]

@[simp] theorem lock_doSwitch (sess seq ctx bell : Nat) (s : State) : (doSwitch sess seq ctx bell s).sec.lock = s.sec.lock := by
  unfold doSwitch
  refine lock_serve _ _ _ _ _ fun s => ?_
  simp

@[simp] theorem lock_execSwitch (sess : CtxId) (seq : Nat) (ctx bell : Nat) (s : State) :
    (s.after (execSwitch sess seq ctx bell s)).sec.lock = s.sec.lock := by simp [execSwitch]

@[simp] theorem lock_holdSteps (s : State) (c : Nat) (ds : List StepDesc) :
    (s.holdSteps c ds).sec.lock = s.sec.lock := by simp [State.holdSteps]

@[simp] theorem lock_doSubmit (sess seq : Nat) (descs : List StepDesc) (s : State) : (doSubmit sess seq descs s).sec.lock = s.sec.lock := by
  unfold doSubmit
  refine lock_serve _ _ _ _ _ fun s => ?_
  simp

@[simp] theorem lock_execSubmit (sess : CtxId) (seq : Nat) (descs : List StepDesc) (s : State) :
    (s.after (execSubmit sess seq descs s)).sec.lock = s.sec.lock := by simp [execSubmit]

@[simp] theorem lock_doSemAdd (sess seq addr : Nat) (amount : BitVec 32) (s : State) :
    (doSemAdd sess seq addr amount s).sec.lock = s.sec.lock := by
  unfold doSemAdd
  refine lock_serve _ _ _ _ _ fun s => ?_
  simp

@[simp] theorem lock_execSemAdd (sess : CtxId) (seq : Nat) (addr : Nat) (amount : BitVec 32) (s : State) :
    (s.after (execSemAdd sess seq addr amount s)).sec.lock = s.sec.lock := by simp [execSemAdd]

@[simp] theorem lock_enterQp (s : State) (n : Nat) (q : Qp) (old : Nat) :
    (s.enterQp n q old).sec.lock = s.sec.lock := by simp [State.enterQp]

@[simp] theorem lock_doQpCreate (sess seq : Nat) (bytes : List Byte) (s : State) : (doQpCreate sess seq bytes s).sec.lock = s.sec.lock := by
  unfold doQpCreate
  refine lock_serve _ _ _ _ _ fun s => ?_
  (repeat' split) <;> simp

@[simp] theorem lock_execQpCreate (sess : CtxId) (seq : Nat) (bytes : List Byte) (s : State) :
    (s.after (execQpCreate sess seq bytes s)).sec.lock = s.sec.lock := by simp [execQpCreate]

@[simp] theorem lock_doQpModify (sess seq qpn : Nat) (bytes : List Byte) (s : State) :
    (doQpModify sess seq qpn bytes s).sec.lock = s.sec.lock := by
  unfold doQpModify
  refine lock_serve _ _ _ _ _ fun s => ?_
  (repeat' split) <;> simp

@[simp] theorem lock_execQpModify (sess : CtxId) (seq : Nat) (qpn : Nat) (bytes : List Byte) (s : State) :
    (s.after (execQpModify sess seq qpn bytes s)).sec.lock = s.sec.lock := by simp [execQpModify]

@[simp] theorem lock_doQpQuery (sess seq qpn : Nat) (s : State) : (doQpQuery sess seq qpn s).sec.lock = s.sec.lock := by
  unfold doQpQuery
  refine lock_serve _ _ _ _ _ fun s => ?_
  simp

@[simp] theorem lock_execQpQuery (sess : CtxId) (seq : Nat) (qpn : Nat) (s : State) :
    (s.after (execQpQuery sess seq qpn s)).sec.lock = s.sec.lock := by simp [execQpQuery]

@[simp] theorem lock_doQpDestroy (sess seq qpn : Nat) (s : State) : (doQpDestroy sess seq qpn s).sec.lock = s.sec.lock := by
  unfold doQpDestroy
  refine lock_serve _ _ _ _ _ fun s => ?_
  simp

@[simp] theorem lock_execQpDestroy (sess : CtxId) (seq : Nat) (qpn : Nat) (s : State) :
    (s.after (execQpDestroy sess seq qpn s)).sec.lock = s.sec.lock := by simp [execQpDestroy]

@[simp] theorem lock_doPortAddr (sess seq port sub : Nat) (ipv4 : BitVec 32) (ipv6 : BitVec 128) (s : State) :
    (doPortAddr sess seq port sub ipv4 ipv6 s).sec.lock = s.sec.lock := by
  unfold doPortAddr
  refine lock_serve _ _ _ _ _ fun s => ?_
  simp

@[simp] theorem lock_execPortAddr (sess : CtxId) (seq : Nat) (port sub : Nat) (ipv4 : BitVec 32) (ipv6 : BitVec 128) (s : State) :
    (s.after (execPortAddr sess seq port sub ipv4 ipv6 s)).sec.lock = s.sec.lock := by simp [execPortAddr]

@[simp] theorem lock_doBellSet (sess seq epoch period : Nat) (s : State) : (doBellSet sess seq epoch period s).sec.lock = s.sec.lock := by
  unfold doBellSet
  refine lock_serve _ _ _ _ _ fun s => ?_
  (repeat' split) <;> simp

@[simp] theorem lock_execBellSet (sess : CtxId) (seq : Nat) (epoch period : Nat) (s : State) :
    (s.after (execBellSet sess seq epoch period s)).sec.lock = s.sec.lock := by simp [execBellSet]

/-! Machine/Firmware. -/

@[simp] theorem lock_coreFatal (s : State) : s.coreFatal.sec.lock = s.sec.lock := by simp [State.coreFatal]

@[simp] theorem lock_beginRestart (s : State) (k why : Nat) : (s.beginRestart k why).sec.lock = s.sec.lock := by simp [State.beginRestart]

@[simp] theorem lock_askRestart (s : State) (k why : Nat) : (s.askRestart k why).sec.lock = s.sec.lock := by simp [State.askRestart]

@[simp] theorem lock_startWaiting (s : State) (atBell : Bool) : (s.startWaiting atBell).sec.lock = s.sec.lock := by
  unfold State.startWaiting
  (repeat' split) <;> simp

@[simp] theorem lock_fwEvent (s : State) : s.fwEvent.sec.lock = s.sec.lock := by simp [State.fwEvent]

@[simp] theorem lock_rollback (s : State) : s.rollback.sec.lock = s.sec.lock := by simp [State.rollback]

@[simp] theorem lock_doFwStage (sess seq addr len : Nat) (s : State) : (doFwStage sess seq addr len s).sec.lock = s.sec.lock := by
  unfold doFwStage
  refine lock_serve _ _ _ _ _ fun s => ?_
  (repeat' split) <;> simp

@[simp] theorem lock_execFwStage (sess : CtxId) (seq : Nat) (addr len : Nat) (s : State) :
    (s.after (execFwStage sess seq addr len s)).sec.lock = s.sec.lock := by simp [execFwStage]

@[simp] theorem lock_execStagingDone (flashOk : Bool) (s : State) : (s.after (execStagingDone flashOk s)).sec.lock = s.sec.lock := by
  unfold execStagingDone
  split <;> simp

@[simp] theorem lock_doFwActivate (sess seq : Nat) (s : State) : (doFwActivate sess seq s).sec.lock = s.sec.lock := by
  unfold doFwActivate
  refine lock_serve _ _ _ _ _ fun s => ?_
  (repeat' split) <;> simp

@[simp] theorem lock_execFwActivate (sess : CtxId) (seq : Nat) (s : State) :
    (s.after (execFwActivate sess seq s)).sec.lock = s.sec.lock := by simp [execFwActivate]

@[simp] theorem lock_activationTick (s : State) : s.activationTick.sec.lock = s.sec.lock := by
  unfold State.activationTick
  (repeat' split) <;> simp

@[simp] theorem lock_execActivationLapse (s : State) :
    (s.after (execActivationLapse s)).sec.lock = s.sec.lock := by simp [execActivationLapse]

@[simp] theorem lock_execRestartTimeout (core : Fin 8) (s : State) :
    (s.after (execRestartTimeout core s)).sec.lock = s.sec.lock := by simp [execRestartTimeout]

@[simp] theorem lock_doFwRestart (sess seq core : Nat) (s : State) : (doFwRestart sess seq core s).sec.lock = s.sec.lock := by
  unfold doFwRestart
  refine lock_serve _ _ _ _ _ fun s => ?_
  simp

@[simp] theorem lock_execFwRestart (sess : CtxId) (seq : Nat) (core : Nat) (s : State) :
    (s.after (execFwRestart sess seq core s)).sec.lock = s.sec.lock := by simp [execFwRestart]

@[simp] theorem lock_toHost (s : State) (sess addr : Nat) (key : Reg) (data : List Byte) :
    (s.toHost sess addr key data).sec.lock = s.sec.lock := by simp [State.toHost]

@[simp] theorem lock_doFwCatalogue (sess seq addr len : Nat) (s : State) : (doFwCatalogue sess seq addr len s).sec.lock = s.sec.lock := by
  unfold doFwCatalogue
  refine lock_serve _ _ _ _ _ fun s => ?_
  simp

@[simp] theorem lock_execFwCatalogue (sess : CtxId) (seq : Nat) (addr len : Nat) (s : State) :
    (s.after (execFwCatalogue sess seq addr len s)).sec.lock = s.sec.lock := by simp [execFwCatalogue]

@[simp] theorem lock_stageLog (s : State) (k : Nat) : (s.stageLog k).sec.lock = s.sec.lock := by simp [State.stageLog]

@[simp] theorem lock_stageTrace (s : State) (k : Nat) : (s.stageTrace k).sec.lock = s.sec.lock := by simp [State.stageTrace]

@[simp] theorem lock_execLogCopy (s : State) : (s.after (execLogCopy s)).sec.lock = s.sec.lock := by simp [execLogCopy]

@[simp] theorem lock_execEventFlush (ctx : CtxId) (s : State) :
    (s.after (execEventFlush ctx s)).sec.lock = s.sec.lock := by simp [execEventFlush]

/-! Machine/Security. -/

@[simp] theorem lock_doAttest (sess seq addr : Nat) (key : Reg) (nonce : BitVec 256) (s : State) :
    (doAttest sess seq addr key nonce s).sec.lock = s.sec.lock := by
  unfold doAttest
  refine lock_serve _ _ _ _ _ fun s => ?_
  simp

@[simp] theorem lock_execAttest (sess : CtxId) (seq : Nat) (addr : Nat) (key : Reg) (nonce : BitVec 256) (s : State) :
    (s.after (execAttest sess seq addr key nonce s)).sec.lock = s.sec.lock := by simp [execAttest]

@[simp] theorem lock_doIdentity (sess seq addr : Nat) (key : Reg) (s : State) : (doIdentity sess seq addr key s).sec.lock = s.sec.lock := by
  unfold doIdentity
  refine lock_serve _ _ _ _ _ fun s => ?_
  simp

@[simp] theorem lock_execIdentity (sess : CtxId) (seq : Nat) (addr : Nat) (key : Reg) (s : State) :
    (s.after (execIdentity sess seq addr key s)).sec.lock = s.sec.lock := by simp [execIdentity]

@[simp] theorem lock_secEvent (s : State) (kind res : Nat) : (s.secEvent kind res).sec.lock = s.sec.lock := by simp [State.secEvent]

@[simp] theorem lock_doCfgUpdate (sess seq : Nat) (data : List Byte) (flashOk : Bool) (s : State) :
    (doCfgUpdate sess seq data flashOk s).sec.lock = s.sec.lock := by
  unfold doCfgUpdate
  refine lock_serve _ _ _ _ _ fun s => ?_
  (repeat' split) <;> simp

@[simp] theorem lock_execCfgUpdate (sess : CtxId) (seq : Nat) (data : List Byte) (flashOk : Bool) (s : State) :
    (s.after (execCfgUpdate sess seq data flashOk s)).sec.lock = s.sec.lock := by simp [execCfgUpdate]

@[simp] theorem lock_doDbgChallenge (sess seq : Nat) (s : State) : (doDbgChallenge sess seq s).sec.lock = s.sec.lock := by
  unfold doDbgChallenge
  refine lock_serve _ _ _ _ _ fun s => ?_
  (repeat' split) <;> simp

@[simp] theorem lock_execDbgChallenge (sess : CtxId) (seq : Nat) (s : State) :
    (s.after (execDbgChallenge sess seq s)).sec.lock = s.sec.lock := by simp [execDbgChallenge]

@[simp] theorem lock_unlockFailed (s : State) (res : Nat) : (s.unlockFailed res).sec.lock = s.sec.lock := by simp [State.unlockFailed]

@[simp] theorem lock_doDbgRead (sess seq dev host blocks : Nat) (s : State) :
    (doDbgRead sess seq dev host blocks s).sec.lock = s.sec.lock := by
  unfold doDbgRead
  refine lock_serve _ _ _ _ _ fun s => ?_
  (repeat' split) <;> simp

@[simp] theorem lock_execDbgRead (sess : CtxId) (seq : Nat) (dev host blocks : Nat) (s : State) :
    (s.after (execDbgRead sess seq dev host blocks s)).sec.lock = s.sec.lock := by simp [execDbgRead]

@[simp] theorem lock_doHlthDump (sess seq addr : Nat) (key : Reg) (s : State) : (doHlthDump sess seq addr key s).sec.lock = s.sec.lock := by
  unfold doHlthDump
  refine lock_serve _ _ _ _ _ fun s => ?_
  simp

@[simp] theorem lock_execHlthDump (sess : CtxId) (seq : Nat) (addr : Nat) (key : Reg) (s : State) :
    (s.after (execHlthDump sess seq addr key s)).sec.lock = s.sec.lock := by simp [execHlthDump]

/-! Machine/Registers. -/

@[simp] theorem lock_writeLedCfg (s : State) (c v : Nat) : (s.writeLedCfg c v).sec.lock = s.sec.lock := by simp [State.writeLedCfg]

@[simp] theorem lock_putPage (s : State) (c : CtxId) (o v : Nat) : (s.putPage c o v).sec.lock = s.sec.lock := by
  unfold State.putPage
  (repeat' split) <;> simp

@[simp] theorem lock_putGlb (s : State) (o v : Nat) : (s.putGlb o v).sec.lock = s.sec.lock := by simp [State.putGlb]

@[simp] theorem lock_putGlbRwl (s : State) (o v : Nat) : (s.putGlbRwl o v).sec.lock = s.sec.lock := by simp [State.putGlbRwl]

@[simp] theorem lock_enablePort (s : State) (n : Nat) (was now : Bool) : (s.enablePort n was now).sec.lock = s.sec.lock := by
  have hdown : ∀ u : State, ((List.range 4).foldl (fun s k => s.setSub n k { s.sub n k with up := false, paused := [] }) u).sec.lock =
      u.sec.lock := by
    refine lock_foldl (fun _ _ => ?_) _
    rfl
  simp [State.enablePort, hdown]

@[simp] theorem lock_writePort (s : State) (n v : Nat) : (s.writePort n v).sec.lock = s.sec.lock := by simp [State.writePort]

@[simp] theorem lock_clearPort (s : State) (n v : Nat) : (s.clearPort n v).sec.lock = s.sec.lock := by simp [State.clearPort]

@[simp] theorem lock_writeGlobal (s : State) (o v : Nat) : (s.writeGlobal o v).sec.lock = s.sec.lock := by
  unfold State.writeGlobal
  (repeat' split) <;> simp

@[simp] theorem lock_dbgByte (s : State) (a : Nat) (b : Byte) : (s.dbgByte a b).sec.lock = s.sec.lock := by
  unfold State.dbgByte
  (repeat' split) <;> simp

@[simp] theorem lock_dbgBytesTo (s : State) (a : Nat) (xs : List Byte) : (s.dbgBytesTo a xs).sec.lock = s.sec.lock := by
  induction xs generalizing s a with
  | nil => rfl
  | cons b bs ih => rw [State.dbgBytesTo, ih, lock_dbgByte]

@[simp] theorem lock_dbgCount (s : State) (k v : Nat) : (s.dbgCount k v).sec.lock = s.sec.lock := by simp [State.dbgCount]

@[simp] theorem lock_putWord (s : State) (off v : Nat) : (s.putWord off v).sec.lock = s.sec.lock := by simp [State.putWord]

theorem lock_dbgCounts (s : State) (a k : Nat) (data : List Byte) (ws : List Nat) :
    (ws.foldl (fun s w => s.dbgCount ((w - k) / 4) (s.dbgWord a data w)) s).sec.lock = s.sec.lock := by
  refine lock_foldl (fun s w => ?_) _ _
  exact lock_dbgCount s _ _

theorem lock_putWords (s : State) (a k : Nat) (data : List Byte) (ws : List Nat) :
    (ws.foldl (fun s w => s.putWord (w - k) (s.dbgWord a data w)) s).sec.lock = s.sec.lock := by
  refine lock_foldl (fun s w => ?_) _ _
  exact lock_putWord s _ _

@[simp] theorem lock_dbgPut (s : State) (a : Nat) (data : List Byte) : (s.dbgPut a data).sec.lock = s.sec.lock := by
  rw [State.dbgPut]
  split
  · dsimp only
    rw [lock_foldl lock_spoilStore, lock_dbgBytesTo]
  · split
    · rw [lock_dbgCounts]
    · split
      · rw [lock_putWords]
      · split
        · rw [lock_poke]
        · split
          · rw [lock_post]
          · rfl

@[simp] theorem lock_doDbgWrite (sess seq dev blocks : Nat) (data : List Byte) (s : State) :
    (doDbgWrite sess seq dev blocks data s).sec.lock = s.sec.lock := by
  unfold doDbgWrite
  refine lock_serve _ _ _ _ _ fun s => ?_
  simp

@[simp] theorem lock_execDbgWrite (sess : CtxId) (seq : Nat) (dev blocks : Nat) (data : List Byte) (s : State) :
    (s.after (execDbgWrite sess seq dev blocks data s)).sec.lock = s.sec.lock := by simp [execDbgWrite]

/-! Machine/Rdma. -/

@[simp] theorem lock_ackTo (s : State) (n psn : Nat) : (s.ackTo n psn).sec.lock = s.sec.lock := by simp [State.ackTo]

@[simp] theorem lock_answer (s : State) (n last : Nat) (outs : List Output) :
    (s.answer n last outs).sec.lock = s.sec.lock := by simp [State.answer]

@[simp] theorem lock_awaitFetch (s : State) (n psn : Nat) (fr : Frame) (i : Instr) :
    (s.awaitFetch n psn fr i).sec.lock = s.sec.lock := by simp [State.awaitFetch]

theorem State.settle_keeps {P : State → Prop} (hP : ReadsLock P) {s : State} {n psn count : Nat} {i : Instr} {r : State × Verdict}
    (hs : P s) (hr : P r.1) : P (s.settle n psn count i r) := by
  unfold State.settle
  split
  · split
    · exact hP r.1 _ (by simp) hr
    · exact hr
  · exact hP r.1 _ (by simp) hr
  · exact hP r.1 _ (by simp) hr
  · split
    · exact hP s _ (by simp) hs
    · exact hP s _ rfl hs

@[simp] theorem lock_settle (s : State) (n psn count : Nat) (i : Instr) (r : State × Verdict) (hr : r.1.sec.lock = s.sec.lock) :
    (s.settle n psn count i r).sec.lock = s.sec.lock := State.settle_keeps (.lock_eq _) rfl hr

theorem State.arrive_keeps {P : State → Prop} (hP : ReadsLock P) {s : State} {n psn count : Nat} {fr : Frame} {i : Frame → Instr}
    {act : State → State × Verdict} {again : State → State} (hact : ∀ t, P t → P (act t).1) (hagain : ∀ t, P t → P (again t))
    (h : P s) : P (s.arrive n psn count fr i act again) := by
  have hm : ∀ t, P t → P (t.marked n fr.ce) := fun t ht => hP t _ (lock_marked ..) ht
  unfold State.arrive
  dsimp only
  split
  · exact h
  · split
    · split
      · exact State.admitFrame_keeps hP (fun t ht => State.settle_keeps hP (hm t ht) ht) h
      · exact h
    · refine State.admitFrame_keeps hP (fun t ht => ?_) h
      split
      · exact hP t _ (by simp) ht
      · split
        · refine State.settle_keeps hP (hm t ht) ?_
          split
          · exact hm t ht
          · split
            · exact hm t ht
            · exact hact _ (hm t ht)
        · split
          · exact hagain _ (hm t ht)
          · exact hP t _ (by simp) ht

@[simp] theorem lock_arrive (s : State) (n psn count : Nat) (fr : Frame) (i : Frame → Instr) (act : State → State × Verdict)
    (again : State → State) (hact : ∀ s, (act s).1.sec.lock = s.sec.lock) (hagain : ∀ s, (again s).sec.lock = s.sec.lock) :
    (s.arrive n psn count fr i act again).sec.lock = s.sec.lock :=
  State.arrive_keeps (.lock_eq _) (fun t ht => (hact t).trans ht) (fun t ht => (hagain t).trans ht) rfl

@[simp] theorem lock_ackAgain (n psn count : Nat) (s : State) : (ackAgain n psn count s).sec.lock = s.sec.lock := by simp [ackAgain]

@[simp] theorem lock_inRead (s : State) (n psn va : Nat) (key : Reg) (len : Nat) : (s.inRead n psn va key len).1.sec.lock = s.sec.lock := by
  unfold State.inRead
  dsimp only
  split <;> simp

@[simp] theorem lock_inAtomic (s : State) (n psn va : Nat) (key : Reg) (f : Word → Word) :
    (s.inAtomic n psn va key f).1.sec.lock = s.sec.lock := by
  unfold State.inAtomic
  dsimp only
  split <;> simp

@[simp] theorem lock_atomicAgain (s : State) (n psn : Nat) : (s.atomicAgain n psn).sec.lock = s.sec.lock := by
  unfold State.atomicAgain
  split <;> simp

@[simp] theorem lock_readAgain (s : State) (n psn va : Nat) (key : Reg) (len : Nat) :
    (s.readAgain n psn va key len).sec.lock = s.sec.lock := by
  unfold State.readAgain
  dsimp only
  split <;> simp

@[simp] theorem lock_inReduce (s : State) (n : Nat) (h : ReduceHdr) (recs : List (List Byte)) :
    (s.inReduce n h recs).1.sec.lock = s.sec.lock := by
  unfold State.inReduce
  split <;> simp

@[simp] theorem lock_inSig (s : State) (n psn : Nat) (h : SigHdr) (seen : Bool) : (s.inSig n psn h seen).1.sec.lock = s.sec.lock := by
  unfold State.inSig
  dsimp only
  split
  · rfl
  · split
    · rfl
    · split
      · split <;> simp
      · split <;> simp

@[simp] theorem lock_execHoldSigApply (qpn : Nat) (s : State) : (s.after (execHoldSigApply qpn s)).sec.lock = s.sec.lock := by
  unfold execHoldSigApply
  split <;> simp

@[simp] theorem lock_arriveReduce (n psn : Nat) (fr : Frame) (h : ReduceHdr) (recs : List (List Byte)) (s : State) :
    (arriveReduce n psn fr h recs s).sec.lock = s.sec.lock := by simp [arriveReduce]

@[simp] theorem lock_execReduceWrite (qpn psn : Nat) (fr : Frame) (h : ReduceHdr) (records : List (List Byte)) (s : State) :
    (s.after (execReduceWrite qpn psn fr h records s)).sec.lock = s.sec.lock := by simp [execReduceWrite]

@[simp] theorem lock_arriveSig (n psn : Nat) (fr : Frame) (h : SigHdr) (seen : Bool) (s : State) :
    (arriveSig n psn fr h seen s).sec.lock = s.sec.lock := by simp [arriveSig]

@[simp] theorem lock_execSig (qpn psn : Nat) (fr : Frame) (h : SigHdr) (seen : Bool) (s : State) :
    (s.after (execSig qpn psn fr h seen s)).sec.lock = s.sec.lock := by simp [execSig]

@[simp] theorem lock_arriveRead (n psn : Nat) (fr : Frame) (va : Nat) (key : Reg) (len : Nat) (s : State) :
    (arriveRead n psn fr va key len s).sec.lock = s.sec.lock := by simp [arriveRead]

@[simp] theorem lock_execRdmaReadInbound (qpn psn : Nat) (fr : Frame) (va : Nat) (key : Reg) (len : Nat) (s : State) :
    (s.after (execRdmaReadInbound qpn psn fr va key len s)).sec.lock = s.sec.lock := by simp [execRdmaReadInbound]

@[simp] theorem lock_arriveAdd (n psn : Nat) (fr : Frame) (va : Nat) (key : Reg) (add : Word) (s : State) :
    (arriveAdd n psn fr va key add s).sec.lock = s.sec.lock := by simp [arriveAdd]

@[simp] theorem lock_execFetchAndAdd (qpn psn : Nat) (fr : Frame) (va : Nat) (key : Reg) (add : Word) (s : State) :
    (s.after (execFetchAndAdd qpn psn fr va key add s)).sec.lock = s.sec.lock := by simp [execFetchAndAdd]

@[simp] theorem lock_arriveSwap (n psn : Nat) (fr : Frame) (va : Nat) (key : Reg) (cmp swap : Word) (s : State) :
    (arriveSwap n psn fr va key cmp swap s).sec.lock = s.sec.lock := by simp [arriveSwap]

@[simp] theorem lock_execCompareAndSwap (qpn psn : Nat) (fr : Frame) (va : Nat) (key : Reg) (cmp swap : Word) (s : State) :
    (s.after (execCompareAndSwap qpn psn fr va key cmp swap s)).sec.lock = s.sec.lock := by simp [execCompareAndSwap]

@[simp] theorem lock_immSignal (s : State) (n : Nat) (r : State × Verdict) : (s.immSignal n r).1.sec.lock = r.1.sec.lock := by
  unfold State.immSignal
  split
  · split <;> simp
  · rfl

@[simp] theorem lock_inSend (s : State) (n : Nat) : (s.inSend n).1.sec.lock = s.sec.lock := by
  unfold State.inSend
  split <;> simp

@[simp] theorem lock_arriveSend (n psn : Nat) (fr : Frame) (data : List Byte) (s : State) :
    (arriveSend n psn fr data s).sec.lock = s.sec.lock := by simp [arriveSend]

@[simp] theorem lock_execSendInbound (qpn psn : Nat) (fr : Frame) (data : List Byte) (s : State) :
    (s.after (execSendInbound qpn psn fr data s)).sec.lock = s.sec.lock := by simp [execSendInbound]

@[simp] theorem lock_inVote (s : State) (n kind : Nat) (h : VoteHdr) (act : State → State) (hact : ∀ s, (act s).sec.lock = s.sec.lock) :
    (s.inVote n kind h act).1.sec.lock = s.sec.lock := by
  unfold State.inVote
  split <;> simp [hact]

@[simp] theorem lock_voteIn (s : State) (v : Via) (kind : Nat) (i : Via → Instr) (act : State → State)
    (hact : ∀ s, (act s).sec.lock = s.sec.lock) :
    (s.voteIn v kind i act).sec.lock = s.sec.lock := by
  unfold State.voteIn
  split <;> simp [hact]

@[simp] theorem lock_arriveBallot (v : Via) (src : Nat) (b : Ballot) (s : State) :
    (arriveBallot v src b s).sec.lock = s.sec.lock := by simp [arriveBallot]

@[simp] theorem lock_arriveDecision (v : Via) (d : Decision) (s : State) :
    (arriveDecision v d s).sec.lock = s.sec.lock := by simp [arriveDecision]

@[simp] theorem lock_arriveHeartbeat (v : Via) (src : Nat) (r : Bool) (m : BitVec 16) (s : State) :
    (arriveHeartbeat v src r m s).sec.lock = s.sec.lock := by simp [arriveHeartbeat]

@[simp] theorem lock_arriveReport (v : Via) (g r x b why : Nat) (s : State) :
    (arriveReport v g r x b why s).sec.lock = s.sec.lock := by simp [arriveReport]

@[simp] theorem lock_arriveNotice (v : Via) (x k : Nat) (s : State) : (arriveNotice v x k s).sec.lock = s.sec.lock := by simp [arriveNotice]

@[simp] theorem lock_arriveProbe (v : Via) (src x : Nat) (s : State) :
    (arriveProbe v src x s).sec.lock = s.sec.lock := by simp [arriveProbe]

@[simp] theorem lock_arriveProbeReply (v : Via) (d : Nat) (s : State) :
    (arriveProbeReply v d s).sec.lock = s.sec.lock := by simp [arriveProbeReply]

@[simp] theorem lock_arriveState (v : Via) (src : Nat) (d : Option Decision) (s : State) :
    (arriveState v src d s).sec.lock = s.sec.lock := by simp [arriveState]

@[simp] theorem lock_arriveResume (v : Via) (g b : Nat) (m : BitVec 16) (s : State) :
    (arriveResume v g b m s).sec.lock = s.sec.lock := by simp [arriveResume]

@[simp] theorem lock_arriveTakeover (v : Via) (d t : Nat) (as : List PortAddr) (s : State) :
    (arriveTakeover v d t as s).sec.lock = s.sec.lock := by simp [arriveTakeover]

@[simp] theorem lock_arriveLoss (v : Via) (d : Nat) (m : BitVec 16) (s : State) :
    (arriveLoss v d m s).sec.lock = s.sec.lock := by simp [arriveLoss]

@[simp] theorem lock_execBallot (v : Via) (src : Nat) (b : Ballot) (s : State) :
    (s.after (execBallot v src b s)).sec.lock = s.sec.lock := by simp [execBallot]

@[simp] theorem lock_execDecision (v : Via) (d : Decision) (s : State) :
    (s.after (execDecision v d s)).sec.lock = s.sec.lock := by simp [execDecision]

@[simp] theorem lock_execHeartbeat (v : Via) (src : Nat) (restart : Bool) (quiet : BitVec 16) (s : State) :
    (s.after (execHeartbeat v src restart quiet s)).sec.lock = s.sec.lock := by simp [execHeartbeat]

@[simp] theorem lock_execReport (v : Via) (gtag reporter suspect bell reason : Nat) (s : State) :
    (s.after (execReport v gtag reporter suspect bell reason s)).sec.lock = s.sec.lock := by simp [execReport]

@[simp] theorem lock_execNotice (v : Via) (suspect kind : Nat) (s : State) :
    (s.after (execNotice v suspect kind s)).sec.lock = s.sec.lock := by simp [execNotice]

@[simp] theorem lock_execProbe (v : Via) (src suspect : Nat) (s : State) :
    (s.after (execProbe v src suspect s)).sec.lock = s.sec.lock := by simp [execProbe]

@[simp] theorem lock_execProbeReply (v : Via) (dev : Nat) (s : State) :
    (s.after (execProbeReply v dev s)).sec.lock = s.sec.lock := by simp [execProbeReply]

@[simp] theorem lock_execState (v : Via) (src : Nat) (d : Option Decision) (s : State) :
    (s.after (execState v src d s)).sec.lock = s.sec.lock := by simp [execState]

@[simp] theorem lock_execResume (v : Via) (gtag bell : Nat) (mask : BitVec 16) (s : State) :
    (s.after (execResume v gtag bell mask s)).sec.lock = s.sec.lock := by simp [execResume]

@[simp] theorem lock_execTakeover (v : Via) (dev twin : Nat) (addrs : List PortAddr) (s : State) :
    (s.after (execTakeover v dev twin addrs s)).sec.lock = s.sec.lock := by simp [execTakeover]

@[simp] theorem lock_execGroupLoss (v : Via) (dev : Nat) (mask : BitVec 16) (s : State) :
    (s.after (execGroupLoss v dev mask s)).sec.lock = s.sec.lock := by simp [execGroupLoss]

@[simp] theorem lock_exhaustOr (s : State) (n : Nat) (i : Instr) : (s.exhaustOr n i).sec.lock = s.sec.lock := by simp [State.exhaustOr]

@[simp] theorem lock_ackExpired (qpn : Nat) (s : State) : (ackExpired qpn s).sec.lock = s.sec.lock := by simp [ackExpired]

@[simp] theorem lock_execAckTimeout (qpn : Nat) (s : State) :
    (s.after (execAckTimeout qpn s)).sec.lock = s.sec.lock := by simp [execAckTimeout]

@[simp] theorem lock_rnrArrives (qpn psn : Nat) (timer : Marked) (s : State) :
    (rnrArrives qpn psn timer s).sec.lock = s.sec.lock := by simp [rnrArrives]

@[simp] theorem lock_execRnrNak (qpn psn : Nat) (timer : Marked) (s : State) :
    (s.after (execRnrNak qpn psn timer s)).sec.lock = s.sec.lock := by simp [execRnrNak]

@[simp] theorem lock_execRnrTimer (qpn : Nat) (s : State) : (s.after (execRnrTimer qpn s)).sec.lock = s.sec.lock := by simp [execRnrTimer]

@[simp] theorem lock_accessFails (qpn psn : Nat) (syndrome : Marked) (s : State) :
    (accessFails qpn psn syndrome s).sec.lock = s.sec.lock := by
  unfold accessFails
  dsimp only
  (repeat' split) <;> simp

@[simp] theorem lock_execRemoteAccessError (qpn psn : Nat) (syndrome : Marked) (s : State) :
    (s.after (execRemoteAccessError qpn psn syndrome s)).sec.lock = s.sec.lock := by simp [execRemoteAccessError]

@[simp] theorem lock_resolutionFails (qpn : Nat) (s : State) : (resolutionFails qpn s).sec.lock = s.sec.lock := by simp [resolutionFails]

@[simp] theorem lock_execMacResolutionTimeout (qpn : Nat) (s : State) :
    (s.after (execMacResolutionTimeout qpn s)).sec.lock = s.sec.lock := by simp [execMacResolutionTimeout]

@[simp] theorem lock_execCnp (qpn : Nat) (s : State) : (s.after (execCnp qpn s)).sec.lock = s.sec.lock := by simp [execCnp]

@[simp] theorem lock_execAlphaDecay (qpn : Nat) (s : State) :
    (s.after (execAlphaDecay qpn s)).sec.lock = s.sec.lock := by simp [execAlphaDecay]

@[simp] theorem lock_execRateRecovery (qpn : Nat) (s : State) :
    (s.after (execRateRecovery qpn s)).sec.lock = s.sec.lock := by simp [execRateRecovery]

/-! Machine/Sync. -/

@[simp] theorem lock_execWait (c : CroftId) (t : Strm) (w : Word) (s : State) : (s.after (execWait c t w s)).sec.lock = s.sec.lock := by
  rw [execWait, lock_shortForm]
  intro s
  split
  · rfl
  · simp

@[simp] theorem lock_syncChange (sub : Bool) (c : Nat) (t : Strm) (w : Word) (s : State) :
    (syncChange sub c t w s).sec.lock = s.sec.lock := by simp [syncChange]

@[simp] theorem lock_execSadd (c : CroftId) (t : Strm) (w : Word) (s : State) :
    (s.after (execSadd c t w s)).sec.lock = s.sec.lock := by simp [execSadd]

@[simp] theorem lock_execSsub (c : CroftId) (t : Strm) (w : Word) (s : State) :
    (s.after (execSsub c t w s)).sec.lock = s.sec.lock := by simp [execSsub]

@[simp] theorem lock_execSread (c : CroftId) (t : Strm) (w : Word) (s : State) :
    (s.after (execSread c t w s)).sec.lock = s.sec.lock := by simp [execSread]

@[simp] theorem lock_execSemaphoreChangeApplied (id : Nat) (s : State) :
    (s.after (execSemaphoreChangeApplied id s)).sec.lock = s.sec.lock := by
  unfold execSemaphoreChangeApplied
  (repeat' split) <;> simp

@[simp] theorem lock_execWaitRegistration (c : CroftId) (t : Strm) (s : State) :
    (s.after (execWaitRegistration c t s)).sec.lock = s.sec.lock := by
  unfold execWaitRegistration
  split <;> simp

@[simp] theorem lock_execWakeNotice (c : CroftId) (wire : Nat) (s : State) : (s.after (execWakeNotice c wire s)).sec.lock = s.sec.lock := by
  rw [execWakeNotice, State.after_next]
  split
  · dsimp only
    split
    · rfl
    · split <;> rfl
  · rfl

@[simp] theorem lock_execWithdrawalConfirm (c : CroftId) (wire : Nat) (s : State) :
    (s.after (execWithdrawalConfirm c wire s)).sec.lock = s.sec.lock := by simp [execWithdrawalConfirm]

@[simp] theorem lock_applyDeferred (s : State) (d : Deferred) : (s.applyDeferred d).sec.lock = s.sec.lock := by
  unfold State.applyDeferred
  dsimp only
  split <;> simp

@[simp] theorem lock_execTallyDeferredApply (bank : Nat) (s : State) :
    (s.after (execTallyDeferredApply bank s)).sec.lock = s.sec.lock := by simp [execTallyDeferredApply]

/-! Machine/Bell. -/

@[simp] theorem lock_countBell (s : State) (time : Nat) : (s.countBell time).sec.lock = s.sec.lock := by simp [State.countBell]

@[simp] theorem lock_latchCtx (s : State) (c : Nat) : (s.latchCtx c).sec.lock = s.sec.lock := by simp [State.latchCtx]

@[simp] theorem lock_latch (s : State) : s.latch.sec.lock = s.sec.lock := by simp [State.latch]

@[simp] theorem lock_flipActions (s : State) : s.flipActions.sec.lock = s.sec.lock := by simp [State.flipActions]

@[simp] theorem lock_wakeBells (s : State) : s.wakeBells.sec.lock = s.sec.lock := by simp [State.wakeBells]

@[simp] theorem lock_endWait (s : State) (l : Nat) (t : Strm) (wire : Nat) :
    (s.endWait l t wire).sec.lock = s.sec.lock := by simp [State.endWait]

@[simp] theorem lock_parkWait (s : State) (l : Nat) (t : Strm) : (s.parkWait l t).sec.lock = s.sec.lock := by
  unfold State.parkWait
  split <;> simp

@[simp] theorem lock_beginSwitch (s : State) (target : Nat) : (s.beginSwitch target).sec.lock = s.sec.lock := by simp [State.beginSwitch]

@[simp] theorem lock_switchActions (s : State) : s.switchActions.sec.lock = s.sec.lock := by
  unfold State.switchActions
  (repeat' split) <;> simp

@[simp] theorem lock_sendActions (s : State) : s.sendActions.sec.lock = s.sec.lock := by simp [State.sendActions]

@[simp] theorem lock_countStalls (s : State) : s.countStalls.sec.lock = s.sec.lock := by simp [State.countStalls]

@[simp] theorem lock_growLeases (s : State) : s.growLeases.sec.lock = s.sec.lock := by
  unfold State.growLeases
  refine lock_foldl (fun _ _ => ?_) _ _
  rfl

@[simp] theorem lock_countFec (s : State) : s.countFec.sec.lock = s.sec.lock := by simp [State.countFec]

@[simp] theorem lock_execBell (m : PowerMeas) (time : Nat) (s : State) :
    (s.after (execBell m time s)).sec.lock = s.sec.lock := by simp [execBell]

@[simp] theorem lock_execWaitStall (c : CroftId) (t : Strm) (s : State) : (s.after (execWaitStall c t s)).sec.lock = s.sec.lock := by
  unfold execWaitStall
  dsimp only
  split <;> simp

@[simp] theorem lock_swapCroft (s : State) (out inn l : Nat) : (s.swapCroft out inn l).sec.lock = s.sec.lock := by simp [State.swapCroft]

@[simp] theorem lock_retest (s : State) (l : Nat) (t : Strm) : (s.retest l t).sec.lock = s.sec.lock := by
  unfold State.retest
  (repeat' split) <;> simp

@[simp] theorem lock_execContextRestoreDone (s : State) :
    (s.after (execContextRestoreDone s)).sec.lock = s.sec.lock := by simp [execContextRestoreDone]

/-! Machine/Cores. -/

@[simp] theorem lock_measureCore (s : State) (k : Nat) : (s.measureCore k).sec.lock = s.sec.lock := by simp [State.measureCore]

@[simp] theorem lock_activated (s : State) (k : Nat) : (s.activated k).sec.lock = s.sec.lock := by simp [State.activated]

/-! Machine/Faults. -/

@[simp] theorem lock_croftFails (s : State) (l : Nat) : (s.croftFails l).sec.lock = s.sec.lock := by simp [State.croftFails]

@[simp] theorem lock_execCroftFault (c : CroftId) (s : State) :
    (s.after (execCroftFault c s)).sec.lock = s.sec.lock := by simp [execCroftFault]

@[simp] theorem lock_newCroft (s : State) (l : Nat) : (s.newCroft l).sec.lock = s.sec.lock := by simp [State.newCroft]

@[simp] theorem lock_remap (s : State) (l pos : Nat) : (s.remap l pos).sec.lock = s.sec.lock := by
  rw [State.remap, lock_newCroft]
  rfl

@[simp] theorem lock_execRemapSelfTestDone (c : CroftId) (ok : Bool) (s : State) :
    (s.after (execRemapSelfTestDone c ok s)).sec.lock = s.sec.lock := by
  unfold execRemapSelfTestDone
  (repeat' split) <;> simp

@[simp] theorem lock_memUe (s : State) (cs : List Nat) (addr row : Nat) (repaired : Bool) :
    (s.memUe cs addr row repaired).sec.lock = s.sec.lock := by simp [State.memUe]

@[simp] theorem lock_markUe (s : State) : s.markUe.sec.lock = s.sec.lock := by
  unfold State.markUe
  refine lock_foldl (fun _ _ => ?_) _ _
  rfl

@[simp] theorem lock_breakStore (s : State) (c : Nat) : (s.breakStore c).sec.lock = s.sec.lock := by simp [State.breakStore]

@[simp] theorem lock_breakQp (s : State) (n o : Nat) : (s.breakQp n o).sec.lock = s.sec.lock := by simp [State.breakQp]

@[simp] theorem lock_breakImageCopy (s : State) (o : Nat) : (s.breakImageCopy o).sec.lock = s.sec.lock := by simp [State.breakImageCopy]

@[simp] theorem lock_breakPart (s : State) (a : Nat) (p : AreaPart) : (s.breakPart a p).sec.lock = s.sec.lock := by
  unfold State.breakPart
  split <;> simp

@[simp] theorem lock_breakBlock (s : State) (row addr : Nat) : (s.breakBlock row addr).sec.lock = s.sec.lock := by
  unfold State.breakBlock
  dsimp only
  split <;> simp

@[simp] theorem lock_lossWithout (s : State) (row addr : Nat) :
    (s.lossWithout row addr).sec.lock = s.sec.lock := by simp [State.lossWithout]

@[simp] theorem lock_ueAbort (s : State) (row addr : Nat) : (s.ueAbort row addr).sec.lock = s.sec.lock := by simp [State.ueAbort]

@[simp] theorem lock_breakCroft (s : State) (l : Nat) : (s.breakCroft l).sec.lock = s.sec.lock := by
  unfold State.breakCroft
  dsimp only
  split <;> simp

/-- The attempts that an uncorrectable error of a croft's SRAM adds to, and what follows (R412). -/
def State.countSramError (s : State) (l addr : Nat) : State :=
  let old := Table.get [] s.sramErrors l
  let now := old ++ s.runningAttempts.filter (fun e => !old.contains e)
  let s := { s with sramErrors := Table.put s.sramErrors l now }
  if now.any (fun e => sramAttempts ≤ (now.filter (fun d => d.1 == e.1 && d.2.1 == e.2.1)).length) then
    { s.markUe with sramErrors := Table.drop s.sramErrors l }.croftFails l
  else s.ueAbort rowElse addr

theorem State.sramError_eq (s : State) (l addr : Nat) (repaired : Bool) : s.sramError l addr repaired = State.countSramError
    (if inStoreOf l (addr / 64 * 64) 64 then (s.memUe s.contexts addr rowElse repaired).spoil (addr / 64 * 64) 64
      else (s.memUe s.contexts addr rowElse repaired).breakCroft l) l addr := rfl

theorem lock_countSramError (s : State) (l addr : Nat) : (s.countSramError l addr).sec.lock = s.sec.lock := by
  simp [State.countSramError]

@[simp] theorem lock_sramError (s : State) (l addr : Nat) (repaired : Bool) : (s.sramError l addr repaired).sec.lock = s.sec.lock := by
  rw [State.sramError_eq, lock_countSramError, lock_ite, lock_spoil, lock_breakCroft, lock_memUe, ite_self]

@[simp] theorem lock_slotError (s : State) (pos : Nat) (repaired : Bool) :
    (s.slotError pos repaired).sec.lock = s.sec.lock := by simp [State.slotError]

/-! Machine/Standin. -/

@[simp] theorem lock_putImage (s : State) (c dest : Nat) (data : List Byte) :
    (s.putImage c dest data).sec.lock = s.sec.lock := by simp [State.putImage]

theorem lock_imageGo (n : Nat) (s : State) (c : Nat) (bs : List Byte) : (imageGo n s c bs).sec.lock = s.sec.lock := by
  induction n generalizing s bs with
  | zero => rfl
  | succ n ih =>
    unfold imageGo
    split
    · rfl
    · simp [ih]

@[simp] theorem lock_loadImage (s : State) (c : Nat) (bs : List Byte) : (s.loadImage c bs).sec.lock = s.sec.lock := lock_imageGo _ s c bs

@[simp] theorem lock_loadTwin (s : State) (t : TwinCopy) : (s.loadTwin t).sec.lock = s.sec.lock := by simp [State.loadTwin]

@[simp] theorem lock_adoptMirrors (s : State) : s.adoptMirrors.sec.lock = s.sec.lock := by
  unfold State.adoptMirrors
  refine lock_foldl (fun _ _ => lock_foldl (fun _ _ => ?_) _ _) _ _
  rfl

@[simp] theorem lock_execStateTransferDone (copies : List TwinCopy) (s : State) :
    (s.after (execStateTransferDone copies s)).sec.lock = s.sec.lock := by
  unfold execStateTransferDone
  split <;> simp

/-! Machine/Vector. -/

@[simp] theorem lock_vecIssue (l : Nat) (t : Strm) (fn : VecFn) (fmt : Nat) (srcs : List VecReg) (dst : VecReg) (extra : List Res)
    (s : State) :
    (vecIssue l t fn fmt srcs dst extra s).sec.lock = s.sec.lock := by simp [vecIssue]

@[simp] theorem lock_execVectorComplete (id : Nat) (s : State) : (s.after (execVectorComplete id s)).sec.lock = s.sec.lock := by
  unfold execVectorComplete
  (repeat' split) <;> simp

@[simp] theorem lock_vecBinary (fn : VecFn) (useD : Bool) (c : Nat) (t : Strm) (w : Word) (s : State) :
    (s.after (vecBinary fn useD c t w s)).sec.lock = s.sec.lock := by simp [vecBinary]

@[simp] theorem lock_execVadd (c : CroftId) (t : Strm) (w : Word) (s : State) :
    (s.after (execVadd c t w s)).sec.lock = s.sec.lock := by simp [execVadd]

@[simp] theorem lock_execVsub (c : CroftId) (t : Strm) (w : Word) (s : State) :
    (s.after (execVsub c t w s)).sec.lock = s.sec.lock := by simp [execVsub]

@[simp] theorem lock_execVmul (c : CroftId) (t : Strm) (w : Word) (s : State) :
    (s.after (execVmul c t w s)).sec.lock = s.sec.lock := by simp [execVmul]

@[simp] theorem lock_execVfma (c : CroftId) (t : Strm) (w : Word) (s : State) :
    (s.after (execVfma c t w s)).sec.lock = s.sec.lock := by simp [execVfma]

@[simp] theorem lock_execVmax (c : CroftId) (t : Strm) (w : Word) (s : State) :
    (s.after (execVmax c t w s)).sec.lock = s.sec.lock := by simp [execVmax]

@[simp] theorem lock_execVmin (c : CroftId) (t : Strm) (w : Word) (s : State) :
    (s.after (execVmin c t w s)).sec.lock = s.sec.lock := by simp [execVmin]

@[simp] theorem lock_vecUnary (fn : VecFn) (extra : List Res) (c : Nat) (t : Strm) (w : Word) (s : State) :
    (s.after (vecUnary fn extra c t w s)).sec.lock = s.sec.lock := by simp [vecUnary]

@[simp] theorem lock_execVscl (c : CroftId) (t : Strm) (w : Word) (s : State) :
    (s.after (execVscl c t w s)).sec.lock = s.sec.lock := by simp [execVscl]

@[simp] theorem lock_execVun (c : CroftId) (t : Strm) (w : Word) (s : State) :
    (s.after (execVun c t w s)).sec.lock = s.sec.lock := by simp [execVun]

@[simp] theorem lock_execVred (c : CroftId) (t : Strm) (w : Word) (s : State) :
    (s.after (execVred c t w s)).sec.lock = s.sec.lock := by simp [execVred]

@[simp] theorem lock_execVbcast (c : CroftId) (t : Strm) (w : Word) (s : State) :
    (s.after (execVbcast c t w s)).sec.lock = s.sec.lock := by simp [execVbcast]

@[simp] theorem lock_execVcmpsel (c : CroftId) (t : Strm) (w : Word) (s : State) :
    (s.after (execVcmpsel c t w s)).sec.lock = s.sec.lock := by simp [execVcmpsel]

@[simp] theorem lock_execVmov (c : CroftId) (t : Strm) (w : Word) (s : State) : (s.after (execVmov c t w s)).sec.lock = s.sec.lock := by
  unfold execVmov
  split <;> simp

/-! What tightens the lock: a reset closes debug, a boot and a confirmation raise a counter (R504, R505, R508). -/

/-- No counter is lowered, and debug does not open. -/
def State.Tightens (s t : State) : Prop :=
  s.sec.fwSvn ≤ t.sec.fwSvn ∧ s.sec.cfgSvn ≤ t.sec.cfgSvn ∧ (s.sec.debug = false → t.sec.debug = false)

theorem State.Tightens.of_lock {s t : State} (h : t.sec.lock = s.sec.lock) : s.Tightens t := by
  obtain ⟨hf, hc, hd⟩ : t.sec.fwSvn = s.sec.fwSvn ∧ t.sec.cfgSvn = s.sec.cfgSvn ∧ t.sec.debug = s.sec.debug := by
    simpa [Security.lock] using h
  exact ⟨hf.ge, hc.ge, fun h => hd.trans h⟩

theorem State.Tightens.trans {s t u : State} (h : s.Tightens t) (k : t.Tightens u) : s.Tightens u :=
  ⟨h.1.trans k.1, h.2.1.trans k.2.1, fun hs => k.2.2 (h.2.2 hs)⟩

theorem State.Tightens.of_ite {s t u : State} {p : Prop} [Decidable p] (ht : s.Tightens t) (hu : s.Tightens u) :
    s.Tightens (if p then t else u) := by split <;> assumption

theorem State.Tightens.of_sec {s t u : State} (h : u.sec = t.sec) (k : s.Tightens t) : s.Tightens u :=
  k.trans (.of_lock (by rw [h]))

theorem State.tightens_moduleReset (s : State) (why straps : Nat) : s.Tightens (s.moduleReset why straps) :=
  ⟨Nat.le_refl _, Nat.le_refl _, fun _ => rfl⟩

theorem State.tightens_turnOff (s : State) (why : Nat) (b : Bool) : s.Tightens (s.turnOff why b) := by
  unfold State.turnOff
  split
  · exact .of_lock rfl
  · exact (State.Tightens.of_lock (lock_ibi s 4)).trans (.of_sec rfl (State.tightens_moduleReset (s.ibi 4) why s.slotId))

theorem State.tightens_coreFails (s : State) (k why : Nat) : s.Tightens (s.coreFails k why) := by
  unfold State.coreFails
  split
  · exact .of_lock rfl
  · split
    · split
      · exact .of_lock (by simp)
      · exact (State.Tightens.of_lock (lock_draw64 s)).trans (State.tightens_moduleReset ..)
    · split
      · exact .of_lock rfl
      · split
        · exact .of_lock (by simp)
        · exact .of_lock (by simp)

theorem State.tightens_hbmError (s : State) (row addr : Nat) (b : Bool) : s.Tightens (s.hbmError row addr b) := by
  have h : s.Tightens ((s.memUe (s.servedBy row addr) (addr / 64 * 64) row b).breakBlock row addr) :=
    .of_lock (by rw [lock_breakBlock, lock_memUe])
  rw [State.hbmError]
  exact .of_ite (h.trans (State.tightens_coreFails ..)) h

theorem State.tightens_loadCfg (s : State) : s.Tightens s.loadCfg := ⟨Nat.le_refl _, Nat.le_max_left _ _, fun h => h⟩

theorem State.tightens_bootFrom (s : State) (b : Bool) : s.Tightens (s.bootFrom b) := by
  rw [State.bootFrom]
  exact .of_lock (lock_setPhase ..)

/-- The rows that can move the lock, but cannot open debug. -/
theorem tightens_execBoot (s : State) : s.Tightens (s.after (execBoot s)) := by
  rw [execBoot, State.after_next]
  have hid : s.Tightens { s.setPhase 1 with sec := s.sec.identify } := .of_lock rfl
  split
  · exact .of_lock rfl
  · refine .of_ite (hid.trans (.of_lock (lock_bootFailed ..))) (.of_ite (hid.trans (.of_lock (lock_bootFailed ..)))
      (.of_ite (hid.trans (.of_lock (lock_bootFailed ..))) ?_))
    have hcfg := hid.trans (State.tightens_loadCfg _)
    dsimp only
    split
    · exact hcfg.trans (State.tightens_bootFrom ..)
    · exact hcfg.trans (.of_lock (lock_bootFailed ..))

theorem tightens_execConfirmation (s : State) : s.Tightens (s.after (execConfirmation s)) := by
  rw [execConfirmation, State.after_next]
  refine .of_ite (.of_ite (.of_lock rfl) ?_) (.of_lock rfl)
  have hraise : s.Tightens { s with sec := { s.sec with fwSvn := max s.sec.fwSvn s.stagedBundle.svn } } :=
    ⟨Nat.le_max_left _ _, Nat.le_refl _, fun h => h⟩
  exact hraise.trans (.of_lock (lock_fwEvent ..))

theorem tightens_execInputTurnOn (b : Bool) (k : Fin 8) (s : State) : s.Tightens (s.after (execInputTurnOn b k s)) := by
  rw [execInputTurnOn, State.after_next]
  exact .of_ite (.of_lock rfl)
    (.of_sec (t := s.moduleReset (if b then 0 else s.pwr.offReason) k) rfl (State.tightens_moduleReset ..))

theorem tightens_execSensorRead (m : Temps) (s : State) : s.Tightens (s.after (execSensorRead m s)) := by
  rw [execSensorRead, State.after_next]
  have ht : s.Tightens (s.modPwr (fun p => { p with temps := m })) := .of_lock rfl
  exact .of_ite (.of_lock rfl) (.of_ite (ht.trans (State.tightens_turnOff ..)) (ht.trans (.of_lock (lock_foldl lock_trip _ _))))

theorem tightens_execPatrolScrub (ue : Option (Fin 9 × Nat)) (s : State) : s.Tightens (s.after (execPatrolScrub ue s)) := by
  unfold execPatrolScrub
  rw [State.after_next]
  split
  · exact .of_lock rfl
  next e =>
    have h := (State.Tightens.of_lock (lock_draw64 s)).trans (s.draw64.2.tightens_hbmError e.1 e.2 (bit s.draw64.1 0))
    exact .of_ite (h.trans (.of_lock (lock_ueAbort ..))) (h.trans (.of_lock (by rw [lock_restoreBlocks, lock_lossWithout])))

theorem tightens_execUncorrectableError (place : UeWhere) (addr : Nat) (b : Bool) (s : State) :
    s.Tightens (s.after (execUncorrectableError place addr b s)) := by
  unfold execUncorrectableError
  rw [State.after_next]
  split
  · exact (State.tightens_hbmError ..).trans (.of_lock (lock_ueAbort ..))
  · exact .of_lock (lock_sramError ..)
  · exact .of_lock (lock_slotError ..)

/-! What can open debug leaves the counters as they are, but for a confirmation that waited for FP6 (R458, R505, R508). -/

/-- The counters are at least these. -/
def State.SvnsFrom (a b : Nat) (s : State) : Prop := a ≤ s.sec.fwSvn ∧ b ≤ s.sec.cfgSvn

section
variable {a b : Nat} {s : State}

theorem ReadsLock.svnsFrom (a b : Nat) : ReadsLock (State.SvnsFrom a b) := fun s t h hs => by
  obtain ⟨hf, hc, _⟩ := State.Tightens.of_lock h
  exact ⟨hs.1.trans hf, hs.2.trans hc⟩

theorem State.SvnsFrom.of_lock {t : State} (hs : s.SvnsFrom a b) (h : t.sec.lock = s.sec.lock) : t.SvnsFrom a b :=
  ReadsLock.svnsFrom a b s t h hs

theorem State.SvnsFrom.of_tightens {t : State} (hs : s.SvnsFrom a b) (h : s.Tightens t) : t.SvnsFrom a b :=
  ⟨hs.1.trans h.1, hs.2.trans h.2.1⟩

theorem State.SvnsFrom.foldl {α : Type} {f : State → α → State} (h : ∀ t x, t.SvnsFrom a b → (f t x).SvnsFrom a b) (xs : List α)
    (hs : s.SvnsFrom a b) : (xs.foldl f s).SvnsFrom a b := foldl_keeps _ f h xs s hs

/-- Opening debug leaves the counters. -/
theorem State.SvnsFrom.unlock (t : List Byte) (hs : s.SvnsFrom a b) : (s.unlock t).SvnsFrom a b := hs

theorem State.SvnsFrom.doDbgUnlock (sess seq : Nat) (token : List Byte) (hs : s.SvnsFrom a b) :
    (doDbgUnlock sess seq token s).SvnsFrom a b := by
  refine State.serve_keeps (.svnsFrom a b) (fun t ht => ?_) hs
  have hn : State.SvnsFrom a b { t with sec := { t.sec with nonce := none } } := ht
  dsimp only
  split
  · exact hn.of_lock (by simp)
  · split
    · exact (hn.unlock _).of_lock (lock_secEvent ..)
    · exact hn.of_lock (lock_unlockFailed ..)

theorem State.SvnsFrom.takeIn {k : Nat} {i : Instr} {run : State → State} (hrun : ∀ t, t.SvnsFrom a b → (run t).SvnsFrom a b)
    (hs : s.SvnsFrom a b) : (s.takeIn k i run).SvnsFrom a b := State.takeIn_keeps (.svnsFrom a b) hrun hs

theorem State.SvnsFrom.takeIn_lock {k : Nat} {i : Instr} {run : State → State} (hrun : ∀ t, (run t).sec.lock = t.sec.lock)
    (hs : s.SvnsFrom a b) : (s.takeIn k i run).SvnsFrom a b := hs.takeIn fun t ht => ht.of_lock (hrun t)

/-- Every command of a mailbox keeps the counters (R465, R493, R509, R536). -/
theorem State.SvnsFrom.mailboxRun {sess seq : Nat} {c : CtxId} {op len : Nat} {as : List Byte} {r : Nat × Instr × (State → State)}
    (hr : mailboxRun sess seq c op len as = some r) (t : State) (ht : t.SvnsFrom a b) : (r.2.2 t).SvnsFrom a b := by
  unfold Machine.mailboxRun at hr
  split at hr
  case h_2 => split at hr <;> cases hr <;> exact ht.of_lock (by simp)
  case h_20 => cases hr; exact ht.doDbgUnlock ..
  all_goals first | (cases hr; exact ht.of_lock (by simp)) | cases hr

theorem State.SvnsFrom.go (c : CtxId) (v : Nat) (hs : s.SvnsFrom a b) : (s.go c v).SvnsFrom a b := by
  have hgo : (s.modCtx c (fun x => { x with ses := { x.ses with lastGo := v % 65536 } })).SvnsFrom a b := hs
  unfold State.go
  dsimp only
  split
  · exact hs
  · split
    · exact hgo.of_lock (lock_finish ..)
    · split
      · exact State.SvnsFrom.takeIn_lock (fun t => lock_doCfgUpdate _ _ _ _ t) (hgo.of_lock (by simp))
      · split
        · exact State.SvnsFrom.takeIn_lock (fun t => lock_doDbgWrite _ _ _ _ _ t) (hgo.of_lock (by simp))
        · split
          next r hr => exact State.SvnsFrom.takeIn (State.SvnsFrom.mailboxRun hr) hgo
          · exact hgo.of_lock (lock_finish ..)

theorem State.SvnsFrom.writeWord (c : CtxId) (off v : Nat) (hs : s.SvnsFrom a b) : (s.writeWord c off v).SvnsFrom a b := by
  unfold State.writeWord State.applyWord State.writeCtxReg
  split
  · exact hs
  · split
    · exact hs
    · split
      · exact hs
      · split
        · split
          · exact hs.of_lock (lock_writeGlobal ..)
          · exact hs
        · split
          · exact hs.go c v
          · exact hs.of_lock (lock_putPage ..)

theorem State.SvnsFrom.inWrite (n va : Nat) (key : Reg) (data : List Byte) (hs : s.SvnsFrom a b) :
    (s.inWrite n va key data).1.SvnsFrom a b := by
  unfold State.inWrite
  dsimp only
  split
  · exact hs
  · split
    · exact State.SvnsFrom.foldl (fun _ e ht => ht.writeWord ..) _ (hs.of_lock (lock_renew ..))
    · split <;> exact hs

theorem State.SvnsFrom.immSignal (n : Nat) {r : State × Verdict} (hr : r.1.SvnsFrom a b) : (s.immSignal n r).1.SvnsFrom a b := by
  unfold State.immSignal
  split
  · dsimp only
    split
    · exact hr.of_lock (lock_change ..)
    · exact hr
  · exact hr

theorem State.SvnsFrom.arriveWrite (n psn : Nat) (fr : Frame) (va : Nat) (key : Reg) (data : List Byte) (hs : s.SvnsFrom a b) :
    (arriveWrite n psn fr va key data s).SvnsFrom a b := by
  unfold Machine.arriveWrite
  refine State.arrive_keeps (.svnsFrom a b) (fun t ht => ?_) (fun t ht => ?_) hs
  · exact ht.inWrite ..
  · exact ht.of_lock (lock_ackAgain ..)

theorem State.SvnsFrom.arriveImm (n psn : Nat) (fr : Frame) (va : Nat) (key : Reg) (data : List Byte) (imm : Reg) (hs : s.SvnsFrom a b) :
    (arriveImm n psn fr va key data imm s).SvnsFrom a b := by
  unfold Machine.arriveImm
  refine State.arrive_keeps (.svnsFrom a b) (fun t ht => ?_) (fun t ht => ?_) hs
  · exact State.SvnsFrom.immSignal n (ht.inWrite ..)
  · exact ht.of_lock (lock_ackAgain ..)

theorem State.SvnsFrom.runPacket (i : Instr) (hs : s.SvnsFrom a b) : (s.runPacket i).SvnsFrom a b := by
  unfold State.runPacket
  split
  case h_3 => exact hs.arriveWrite ..
  case h_7 => exact hs.arriveImm ..
  all_goals exact hs.of_lock (by simp)

theorem State.SvnsFrom.runLate (i : Instr) (hs : s.SvnsFrom a b) : (s.runLate i).SvnsFrom a b := by
  unfold State.runLate
  split
  case h_1 => exact hs.writeWord ..
  case h_23 => exact hs.takeIn fun t ht => ht.doDbgUnlock ..
  case h_30 => exact hs.of_tightens (tightens_execConfirmation s)
  case h_36 => exact hs.runPacket _
  all_goals exact hs.of_lock (by simp)

theorem State.SvnsFrom.replayLate (k : Nat) (hs : s.SvnsFrom a b) : (s.replayLate k).SvnsFrom a b :=
  State.SvnsFrom.foldl (fun _ e ht => ht.runLate e.2) _ hs

theorem State.SvnsFrom.execCoreRunning (k : Fin 8) (hs : s.SvnsFrom a b) : (s.after (execCoreRunning k s)).SvnsFrom a b := by
  rw [Machine.execCoreRunning, State.after_next]
  split
  · exact hs
  · refine State.SvnsFrom.of_lock (State.SvnsFrom.replayLate _ (hs.of_lock ?_)) (lock_startWaiting ..)
    dsimp only
    (repeat' split) <;> simp

theorem State.SvnsFrom.execContextFetchDone (n : Nat) (hs : s.SvnsFrom a b) : (s.after (execContextFetchDone n s)).SvnsFrom a b := by
  rw [Machine.execContextFetchDone, State.after_next]
  have hin : (s.cacheIn n).SvnsFrom a b := hs.of_lock (lock_cacheIn ..)
  split
  · exact hs
  · dsimp only
    split
    · exact hin
    · refine (State.SvnsFrom.foldl (fun _ i ht => ht.runPacket i) _ ?_).of_lock (lock_unpause ..)
      exact hin.of_lock (lock_foldl (fun t o => lock_transmit t n o) _ _)

end

/-! A write of NUM_APPLY is not a write of GO (R287, R464). -/

theorem lock_askApply (s : State) (c : CtxId) (v : Nat) : (s.askApply c v).sec.lock = s.sec.lock := by
  have hw : ∀ t : State, (t.writeWord c ((c.val + 1) * 0x10000 + 0x078) v).sec.lock = t.sec.lock := fun t => by
    simp [State.writeWord, State.applyWord_ctxPage, State.writeCtxReg]
  rw [State.askApply, lock_ite, hw, lock_renew, ite_self]

/-! All rows. -/

/-- The rows of CountersOnlyRise through which an unlock token can be given (R508). -/
def Instr.mayUnlock : Instr → Bool
  | .dbgUnlock .. | .registerWrite .. | .rdmaWriteInbound .. | .writeWithImmediate .. | .contextFetchDone .. | .coreRunning .. => true
  | _ => false

/-- The rows that reset the module, turn it off, boot it or confirm an update, or find an error in a core's memory. -/
def Instr.mayTighten : Instr → Bool
  | .boot | .confirmation | .inputTurnOn .. | .undervoltage | .overvoltage | .powerGoodTimeout | .resetN .. | .sidebandReset ..
  | .sensorRead .. | .watchdogExpiry .. | .patrolScrub .. | .uncorrectableError .. => true
  | _ => false

theorem lock_exec (i : Instr) (s : State) (hu : Instr.mayUnlock i = false) (ht : Instr.mayTighten i = false) :
    (s.after (exec i s)).sec.lock = s.sec.lock := by
  cases i
  case applyRcp c => exact lock_askApply ..
  case applyThr c => exact lock_askApply ..
  case applyRung c => exact lock_askApply ..
  case dbgUnlock | registerWrite | rdmaWriteInbound | writeWithImmediate | contextFetchDone | coreRunning => cases hu
  case boot | confirmation | inputTurnOn | undervoltage | overvoltage | powerGoodTimeout | resetN | sidebandReset | sensorRead
      | watchdogExpiry | patrolScrub | uncorrectableError => cases ht
  all_goals
    dsimp only [exec]
    simp

theorem tightens_exec (i : Instr) (s : State) (ht : Instr.mayTighten i = true) : s.Tightens (s.after (exec i s)) := by
  cases i
  case boot => exact tightens_execBoot s
  case confirmation => exact tightens_execConfirmation s
  case inputTurnOn b k => exact tightens_execInputTurnOn b k s
  case undervoltage => exact State.tightens_turnOff ..
  case overvoltage => exact State.tightens_turnOff ..
  case powerGoodTimeout => exact .of_ite (State.tightens_turnOff ..) (.of_lock rfl)
  case resetN k => exact .of_ite (State.tightens_moduleReset ..) (.of_lock rfl)
  case sidebandReset k => exact .of_ite (State.tightens_moduleReset ..) (.of_lock rfl)
  case sensorRead m => exact tightens_execSensorRead m s
  case watchdogExpiry k => exact State.tightens_coreFails ..
  case patrolScrub ue => exact tightens_execPatrolScrub ue s
  case uncorrectableError p a b => exact tightens_execUncorrectableError p a b s
  all_goals cases ht

theorem svnsFrom_exec {a b : Nat} {s : State} (i : Instr) (hu : Instr.mayUnlock i = true) (hs : s.SvnsFrom a b) :
    (s.after (exec i s)).SvnsFrom a b := by
  cases i
  case dbgUnlock c q token => exact State.offer_keeps (.svnsFrom a b) (fun _ ht => ht.doDbgUnlock ..) hs
  case registerWrite c off v =>
    show State.SvnsFrom a b (if s.serves c then (s.renew c).writeWord c off v.toNat else s)
    split
    · exact (hs.of_lock (lock_renew ..)).writeWord ..
    · exact hs
  case rdmaWriteInbound n p f va k d => exact hs.arriveWrite ..
  case writeWithImmediate n p f va k d m => exact hs.arriveImm ..
  case contextFetchDone n => exact hs.execContextFetchDone n
  case coreRunning k => exact hs.execCoreRunning k
  all_goals cases hu

theorem Instr.mayUnlock_cases {i : Instr} (h : Instr.mayUnlock i = true) :
    (∃ c q token, i = .dbgUnlock c q token) ∨ (∃ c off v, i = .registerWrite c off v) ∨
      (∃ n p f va k d, i = .rdmaWriteInbound n p f va k d) ∨ (∃ n p f va k d m, i = .writeWithImmediate n p f va k d m) ∨
      (∃ n, i = .contextFetchDone n) ∨ (∃ k, i = .coreRunning k) := by
  unfold Instr.mayUnlock at h
  split at h <;> simp at h ⊢

/-- A row through which no token can be given tightens the lock or leaves it. -/
theorem tightens_exec_of_not_mayUnlock (i : Instr) (s : State) (hu : Instr.mayUnlock i = false) : s.Tightens (s.after (exec i s)) := by
  cases ht : Instr.mayTighten i
  · exact .of_lock (lock_exec i s hu ht)
  · exact tightens_exec i s ht

/-- Settles O43: of a front command that cannot give an unlock token, by the lock that it leaves or tightens; of one that can, by its
counters. -/
theorem countersOnlyRise : Obligations.CountersOnlyRise := by
  unfold Obligations.CountersOnlyRise
  intro s t h
  cases hp : s.pending with
  | nil =>
    rw [step_of_nil hp] at h
    obtain ⟨hf, hc, hd⟩ := Host.Outcome.next.inj h ▸ State.Tightens.of_lock (lock_portTick s)
    exact ⟨hf, hc, fun h0 h1 => absurd (hd h0) (by simp [h1])⟩
  | cons i is =>
    rw [step_of_cons hp] at h
    have hafter : State.after { s with pending := is } (exec i { s with pending := is }) = t := by rw [h, State.after_next]
    cases hu : Instr.mayUnlock i with
    | false =>
      obtain ⟨hf, hc, hd⟩ := hafter ▸ tightens_exec_of_not_mayUnlock i { s with pending := is } hu
      exact ⟨hf, hc, fun h0 h1 => absurd (hd h0) (by simp [h1])⟩
    | true =>
      have hs : State.SvnsFrom s.sec.fwSvn s.sec.cfgSvn { s with pending := is } := ⟨Nat.le_refl _, Nat.le_refl _⟩
      obtain ⟨hf, hc⟩ := hafter ▸ svnsFrom_exec i hu hs
      exact ⟨hf, hc, fun _ _ => ⟨i, is, rfl, Instr.mayUnlock_cases hu⟩⟩

end Sys2Proof.Machine
end

section
/-! Health (R529–R531, R536): the hourly measurement, when the daily update acts, and what a line of daily values estimates. -/

namespace Sys2Proof.Machine

section
variable {s : State} {ce eye : List Nat}

/-- The indicators after a daily update. -/
def State.dailyHealth (s : State) (ce eye : List Nat) : Health := (s.hlth.takeDaily s.ptpTime ce eye).estimate s.ptpTime

theorem exec_healthDailyUpdate_of_early (h : s.hlth.hours < s.hlth.dailyAt + 24) : exec (.healthDailyUpdate ce eye) s = .next s :=
  congrArg Host.Outcome.next (if_pos (by simp [h]))

theorem exec_healthDailyUpdate_of_due (hon : s.pwr.isOn = true) (h6 : s.up 6 = true) (h : s.hlth.dailyAt + 24 ≤ s.hlth.hours) :
    exec (.healthDailyUpdate ce eye) s = .next (if 90 ≤ s.hlth.days ∧ (s.dailyHealth ce eye).days < 90 then
      { s with hlth := s.dailyHealth ce eye }.eventAll 0x0121 [((s.dailyHealth ce eye).days, 16), ((s.dailyHealth ce eye).limiter, 4)]
      else { s with hlth := s.dailyHealth ce eye }) :=
  congrArg Host.Outcome.next (if_neg (by simp [hon, h6, h]))

end

theorem addDaily_spec (v : Int) (vs : List Int) : (addDaily v vs).length ≤ 30 ∧ (addDaily v vs).head? = some v :=
  ⟨List.length_take_le .., rfl⟩

/-! Lines of 30 daily values (R531). -/

/-- Thirty equal values have no slope. -/
theorem lineDays_replicate (up : Bool) (limit v : Int) : lineDays up limit (List.replicate 30 v) = none := by
  have hslope : ((List.range 30).map (fun i : Nat => (2 * (i : Int) - 29) * (List.replicate 30 v).reverse.getD i 0)).foldl (· + ·) 0 = 0 := by
    simp [List.range_succ, List.replicate]
  unfold lineDays
  dsimp only
  rw [hslope]
  simp

/-- Values that rise by one a day, newest first. -/
def risingDays (v : Int) : List Int := (List.range 30).map (fun i : Nat => v - (i : Int))

theorem risingDays_sum (v : Int) : (risingDays v).reverse.foldl (· + ·) 0 = 30 * v - 435 := by
  simp [risingDays, List.range_succ]
  omega

theorem risingDays_slope (v : Int) :
    ((List.range 30).map (fun i : Nat => (2 * (i : Int) - 29) * (risingDays v).reverse.getD i 0)).foldl (· + ·) 0 = 4495 := by
  simp [risingDays, List.range_succ]
  omega

/-- The line through them passes v today, so the estimate is what remains to the limit. -/
theorem lineDays_risingDays (limit v : Int) : lineDays true limit (risingDays v) = some (limit - v).toNat := by
  have hlen : (risingDays v).length = 30 := rfl
  unfold lineDays
  dsimp only
  rw [hlen, risingDays_sum, risingDays_slope]
  have hquot : (4495 * (30 * limit - (30 * v - 435)) - 1955325) / 134850 = limit - v := by omega
  simp [hquot]

theorem Health.estimate_spec (h : Health) (now : Nat) : (h.estimate now).days ≤ 65535 ∧ (h.estimate now).daily = h.daily := by
  unfold Health.estimate
  dsimp only
  split
  · exact ⟨(Nat.min_le_left ..).trans (by decide), rfl⟩
  · exact ⟨Nat.le_refl _, rfl⟩

/-- Settles O47: the daily update by whether it is due and whether DAYS falls below 90, and the estimates by the sums of their lines. -/
theorem healthIsMeasured : Obligations.HealthIsMeasured := by
  unfold Obligations.HealthIsMeasured
  refine ⟨fun d0 d1 s hon => ?hourly, fun ce eye s hon h6 => ⟨exec_healthDailyUpdate_of_early, fun hdue => ?daily⟩, addDaily_spec,
    lineDays_replicate, fun limit v _ => lineDays_risingDays limit v, Health.estimate_spec⟩
  case hourly => exact congrArg Host.Outcome.next (if_neg (by simp [hon]))
  case daily =>
    intro h
    rw [exec_healthDailyUpdate_of_due hon h6 hdue]
    exact ⟨fun hb ha => congrArg _ (if_pos ⟨hb, ha⟩), fun hno => congrArg _ (if_neg fun hyes => by have : h.days < 90 := hyes.2; omega)⟩

end Sys2Proof.Machine
end

section
/-! Rate control (R427, R429): a packet marked CE is its unmarked form after the CNP it asks for, and the timers and CNPs change a queue
pair's rate alone. -/

namespace Sys2Proof.Machine

/-! The CNP that a mark asks for (R427). -/

section
variable (s : State) (n : Nat)

theorem State.congested_of_first {s : State} {n : Nat} (h : (s.qp n).cnpSent = false) :
    s.congested n = (s.modQp n (fun q => { q with cnpSent := true })).enqueue n (.cnp n) := if_pos (by simp [h])

theorem State.congested_of_later {s : State} {n : Nat} (h : (s.qp n).cnpSent = true) :
    s.congested n = { s with fresh := s.fresh + 1 } ∨ s.congested n = { s with fresh := s.fresh + 1 }.enqueue n (.cnp n) := by
  have hlater : s.congested n = if bit s.draw64.1 0 then s.draw64.2.enqueue n (.cnp n) else s.draw64.2 := if_neg (by simp [h])
  rw [hlater]
  split
  · exact .inr rfl
  · exact .inl rfl

@[simp] theorem State.qp_enqueue (m : Nat) (o : Output) : (s.enqueue m o).qp n = s.qp n := rfl

/-- A mark leaves of a queue pair all but that its CNP has been sent. -/
theorem State.qp_congested : (s.congested n).qp n = { s.qp n with cnpSent := true } := by
  cases h : (s.qp n).cnpSent
  · rw [State.congested_of_first h, State.qp_enqueue, State.qp_modQp, if_pos rfl]
  · have hq : s.qp n = { s.qp n with cnpSent := true } := by rw [← h]
    rcases State.congested_of_later h with hs | hs <;> exact hs ▸ hq

theorem State.cache_congested : (s.congested n).net.cache = s.net.cache := by
  cases h : (s.qp n).cnpSent
  · rw [State.congested_of_first h]; rfl
  · rcases State.congested_of_later h with hs | hs
    · rw [hs]
    · rw [hs]; rfl

theorem State.group_congested : (s.congested n).group = s.group := by
  cases h : (s.qp n).cnpSent
  · rw [State.congested_of_first h]; rfl
  · rcases State.congested_of_later h with hs | hs
    · rw [hs]
    · rw [hs]; rfl

theorem State.cached_congested : (s.congested n).cached n = s.cached n := by
  rw [State.cached, State.cache_congested, State.cached]

theorem State.listens_congested : (s.congested n).listens n = s.listens n := by
  simp [State.listens, State.qp_congested, State.group_congested]

end

/-- A marked packet is dealt with as the unmarked one after its CNP. -/
theorem State.arrive_of_marked {s : State} {n psn count : Nat} {fr : Frame} {i : Frame → Instr} {act : State → State × Verdict}
    {again : State → State} (hr : s.receives n = true) (hc : s.cached n = true) (hf : fr.ordinary (i fr)) :
    s.arrive n psn count { fr with ce := true } i act again = (s.congested n).arrive n psn count fr i act again := by
  obtain ⟨hl, hud⟩ := (s.receives_iff n).1 hr
  obtain ⟨hlen, hplain, hce, -⟩ := id hf
  have hadmit : ∀ k : State → State, s.admitFrame { fr with ce := true } k = k s := fun k => by
    simp [State.admitFrame, frameMax, Nat.not_lt.2 hlen, hplain]
  simp [State.arrive, hl, hud, hc, hadmit, State.admitFrame_of_ordinary hf, State.listens_congested, State.qp_congested,
    State.cached_congested, State.marked, hce, Frame.reserved]

theorem State.packets_congested (s : State) (n len : Nat) : ((s.congested n).qp n).packets len = (s.qp n).packets len := by
  rw [State.qp_congested]; rfl

section
variable {s : State} {n psn va len : Nat} {key imm : Reg} {v w : Word} {data : List Byte} {recs : List (List Byte)} {h : ReduceHdr}
  {g : SigHdr} {seen : Bool} {fr : Frame} (hr : s.receives n = true) (hc : s.cached n = true)
include hr hc

theorem arriveWrite_of_marked (hf : fr.ordinary (.rdmaWriteInbound n psn fr va key data)) :
    arriveWrite n psn { fr with ce := true } va key data s = arriveWrite n psn fr va key data (s.congested n) := by
  rw [arriveWrite, arriveWrite, State.packets_congested,
    State.arrive_of_marked (i := fun fr => .rdmaWriteInbound n psn fr va key data) hr hc hf]

theorem arriveRead_of_marked (hf : fr.ordinary (.rdmaReadInbound n psn fr va key len)) :
    arriveRead n psn { fr with ce := true } va key len s = arriveRead n psn fr va key len (s.congested n) := by
  rw [arriveRead, arriveRead, State.packets_congested,
    State.arrive_of_marked (i := fun fr => .rdmaReadInbound n psn fr va key len) hr hc hf]

theorem arriveAdd_of_marked (hf : fr.ordinary (.fetchAndAdd n psn fr va key v)) :
    arriveAdd n psn { fr with ce := true } va key v s = arriveAdd n psn fr va key v (s.congested n) := by
  rw [arriveAdd, arriveAdd, State.arrive_of_marked (i := fun fr => .fetchAndAdd n psn fr va key v) hr hc hf]

theorem arriveSwap_of_marked (hf : fr.ordinary (.compareAndSwap n psn fr va key v w)) :
    arriveSwap n psn { fr with ce := true } va key v w s = arriveSwap n psn fr va key v w (s.congested n) := by
  rw [arriveSwap, arriveSwap, State.arrive_of_marked (i := fun fr => .compareAndSwap n psn fr va key v w) hr hc hf]

theorem arriveImm_of_marked (hf : fr.ordinary (.writeWithImmediate n psn fr va key data imm)) :
    arriveImm n psn { fr with ce := true } va key data imm s = arriveImm n psn fr va key data imm (s.congested n) := by
  rw [arriveImm, arriveImm, State.packets_congested,
    State.arrive_of_marked (i := fun fr => .writeWithImmediate n psn fr va key data imm) hr hc hf]

theorem arriveSend_of_marked (hf : fr.ordinary (.sendInbound n psn fr data)) :
    arriveSend n psn { fr with ce := true } data s = arriveSend n psn fr data (s.congested n) := by
  rw [arriveSend, arriveSend, State.packets_congested,
    State.arrive_of_marked (i := fun fr => .sendInbound n psn fr data) hr hc hf]

theorem arriveReduce_of_marked (hf : fr.ordinary (.reduceWrite n psn fr h recs)) :
    arriveReduce n psn { fr with ce := true } h recs s = arriveReduce n psn fr h recs (s.congested n) := by
  rw [arriveReduce, arriveReduce, State.arrive_of_marked (i := fun fr => .reduceWrite n psn fr h recs) hr hc hf]

theorem arriveSig_of_marked (hf : fr.ordinary (.sig n psn fr g seen)) :
    arriveSig n psn { fr with ce := true } g seen s = arriveSig n psn fr g seen (s.congested n) := by
  rw [arriveSig, arriveSig, State.arrive_of_marked (i := fun fr => .sig n psn fr g seen) hr hc hf]

end

/-! CNPs and timers (R427, R429). -/

theorem exec_cnp_of_no_ecn {s : State} {n : Nat} (he : s.portEcn (s.qp n).port (s.qp n).pcp = false) :
    exec (.cnp n) s = .next s := congrArg Host.Outcome.next (if_neg (by simp [he]))

section
variable {s : State} {n : Nat} (hu : (s.qp n).used = true)
include hu

theorem exec_cnp_of_ecn (he : s.portEcn (s.qp n).port (s.qp n).pcp = true) : exec (.cnp n) s = .next (s.modQp n Qp.cut) :=
  congrArg Host.Outcome.next (if_pos ⟨hu, he⟩)

theorem exec_alphaDecay_of_used : exec (.alphaDecay n) s = .next (s.modQp n (fun q => { q with alpha := 15 * q.alpha / 16 })) :=
  congrArg Host.Outcome.next (if_pos hu)

theorem exec_rateRecovery_of_used :
    exec (.rateRecovery n) s = .next (s.modQp n (fun q => q.recovered (s.subportRate q.port))) :=
  congrArg Host.Outcome.next (if_pos hu)

end

theorem Qp.recovered_of_early {q : Qp} (rate : Nat) (h : q.recover < 5) :
    q.recovered rate = { q with rate := (q.rate + q.target) / 2, recover := q.recover + 1 } := if_pos h

theorem Qp.recovered_of_late {q : Qp} (rate : Nat) (h : 5 ≤ q.recover) :
    q.recovered rate = { q with target := min rate (q.target + 40 * 65536), rate := (q.rate + min rate (q.target + 40 * 65536)) / 2 } :=
  if_neg (Nat.not_lt.2 h)

/-- Settles O32: a marked packet by its form and by whether a CNP has gone, the CNP and the timers by what they make of the queue pair. -/
theorem rateControlFollowsItsTable : Obligations.RateControlFollowsItsTable := by
  unfold Obligations.RateControlFollowsItsTable
  refine ⟨fun n psn va len key imm v w data recs h g seen fr s form hform hr hc hf =>
    ⟨?marked, State.congested_of_first, State.congested_of_later⟩, fun n s => ?rates⟩
  case marked =>
    simp only [List.mem_cons, List.not_mem_nil, or_false] at hform
    rcases hform with rfl | rfl | rfl | rfl | rfl | rfl | rfl | rfl
    · exact congrArg Host.Outcome.next (arriveWrite_of_marked hr hc hf)
    · exact congrArg Host.Outcome.next (arriveRead_of_marked hr hc hf)
    · exact congrArg Host.Outcome.next (arriveAdd_of_marked hr hc hf)
    · exact congrArg Host.Outcome.next (arriveSwap_of_marked hr hc hf)
    · exact congrArg Host.Outcome.next (arriveImm_of_marked hr hc hf)
    · exact congrArg Host.Outcome.next (arriveSend_of_marked hr hc hf)
    · exact congrArg Host.Outcome.next (arriveReduce_of_marked hr hc hf)
    · exact congrArg Host.Outcome.next (arriveSig_of_marked hr hc hf)
  case rates =>
    intro q hu
    refine ⟨exec_cnp_of_ecn hu, exec_cnp_of_no_ecn, exec_alphaDecay_of_used hu, fun hrec => ?_, fun hrec => ?_⟩
    · rw [exec_rateRecovery_of_used hu, State.modQp, Qp.recovered_of_early _ hrec]
    · rw [exec_rateRecovery_of_used hu, State.modQp, Qp.recovered_of_late _ hrec]

end Sys2Proof.Machine
end

section
/-! Ports (R418–R427, R451, R545): which packet a subport sends, the addresses it answers for, its pauses, and its link. -/

namespace Sys2Proof.Machine

theorem Table.put_put {α : Type} (t : Table α) (k : Nat) (v w : α) : Table.put (Table.put t k v) k w = Table.put t k w := by
  induction t with
  | nil => simp [Table.put]
  | cons e t ih =>
    obtain ⟨j, u⟩ := e
    by_cases hj : j = k <;> simp [Table.put, hj, ih]

theorem State.sub_setSub (s : State) (port sub : Nat) (x : Subport) : (s.setSub port sub x).sub port sub = x := Table.get_put_same ..

theorem State.setSub_setSub (s : State) (port sub : Nat) (x y : Subport) :
    (s.setSub port sub x).setSub port sub y = s.setSub port sub y := by simp [State.setSub, Table.put_put]

/-! Which packet goes next (R425). -/

/-- The step of `nextTurn`'s search for the least number. -/
def lower (b : Option Nat) (n : Nat) : Option Nat :=
  match b with
  | some m => some (min m n)
  | none => some n

theorem foldl_lower (ns : List Nat) : ns.foldl lower none = ns.min? := by
  cases ns with
  | nil => rfl
  | cons n ns =>
    have hsome : ∀ (ns : List Nat) (m : Nat), ns.foldl lower (some m) = some (ns.foldl min m) := by
      intro ns
      induction ns with
      | nil => intro m; rfl
      | cons n ns ih => intro m; exact ih (min m n)
    exact hsome ns n

/-- The turn is the least number after the last one served, or the least of all when there is none after it. -/
theorem nextTurn_eq (last : Nat) (ns : List Nat) :
    nextTurn last ns = if ns.filter (fun n => last < n) = [] then ns.min? else (ns.filter (fun n => last < n)).min? := by
  unfold nextTurn
  split
  case h_1 h => rw [if_pos h]; exact foldl_lower ns
  case h_2 h => rw [if_neg h]; exact foldl_lower _

theorem nextTurn_spec {last n : Nat} {ns : List Nat} (h : nextTurn last ns = some n) :
    ∀ m ∈ ns, (last < n ∧ (last < m → n ≤ m)) ∨ (n ≤ m ∧ m ≤ last) := by
  intro m hm
  rw [nextTurn_eq] at h
  split at h
  case isTrue hnone =>
    simp only [List.filter_eq_nil_iff, decide_eq_true_eq, Nat.not_lt] at hnone
    exact .inr ⟨(List.min?_eq_some_iff.1 h).2 m hm, hnone m hm⟩
  case isFalse =>
    obtain ⟨hmem, hleast⟩ := List.min?_eq_some_iff.1 h
    exact .inl ⟨by simpa using (List.mem_filter.1 hmem).2, fun hlast => hleast m (List.mem_filter.2 ⟨hm, by simpa using hlast⟩)⟩

theorem le_foldl_max {α : Type} (f : α → Nat) (es : List α) (m : Nat) :
    m ≤ es.foldl (fun m e => max m (f e)) m ∧ ∀ d ∈ es, f d ≤ es.foldl (fun m e => max m (f e)) m := by
  induction es generalizing m with
  | nil => simp
  | cons e es ih =>
    obtain ⟨hm, hes⟩ := ih (max m (f e))
    simp only [List.foldl_cons, List.mem_cons, forall_eq_or_imp]
    exact ⟨by omega, by omega, hes⟩

section
variable (s : State) (k : Nat)

theorem State.maySend_iff (e : Egress) : s.maySend k e = true ↔
    s.pcpOf e ∉ (Table.get {} s.net.subs k).paused ∧ ((s.qp e.qpn).session = true ∨ s.group.fenced = false) := by
  simp [State.maySend]

/-- The highest PCP of what may go. -/
def State.topPcp : Nat := ((Table.get [] s.net.egress k).filter (s.maySend k)).foldl (fun m e => max m (s.pcpOf e)) 0

/-- What may go on that PCP, in its order. -/
def State.topEgress : List Egress := ((Table.get [] s.net.egress k).filter (s.maySend k)).filter (fun e => s.pcpOf e == s.topPcp k)

theorem State.mem_topEgress {d : Egress} :
    d ∈ s.topEgress k ↔ (d ∈ Table.get [] s.net.egress k ∧ s.maySend k d = true) ∧ s.pcpOf d = s.topPcp k := by
  rw [State.topEgress, List.mem_filter, List.mem_filter, beq_iff_eq]

theorem State.pcpOf_le_topPcp {d : Egress} (hd : d ∈ Table.get [] s.net.egress k) (hm : s.maySend k d = true) :
    s.pcpOf d ≤ s.topPcp k := (le_foldl_max s.pcpOf _ 0).2 d (List.mem_filter.2 ⟨hd, hm⟩)

theorem State.nextPacket_eq_none (h : ∀ e ∈ Table.get [] s.net.egress k, ¬ s.maySend k e = true) : s.nextPacket k = none := by
  have hnil : (Table.get [] s.net.egress k).filter (s.maySend k) = [] := List.filter_eq_nil_iff.2 h
  simp [State.nextPacket, hnil, nextTurn]

theorem State.nextPacket_spec {e : Egress} (h : s.nextPacket k = some e) :
    ∃ n, nextTurn (Table.get 0 s.net.turn (8 * k + s.topPcp k)) ((s.topEgress k).map (·.qpn)) = some n ∧
      (s.topEgress k).find? (fun e => e.qpn == n) = some e := by
  cases hn : nextTurn (Table.get 0 s.net.turn (8 * k + s.topPcp k)) ((s.topEgress k).map (·.qpn)) with
  | none => rw [State.nextPacket, ← State.topPcp, ← State.topEgress, hn] at h; cases h
  | some n => rw [State.nextPacket, ← State.topPcp, ← State.topEgress, hn] at h; exact ⟨n, rfl, h⟩

/-- The packet that goes next stands in the queue, on the highest PCP, of the queue pair whose turn it is, and is that one's oldest. -/
theorem State.nextPacket_chosen {e : Egress} (h : s.nextPacket k = some e) :
    (e ∈ Table.get [] s.net.egress k ∧ s.maySend k e = true) ∧ s.pcpOf e = s.topPcp k ∧
    (∀ d ∈ s.topEgress k, (Table.get 0 s.net.turn (8 * k + s.topPcp k) < e.qpn ∧
      (Table.get 0 s.net.turn (8 * k + s.topPcp k) < d.qpn → e.qpn ≤ d.qpn)) ∨
      (e.qpn ≤ d.qpn ∧ d.qpn ≤ Table.get 0 s.net.turn (8 * k + s.topPcp k))) ∧
    ∃ a b, Table.get [] s.net.egress k = a ++ e :: b ∧
      ∀ d ∈ a, s.maySend k d = true → s.pcpOf d = s.topPcp k → d.qpn ≠ e.qpn := by
  obtain ⟨n, hturn, hfind⟩ := s.nextPacket_spec k h
  obtain ⟨hmem, htop⟩ := (s.mem_topEgress k).1 (List.mem_of_find?_eq_some hfind)
  have hn : e.qpn = n := by simpa using List.find?_some hfind
  refine ⟨hmem, htop, fun d hd => hn ▸ nextTurn_spec hturn d.qpn (List.mem_map_of_mem hd), ?_⟩
  rw [State.topEgress, List.find?_filter, List.find?_filter, List.find?_eq_some_iff_append] at hfind
  obtain ⟨-, a, b, hq, ha⟩ := hfind
  exact ⟨a, b, hq, fun d hd hm hp => by simpa [hm, hp, hn] using ha d hd⟩

/-! A frame that goes. -/

theorem afterFrame_append {e : Egress} {q : List Egress} (he : e ∈ q) (last : Bool) : ∃ a b, q = a ++ e :: b ∧
    afterFrame e last q = a ++ (if last = true then b else { e with sent := e.sent + 1 } :: b) := by
  induction q with
  | nil => cases he
  | cons d q ih =>
    by_cases hd : d = e
    · exact ⟨[], q, by simp [hd], by cases last <;> simp [afterFrame, hd]⟩
    · obtain ⟨a, b, hq, hafter⟩ := ih ((List.mem_cons.1 he).resolve_left (fun h => hd h.symm))
      exact ⟨d :: a, b, by simp [hq], by simp [afterFrame, hd, hafter]⟩

theorem State.sendFrame_of_down (h : (Table.get {} s.net.subs k).up = false) : s.sendFrame k = s := if_pos (by rw [h]; rfl)

theorem State.sendFrame_of_none (h : s.nextPacket k = none) : s.sendFrame k = s := by
  rw [State.sendFrame, h]; split <;> rfl

theorem State.sendFrame_of_some {e : Egress} (hup : (Table.get {} s.net.subs k).up = true) (h : s.nextPacket k = some e) :
    s.sendFrame k = { s with
      out := .frame (s.frameHdr e.qpn e.out e.sent) e.out :: s.out
      net := { s.net with
        egress := Table.put s.net.egress k
          (afterFrame e (Decidable.decide ((s.qp e.qpn).frames e.out ≤ e.sent + 1)) (Table.get [] s.net.egress k))
        turn := Table.put s.net.turn (8 * k + s.pcpOf e) e.qpn } } := by
  rw [State.sendFrame, h, if_neg (by rw [hup]; exact Bool.false_ne_true)]

end

/-! What the headers of a frame carry (R423, R424, R427). -/

theorem Qp.pcpOf_of_ne_cnp (q : Qp) {o : Output} (h : ∀ m, o ≠ .cnp m) : q.pcpOf o = q.pcp := by
  cases o with
  | cnp m => exact absurd rfl (h m)
  | _ => rfl

theorem Qp.dscpOf_of_ne_cnp (q : Qp) {o : Output} (h : ∀ m, o ≠ .cnp m) : q.dscpOf o = q.dscp := by
  cases o with
  | cnp m => exact absurd rfl (h m)
  | _ => rfl

/-! Addresses (R421). -/

theorem State.trainMode_eq (port : Nat) (s : State) : s.trainMode port =
    if 2 ≤ bits (s.portReg port) 28 27 then .module else if bit (s.portReg port) 26 then .negotiate else .preset := by
  have hmin : min 2 (bits (s.portReg port) 28 27) = 2 ↔ 2 ≤ bits (s.portReg port) 28 27 := by omega
  simp only [State.trainMode, hmin]

theorem State.holdsAddr_iff (port sub : Nat) (s : State) (a : BitVec 128) : s.holdsAddr port sub a = true ↔
    s.group.fenced = false ∧ (s.sub port sub).up = true ∧
      ((s.sub port sub).ipv4 ≠ 0 ∧ a = mapped4 (s.sub port sub).ipv4 ∨ (s.sub port sub).ipv6 ≠ 0 ∧ a = (s.sub port sub).ipv6 ∨
        a = linkLocal (s.macOf port sub)) := by
  simp [State.holdsAddr, and_assoc, or_assoc]

section
variable {s : State} {port sub : Nat} {v4 : BitVec 32} {a : BitVec 128} {e : Echo}

theorem exec_arpRequest_of_held (h : s.holdsAddr port sub (mapped4 v4) = true) :
    exec (.arpRequest port sub v4) s = .next (s.send (.arpReply port sub v4 (s.macOf port sub))) :=
  congrArg Host.Outcome.next (if_pos h)

theorem exec_arpRequest_of_unheld (h : s.holdsAddr port sub (mapped4 v4) = false) : exec (.arpRequest port sub v4) s = .next s :=
  congrArg Host.Outcome.next (if_neg (by simp [h]))

theorem exec_neighborSolicitation_of_held (h : s.holdsAddr port sub a = true) (h6 : isMapped4 a = false) :
    exec (.neighborSolicitation port sub a) s = .next (s.send (.neighborAdvert port sub a (s.macOf port sub))) :=
  congrArg Host.Outcome.next (if_pos (by simp [h, h6]))

theorem exec_neighborSolicitation_of_unheld (h : s.holdsAddr port sub a = false) :
    exec (.neighborSolicitation port sub a) s = .next s := congrArg Host.Outcome.next (if_neg (by simp [h]))

theorem State.admitFrame_of_plain {fr : Frame} (hlen : fr.len ≤ 9216) (hplain : fr.plain = true) (k : State → State) :
    s.admitFrame fr k = k s := by simp [State.admitFrame, frameMax, Nat.not_lt.2 hlen, hplain]

theorem State.admitFrame_of_unplain {fr : Frame} (hlen : fr.len ≤ 9216) (hplain : fr.plain = false) (k : State → State) :
    s.admitFrame fr k = s := by simp [State.admitFrame, frameMax, Nat.not_lt.2 hlen, hplain]

theorem State.admitFrame_of_long {fr : Frame} (hlen : 9216 < fr.len) (k : State → State) :
    s.admitFrame fr k = { s with net := { s.net with dropLong := s.net.dropLong + 1 } } := if_pos hlen

theorem exec_echoRequest_of_held (h : s.holdsAddr port sub a = true) (hlen : e.fr.len ≤ 9216) (hplain : e.fr.plain = true) :
    exec (.echoRequest port sub a e) s = .next (s.send (.echoReply port sub a e.data)) :=
  congrArg Host.Outcome.next ((State.admitFrame_of_plain hlen hplain _).trans (if_pos h))

theorem exec_echoRequest_of_unheld (h : s.holdsAddr port sub a = false) (hlen : e.fr.len ≤ 9216) :
    exec (.echoRequest port sub a e) s = .next s := by
  cases hplain : e.fr.plain with
  | false => exact congrArg Host.Outcome.next (State.admitFrame_of_unplain hlen hplain _)
  | true => exact congrArg Host.Outcome.next ((State.admitFrame_of_plain hlen hplain _).trans (if_neg (by simp [h])))

end

/-! Pause and link (R418, R426, R527). -/

section
variable {s : State} {port sub prio : Nat} {xoff : Bool}

/-- The priorities that are paused after a PFC frame. -/
def pausedAfter (prio : Nat) (xoff : Bool) (paused : List Nat) : List Nat :=
  if xoff then prio :: paused.filter (· != prio) else paused.filter (· != prio)

theorem mem_pausedAfter (paused : List Nat) (q : Nat) :
    q ∈ pausedAfter prio xoff paused ↔ if q = prio then xoff = true else q ∈ paused := by
  cases xoff <;> by_cases hq : q = prio <;> simp [pausedAfter, hq]

theorem exec_pfcFrame_of_enabled (hp : s.portPfc port prio = true) (hup : (s.sub port sub).up = true) :
    exec (.pfcFrame port sub prio xoff) s =
      .next (s.setSub port sub { s.sub port sub with paused := pausedAfter prio xoff (s.sub port sub).paused }) :=
  congrArg Host.Outcome.next (if_neg (by simp [hp, hup]))

theorem exec_pfcFrame_of_disabled (hp : s.portPfc port prio = false) : exec (.pfcFrame port sub prio xoff) s = .next s :=
  congrArg Host.Outcome.next (if_pos (by simp [hp]))

theorem exec_pfcStorm_of_paused (hp : prio ∈ (s.sub port sub).paused) : exec (.pfcStorm port sub prio) s =
    .next ((s.modNet (fun n => { n with storm := insertNat port n.storm })).eventAll 0x000A [(port, 3), (sub, 2), (prio, 3)]) :=
  congrArg Host.Outcome.next (if_neg (by simp [hp]))

theorem exec_linkDown_of_up (hup : (s.sub port sub).up = true) : exec (.linkDown port sub) s =
    .next ((s.setSub port sub { s.sub port sub with up := false, paused := [] }).send (.linkTrain port sub (s.trainMode port))) :=
  congrArg Host.Outcome.next (if_neg (by simp [hup]))

@[simp] theorem State.phase_correctLanes (s : State) (port sub : Nat) : (s.correctLanes port sub).phase = s.phase := by
  unfold State.correctLanes
  split <;> rfl

/-- A subport that came up, with its lanes as `correctLanes` leaves them. -/
def State.linked (s : State) (port sub : Nat) : State :=
  (s.correctLanes port sub).setSub port sub { (s.correctLanes port sub).sub port sub with up := true }

theorem State.linked_eq (s : State) (port sub : Nat) : s.linked port sub =
    if s.trainMode port = .negotiate then { s with fresh := s.fresh + 1 }.setSub port sub { s.sub port sub with
      polarity := bits (Config.free64 s.fresh) 3 0 % 2 ^ (4 / s.subports port), up := true }
    else s.setSub port sub { s.sub port sub with polarity := 0, up := true } := by
  unfold State.linked State.correctLanes
  cases s.trainMode port <;> simp only [State.sub_setSub, State.setSub_setSub] <;> rfl

section
variable (hlow : 3 ≤ s.phase) (hhigh : s.phase ≠ 7) (hen : (port, sub) ∈ s.enabledSubs)
include hlow hhigh hen

theorem exec_linkUp_of_enabled : exec (.linkUp port sub) s =
    .next (if s.phase = 3 ∧ (s.linked port sub).allLinks = true then (s.linked port sub).lockTime else s.linked port sub) := by
  have hphase : (s.linked port sub).phase = s.phase := s.phase_correctLanes port sub
  rw [← hphase]
  exact congrArg Host.Outcome.next (if_neg (by simp [hhigh, hen, Nat.not_lt.2 hlow]))

end
end

/-- Settles O33: what a subport sends by the packet that is chosen, the answers by the addresses held, pauses and link by their records. -/
theorem portsAnswerAndPause : Obligations.PortsAnswerAndPause := by
  unfold Obligations.PortsAnswerAndPause
  refine ⟨fun k s => ?sends, fun e s => ?pcp, fun n o i s => ?headers, State.trainMode_eq, State.holdsAddr_iff,
    fun port sub v4 a e s => ?answers, fun port sub prio xoff s hp hup => ⟨_, exec_pfcFrame_of_enabled hp hup, ?on, fun q hq => ?off⟩,
    fun _ _ _ _ _ => exec_pfcFrame_of_disabled, fun _ _ _ _ => exec_pfcStorm_of_paused, fun _ _ _ => exec_linkDown_of_up,
    fun port sub s hlow hhigh hen => ?linkUp⟩
  case sends =>
    intro queue pcp may
    have hmay : ∀ e, may e ↔ s.maySend k e = true := fun e => (s.maySend_iff k e).symm
    refine ⟨?idle, fun e he => ?chosen⟩
    case idle =>
      rintro (hdown | hnone)
      · exact s.sendFrame_of_down k hdown
      · exact s.sendFrame_of_none k (s.nextPacket_eq_none k fun e he hm => hnone e he ((hmay e).2 hm))
    case chosen =>
      obtain ⟨⟨hmem, hm⟩, htop, hturn, hfirst⟩ := s.nextPacket_chosen k he
      have hp : pcp e = s.topPcp k := htop
      simp only [hmay, hp]
      refine ⟨hmem, hm, fun d hd hmd => s.pcpOf_le_topPcp k hd hmd, fun d hd hmd hpd => ?turn, ?oldest, fun hup => ?sent⟩
      case turn => exact hturn d ((s.mem_topEgress k).2 ⟨⟨hd, hmd⟩, hpd⟩)
      case oldest => exact hfirst
      case sent =>
        obtain ⟨a, b, hq, hafter⟩ := afterFrame_append hmem (Decidable.decide ((s.qp e.qpn).frames e.out ≤ e.sent + 1))
        exact ⟨_, htop ▸ s.sendFrame_of_some k hup he, a, b, hq, by simpa using hafter⟩
  case pcp => exact ⟨fun m h => by rw [State.pcpOf, h]; rfl, Qp.pcpOf_of_ne_cnp _⟩
  case headers =>
    intro q h carries
    refine ⟨rfl, rfl, rfl, ?cnp, fun hne => ?other, ?df, fun hsport => if_neg hsport⟩
    case cnp => rintro ⟨m, rfl⟩; exact ⟨rfl, rfl, rfl⟩
    case other =>
      have hpcp := q.pcpOf_of_ne_cnp hne
      exact ⟨hpcp ▸ rfl, q.dscpOf_of_ne_cnp hne, hpcp ▸ rfl⟩
    case df => exact Iff.rfl
  case answers =>
    refine ⟨exec_arpRequest_of_held, exec_arpRequest_of_unheld, exec_echoRequest_of_held, fun hlen h => ?quiet,
      fun hlen => congrArg Host.Outcome.next (State.admitFrame_of_long hlen _), exec_neighborSolicitation_of_held,
      exec_neighborSolicitation_of_unheld⟩
    rcases h with h | h
    · exact exec_echoRequest_of_unheld h hlen
    · exact congrArg Host.Outcome.next (State.admitFrame_of_unplain hlen h _)
  case on => simp [mem_pausedAfter]
  case off => simp [mem_pausedAfter, hq]
  case linkUp =>
    intro lanes t
    rw [exec_linkUp_of_enabled hlow hhigh hen, State.linked_eq]
    exact ⟨fun h => by rw [if_neg (by simpa [imp_iff_not_or] using h)], fun h3 hl => by rw [if_pos ⟨h3, hl⟩]⟩

end Sys2Proof.Machine
end

section
/-! The group's time (R446–R450, R527, R528): the servo's counts, HOLDOVER, 1PPS, and how the best master is found and announced. -/

namespace Sys2Proof.Machine

/-! An event leaves of the network unit all but the queue-pair cache and the subports' queues. -/

/-- The network unit without its cache and queues. -/
def Net.steady (n : Net) : Net := { n with cache := [], egress := [] }

section
variable (s : State)

theorem State.steady_enqueue (n : Nat) (o : Output) : (s.enqueue n o).net.steady = s.net.steady := rfl

theorem State.steady_cacheIn (n : Nat) : (s.cacheIn n).net.steady = s.net.steady := by
  unfold State.cacheIn
  dsimp only
  split <;> rfl

theorem State.steady_transmit (n : Nat) (o : Output) : (s.transmit n o).net.steady = s.net.steady := by
  unfold State.transmit
  dsimp only
  split
  · rfl
  · split
    · exact s.steady_cacheIn n
    · rfl

theorem State.steady_postHost (n : Nat) (ws : List (Nat × Reg × List Byte)) : (s.postHost n ws).net.steady = s.net.steady := by
  unfold State.postHost
  refine foldl_keeps (fun (r : State) => r.net.steady = s.net.steady) _ (fun r w h => ?_) _ _ rfl
  unfold State.post State.postAll
  exact foldl_keeps (fun (r : State) => r.net.steady = s.net.steady) _ (fun (r : State) o h => (r.steady_transmit n o).trans h) _ _ h

theorem State.steady_raise (c tag code : Nat) (p : List (Nat × Nat)) : (s.raise c tag code p).net.steady = s.net.steady := by
  simp only [State.raise]
  split
  · split
    · rfl
    · exact State.steady_postHost s _ _
  · rfl
  · rfl

theorem State.steady_eventAll (code : Nat) (p : List (Nat × Nat)) : (s.eventAll code p).net.steady = s.net.steady :=
  foldl_keeps (fun (r : State) => r.net.steady = s.net.steady) _ (fun (r : State) c h => (r.steady_raise c 0xFF code p).trans h) _ _ rfl

end

/-! Syncs (R448, R450). -/

section
variable {s : State} {port : Nat} {offset : Int}

/-- The counts of a Sync, as it leaves them. -/
def State.counted (s : State) (port : Nat) (offset : Int) : State :=
  (s.askDelay port).modNet (fun n => { n with
    follows := some port, offset := offset, goodSyncs := if offset.natAbs ≤ 200 then n.goodSyncs + 1 else 0
    badSyncs := if 1000 < offset.natAbs then n.badSyncs + 1 else 0
    faultSent := Decidable.decide (25000 < offset.natAbs) && s.net.wasReady })

theorem State.net_askDelay (s : State) (port : Nat) : (s.askDelay port).net = s.net := by unfold State.askDelay; split <;> rfl

theorem State.net_modNet (s : State) (f : Net → Net) : (s.modNet f).net = f s.net := rfl

theorem State.ptpState_counted : (s.counted port offset).net.ptpState = s.net.ptpState := by
  rw [State.counted, State.net_modNet, State.net_askDelay]

theorem State.goodSyncs_counted :
    (s.counted port offset).net.goodSyncs = if offset.natAbs ≤ 200 then s.net.goodSyncs + 1 else 0 := by
  rw [State.counted, State.net_modNet, State.net_askDelay]

theorem State.badSyncs_counted :
    (s.counted port offset).net.badSyncs = if 1000 < offset.natAbs then s.net.badSyncs + 1 else 0 := by
  rw [State.counted, State.net_modNet, State.net_askDelay]

theorem State.ptpState_eventAll (s : State) (code : Nat) (p : List (Nat × Nat)) : (s.eventAll code p).net.ptpState = s.net.ptpState :=
  have h := congrArg Net.ptpState (s.steady_eventAll code p)
  h

theorem State.badSyncs_eventAll (s : State) (code : Nat) (p : List (Nat × Nat)) : (s.eventAll code p).net.badSyncs = s.net.badSyncs :=
  have h := congrArg Net.badSyncs (s.steady_eventAll code p)
  h

/-- What the servo makes of a counted Sync. -/
def State.servo (s : State) : State :=
  if s.net.ptpState ≠ 1 ∧ syncRun ≤ s.net.goodSyncs then s.timed 1
  else if s.net.ptpState = 1 ∧ syncRun ≤ s.net.badSyncs then s.holdover
  else s

section
variable (h3 : s.net.ptpState ≠ 3) (hp : s.ptpPort port = true) (h2 : s.up 2 = true)
include h3 hp h2

theorem exec_ptpSync_eq : exec (.ptpSync port offset) s = .next (State.servo
    (if Decidable.decide (25000 < offset.natAbs) && s.net.wasReady && !s.net.faultSent then
      (s.counted port offset).eventAll 0x000C [(signedField 32 offset, 32)] else s.counted port offset)) := by
  refine congrArg Host.Outcome.next ((if_neg (by simp [h3, hp, h2])).trans ?_)
  simp only [State.counted, State.servo, State.net_askDelay, decide_eq_true_eq]
  rfl

theorem exec_ptpSync_of_quiet (hq : offset.natAbs ≤ 25000 ∨ s.net.wasReady = false ∨ s.net.faultSent = true) :
    exec (.ptpSync port offset) s = .next (s.counted port offset).servo := by
  rw [exec_ptpSync_eq h3 hp h2, if_neg]
  rcases hq with h | h | h <;> simp [h]

theorem exec_ptpSync_of_far (hr : s.net.wasReady = true) (hfar : 25000 < offset.natAbs) (hs : s.net.faultSent = false) :
    exec (.ptpSync port offset) s = .next ((s.counted port offset).eventAll 0x000C [(signedField 32 offset, 32)]).servo := by
  rw [exec_ptpSync_eq h3 hp h2, if_pos (by simp [hr, hfar, hs])]

end
end

/-! Becoming grandmaster, and what is sent (R446, R527). -/

/-- A step that sends what it sends whatever went before, repeated, sends all of it. -/
theorem foldl_sends {f : State → Nat → State} {s : State} {l : Nat → List Output}
    (hf : ∀ p o, f { s with out := o } p = { s with out := l p ++ o }) (ps : List Nat) (o : List Output) :
    ∃ o', ps.foldl f { s with out := o } = { s with out := o' } ∧ o ⊆ o' ∧ ∀ p ∈ ps, l p ⊆ o' := by
  induction ps generalizing o with
  | nil => exact ⟨o, rfl, List.Subset.refl o, by simp⟩
  | cons p ps ih =>
    obtain ⟨o', hfold, hsub, hps⟩ := ih (l p ++ o)
    refine ⟨o', by rw [List.foldl_cons, hf, hfold], List.Subset.trans (List.subset_append_right ..) hsub, ?_⟩
    exact List.forall_mem_cons.2 ⟨List.Subset.trans (List.subset_append_left ..) hsub, hps⟩

section
variable (s : State)

/-- What `tellPriority` sends. -/
def State.announces (p : Nat) : List Output := if s.ptpPort p then [.announce p s.ptpHdr s.served] else []

theorem State.tellPriority_out (p : Nat) (o : List Output) :
    { s with out := o }.tellPriority p = { s with out := s.announces p ++ o } := by
  unfold State.announces
  cases h : s.ptpPort p with
  | true => exact if_pos h
  | false => exact if_neg (by rw [show State.ptpPort { s with out := o } p = s.ptpPort p from rfl, h]; exact Bool.false_ne_true)

theorem State.lead_spec : ∃ o, s.lead = { s.timed 3 with out := o } ∧ ∀ p < 8, (s.timed 3).announces p ⊆ o := by
  obtain ⟨o, h, -, ho⟩ := foldl_sends (s.timed 3).tellPriority_out (List.range 8) (s.timed 3).out
  exact ⟨o, h, fun p hp => ho p (List.mem_range.2 hp)⟩

theorem State.timed_of_ne {k : Nat} (h : s.phase ≠ 4) :
    s.timed k = s.modNet (fun n => { n with ptpState := k, goodSyncs := 0, badSyncs := 0 }) := if_neg h

theorem State.timed_of_lock {k : Nat} (h : s.phase = 4) :
    s.timed k = (s.modNet (fun n => { n with ptpState := k, goodSyncs := 0, badSyncs := 0 })).align := if_pos h

theorem State.align_fields : ∃ t f o p, s.align = { s with tally := t, fresh := f, out := o, phase := 5, pwr := p } ∧ p.clk = 11 := by
  obtain ⟨o, h⟩ := State.setPhase_fields
    (s.firmwareTick.modPwr fun p => { p with clk := 11, next := 11, nextCapped := false, excess := 0 }) 5
  exact ⟨_, _, o, _, h, rfl⟩

theorem State.timed_fields (k : Nat) : ∃ t f o ph p, s.timed k = { s with
    net := { s.net with ptpState := k, goodSyncs := 0, badSyncs := 0 }, tally := t, fresh := f, out := o, phase := ph, pwr := p } := by
  by_cases h : s.phase = 4
  · obtain ⟨t, f, o, p, ha, -⟩ := (s.modNet (fun n => { n with ptpState := k, goodSyncs := 0, badSyncs := 0 })).align_fields
    exact ⟨t, f, o, 5, p, by rw [s.timed_of_lock h, ha]; rfl⟩
  · exact ⟨_, _, _, _, _, s.timed_of_ne h⟩

theorem State.announces_timed {p : Nat} (h : s.ptpPort p = true) :
    (s.timed 3).announces p = [.announce p s.ptpHdr s.ownMaster] := by
  obtain ⟨t, f, o, ph, pw, ht⟩ := s.timed_fields 3
  rw [ht]
  exact if_pos h

/-- What a port sends of its own accord in a Bell. -/
def State.ptpSends (p : Nat) : List Output :=
  if s.ptpPort p then
    (if s.ptpBit 29 then [.delayReq p true s.ptpHdr] else []) ++
      (if s.servesTime && (s.net.ptpState == 3 || s.net.follows != some p) then .ptpSync p s.ptpHdr :: s.announces p else [])
  else []

/-- A port's part of `ptpTick`. -/
def State.ptpTickPort (s : State) (p : Nat) : State :=
  if !s.ptpPort p then s
  else
    let s := if s.servesTime && (s.net.ptpState == 3 || s.net.follows != some p) then (s.tellPriority p).send (.ptpSync p s.ptpHdr) else s
    if s.ptpBit 29 then s.send (.delayReq p true s.ptpHdr) else s

theorem State.ptpTickPort_out (p : Nat) (o : List Output) :
    { s with out := o }.ptpTickPort p = { s with out := s.ptpSends p ++ o } := by
  have hport : State.ptpPort { s with out := o } p = s.ptpPort p := rfl
  have hserves : State.servesTime { s with out := o } = s.servesTime := rfl
  have hbit : ∀ o, State.ptpBit { s with out := o } 29 = s.ptpBit 29 := fun _ => rfl
  have hhdr : ∀ o, State.ptpHdr { s with out := o } = s.ptpHdr := fun _ => rfl
  unfold State.ptpTickPort State.ptpSends
  simp only [hport, hserves, State.tellPriority_out, State.send]
  cases s.ptpPort p with
  | false => rfl
  | true =>
    cases s.servesTime && (s.net.ptpState == 3 || s.net.follows != some p) <;> cases hb : s.ptpBit 29 <;> simp [hbit, hb, hhdr]

theorem State.ptpTick_sends {p : Nat} (hp : p < 8) (h2 : s.up 2 = true) : s.ptpSends p ⊆ s.ptpTick.out := by
  obtain ⟨o, h, -, ho⟩ := foldl_sends s.ptpTickPort_out (List.range 8) s.out
  have htick : s.ptpTick = (List.range 8).foldl State.ptpTickPort s := if_neg (by simp [h2])
  rw [htick, show (List.range 8).foldl State.ptpTickPort s = _ from h]
  exact ho p (List.mem_range.2 hp)

end

/-! Masters (R446). -/

theorem Master.better_iff (a b : Master) : a.better b = true ↔ a.priority1 < b.priority1 ∨ a.priority1 = b.priority1 ∧
    (a.quality < b.quality ∨ a.quality = b.quality ∧ a.identity < b.identity) := by
  simp [Master.better, Nat.blt_eq]

theorem Master.better_irrefl (a : Master) : a.better a = false := by
  rw [Bool.eq_false_iff, ne_eq, Master.better_iff]; omega

theorem Master.better_asymm {a b : Master} (h : a.better b = true) : b.better a = false := by
  rw [Bool.eq_false_iff, ne_eq, Master.better_iff]
  rw [Master.better_iff] at h
  omega

/-- The best is the new master or the one known, and neither is better than it. -/
theorem Net.best_spec (n : Net) (m : Master) : (n.best m = m ∨ n.master = some (n.best m)) ∧ m.better (n.best m) = false ∧
    ∀ b, n.master = some b → b.better (n.best m) = false := by
  unfold Net.best
  split
  case h_1 b hb =>
    cases hm : m.better b with
    | true => exact ⟨.inl rfl, m.better_irrefl, fun c hc => by rw [hb] at hc; cases hc; exact Master.better_asymm hm⟩
    | false => exact ⟨.inr hb, hm, fun c hc => by rw [hb] at hc; cases hc; exact b.better_irrefl⟩
  case h_2 hnone => exact ⟨.inl rfl, m.better_irrefl, fun c hc => by rw [hnone] at hc; cases hc⟩

section
variable {s : State} {port domain : Nat} {m : Master}

theorem exec_announce_of_ignored (h : s.ptpPort port = false ∨ domain % 256 ≠ bits (s.reg 0x080) 23 16) :
    exec (.announce port domain m) s = .next s :=
  congrArg Host.Outcome.next (if_pos (by rcases h with h | h <;> simp [h]))

section
variable (hp : s.ptpPort port = true) (hd : domain % 256 = bits (s.reg 0x080) 23 16)
include hp hd

/-- The state that knows the best master heard of. -/
def State.hears (s : State) (m : Master) : State := s.modNet fun n => { n with master := some (s.net.best m) }

theorem exec_announce_of_follower (hb : (s.net.best m).better s.ownMaster = true ∨ s.ptpBit 26 = false) :
    exec (.announce port domain m) s = .next (if s.net.ptpState = 3 then
      (s.hears m).modNet fun n => { n with ptpState := 0, goodSyncs := 0, badSyncs := 0 } else s.hears m) :=
  congrArg Host.Outcome.next ((if_neg (by simp [hp, hd])).trans
    (if_pos (show ((s.net.best m).better s.ownMaster || !s.ptpBit 26) = true by rcases hb with h | h <;> simp [h])))

theorem exec_announce_of_leader (hb : (s.net.best m).better s.ownMaster = false) (hgm : s.ptpBit 26 = true) :
    exec (.announce port domain m) s = .next
      (if s.net.ptpState = 3 ∨ s.phase < 4 ∨ s.phase = 7 then s.hears m else (s.hears m).lead) :=
  congrArg Host.Outcome.next ((if_neg (by simp [hp, hd])).trans
    (if_neg (show ¬ ((s.net.best m).better s.ownMaster || !s.ptpBit 26) = true by simp [hb, hgm])))

end
end

theorem State.servesTime_iff (s : State) : s.servesTime = true ↔ s.net.ptpState = 3 ∨ s.ptpBit 30 = true ∧ s.net.ptpState = 1 := by
  simp [State.servesTime]

section
variable {s : State} {delta : Int} (h31 : s.ptpBit 31 = true)
include h31

theorem exec_ppsEdge_of_near (h : delta.natAbs ≤ 1000) :
    exec (.ppsEdge delta) s = .next (s.modNet (fun n => { n with ppsOk := true })) :=
  congrArg Host.Outcome.next ((if_neg (by simp [h31])).trans (if_pos h))

theorem exec_ppsEdge_of_far (h : 1000 < delta.natAbs) :
    exec (.ppsEdge delta) s = .next (s.modNet (fun n => { n with ppsOk := false, ppsBad := n.ppsBad + 1 })) :=
  congrArg Host.Outcome.next ((if_neg (by simp [h31])).trans (if_neg (Nat.not_le.2 h)))

end

/-! The servo's decisions. -/

section
variable {s : State}

theorem State.servo_of_good (h1 : s.net.ptpState ≠ 1) (hg : 16 ≤ s.net.goodSyncs) : s.servo = s.timed 1 := if_pos ⟨h1, hg⟩

theorem State.servo_of_unlocked (h1 : s.net.ptpState ≠ 1) (hg : s.net.goodSyncs < 16) : s.servo = s := by
  simp [State.servo, syncRun, h1, Nat.not_le.2 hg]

theorem State.servo_of_bad (h1 : s.net.ptpState = 1) (hb : 16 ≤ s.net.badSyncs) : s.servo = s.holdover := by
  simp [State.servo, syncRun, h1, hb]

theorem State.servo_of_locked (h1 : s.net.ptpState = 1) (hb : s.net.badSyncs < 16) : s.servo = s := by
  simp [State.servo, syncRun, h1, Nat.not_le.2 hb]

end

/-- Settles O34: a Sync by the counts it leaves, the masters by the order that compares them, and what is sent by folds over the
ports. -/
theorem timeFollowsTheMaster : Obligations.TimeFollowsTheMaster := by
  unfold Obligations.TimeFollowsTheMaster
  refine ⟨fun port offset s h3 hp h2 hq => ?quiet, fun port offset s h1 hp h2 hr hfar hb hs => ?far,
    fun s h1 => congrArg Host.Outcome.next (if_pos h1), fun _ => rfl, fun _ s h => s.timed_of_ne h, fun k s h => ?lock,
    fun delta s h31 => ?pps, fun s hlow hhigh h1 h3 => ?silence,
    Master.better_iff, fun port domain m s => ?announce, fun port s hp h2 hpp => ?tick, State.servesTime_iff,
    fun port s hp => ?delay⟩
  case quiet =>
    intro t
    have ht : t = s.counted port offset := rfl
    rw [exec_ptpSync_of_quiet h3 hp h2 hq, ht]
    have hstate := s.ptpState_counted (port := port) (offset := offset)
    rw [← hstate]
    refine ⟨fun h1 hg ho => ?_, fun h1 hg => ?_, fun h1 hb ho => ?_, fun h1 hb => ?_⟩
    · rw [State.servo_of_good h1 (by rw [State.goodSyncs_counted, if_pos ho]; omega)]
    · rw [State.servo_of_unlocked h1 (by rw [State.goodSyncs_counted]; split <;> omega)]
    · rw [State.servo_of_bad h1 (by rw [State.badSyncs_counted, if_pos ho]; omega)]
    · rw [State.servo_of_locked h1 (by rw [State.badSyncs_counted]; split <;> omega)]
  case far =>
    have hcount : s.counted port offset = (if s.ptpBit 29 then s else s.send (.delayReq port false s.ptpHdr)).modNet (fun n => { n with
        follows := some port, offset := offset, goodSyncs := 0, badSyncs := n.badSyncs + 1, faultSent := true }) := by
      have hgood : ¬ offset.natAbs ≤ 200 := by omega
      have hbad : 1000 < offset.natAbs := by omega
      simp only [State.counted, hgood, hbad, hfar, hr, if_true, if_false]
      rfl
    rw [exec_ptpSync_of_far (by omega) hp h2 hr hfar hs, ← hcount, State.servo_of_locked]
    · rw [State.ptpState_eventAll, State.ptpState_counted, h1]
    · rw [State.badSyncs_eventAll, State.badSyncs_counted]; split <;> omega
  case lock =>
    obtain ⟨t, f, o, p, ha, hclk⟩ := (s.modNet (fun n => { n with ptpState := k, goodSyncs := 0, badSyncs := 0 })).align_fields
    rw [s.timed_of_lock h, ha]
    exact ⟨rfl, hclk⟩
  case pps =>
    exact ⟨exec_ppsEdge_of_near h31, exec_ppsEdge_of_far h31⟩
  case silence =>
    obtain ⟨o, hlead, hout⟩ := s.lead_spec
    refine ⟨fun hgm => ⟨?_, by rw [hlead], by rw [hlead], fun port hport hp => ?_⟩, fun hgm h4 => ?_⟩
    · exact congrArg Host.Outcome.next ((if_neg (by omega)).trans (if_pos hgm))
    · rw [hlead]
      exact hout port hport (by rw [s.announces_timed hp]; exact List.mem_singleton.2 rfl)
    · exact congrArg Host.Outcome.next ((if_neg (by omega)).trans ((if_neg (by simp [hgm])).trans (if_pos h4)))
  case announce =>
    intro own t
    obtain ⟨hbest, hm, hknown⟩ := s.net.best_spec m
    refine ⟨exec_announce_of_ignored, fun hp hd => ⟨s.net.best m, hbest, hm, hknown, fun hb => ?_, fun hb hgm => ?_⟩⟩
    · rw [exec_announce_of_follower hp hd hb]
      exact ⟨fun h3 => by rw [if_pos h3]; rfl, fun h3 => by rw [if_neg h3]; rfl⟩
    · rw [exec_announce_of_leader hp hd hb hgm]
      exact ⟨fun h => by rw [if_pos h]; rfl, fun h3 hlow hhigh => by rw [if_neg (by omega)]; rfl⟩
  case tick =>
    have hsends := s.ptpTick_sends hp h2
    refine ⟨fun hserves hf => ⟨hsends ?_, hsends ?_⟩, fun h29 => hsends ?_⟩
    · have hf' : s.net.ptpState = 3 ∨ ¬ s.net.follows = some port := hf
      simp [State.ptpSends, State.announces, hpp, hserves, hf']
    · have hf' : s.net.ptpState = 3 ∨ ¬ s.net.follows = some port := hf
      simp [State.ptpSends, hpp, hserves, hf']
    · simp [State.ptpSends, hpp, h29]
  case delay =>
    exact ⟨fun h29 => congrArg Host.Outcome.next (if_pos (by simp [hp, h29])),
      fun h29 hserves => congrArg Host.Outcome.next (if_pos (by simp [hp, h29, hserves]))⟩

end Sys2Proof.Machine
end

section
/-! The mailbox (R457, R464, R465, R468, R471, R476): how a command is taken, waits or is turned away, and what its answer leaves. -/

namespace Sys2Proof.Machine

/-! What an event leaves: of the sessions all but the ring of its own, of the queue pairs all but its own. -/

section
variable (s : State)

theorem State.qp_transmit_ne {n m : Nat} (o : Output) (h : m ≠ n) : (s.transmit n o).qp m = s.qp m := by
  have hcache : (s.cacheIn n).qp m = s.qp m := by
    unfold State.cacheIn
    dsimp only
    split <;> rfl
  unfold State.transmit
  dsimp only
  split
  · rfl
  · split
    · exact hcache
    · simp [h]

theorem State.qp_postAll_ne {n m : Nat} (o : Owner) (k : Nat) (d : Bool) (outs : Nat → List Output) (h : m ≠ n) :
    (s.postAll n o k d outs).qp m = s.qp m := by
  unfold State.postAll
  refine foldl_keeps (fun r : State => r.qp m = s.qp m) _ (fun r a hr => (r.qp_transmit_ne a h).trans hr) _ _ ?_
  simp [h]

theorem State.qp_postHost_ne {n m : Nat} (ws : List (Nat × Reg × List Byte)) (h : m ≠ n) : (s.postHost n ws).qp m = s.qp m := by
  unfold State.postHost
  refine foldl_keeps (fun r : State => r.qp m = s.qp m) _ (fun r w hr => (r.qp_postAll_ne _ _ _ _ h).trans hr) _ _ ?_
  simp [h]

@[simp] theorem State.ctx_postHost (n : Nat) (ws : List (Nat × Reg × List Byte)) (d : Nat) : (s.postHost n ws).ctx d = s.ctx d := by
  obtain ⟨q, w, h⟩ := s.postHost_fields n ws
  rw [h]; rfl

/-- An event's session differs in what is staged, in the count of what was lost, and in the ring's head. -/
theorem State.ctx_raise (c tag code : Nat) (p : List (Nat × Nat)) : ∃ staged lost head, ∀ d, (s.raise c tag code p).ctx d =
    if d = c then { s.ctx c with ses := { (s.ctx c).ses with staged := staged, lost := lost, head := head } } else s.ctx d := by
  have hstage : ∀ (x : Session) (e : Event), ∃ staged lost, x.stage e = { x with staged := staged, lost := lost } := by
    intro x e
    unfold Session.stage
    split
    · exact ⟨_, x.lost, rfl⟩
    · exact ⟨x.staged, _, rfl⟩
  have hwait : ∀ e, ∃ staged lost head, ∀ d, (s.setCtx c { s.ctx c with ses := (s.ctx c).ses.stage e }).ctx d =
      if d = c then { s.ctx c with ses := { (s.ctx c).ses with staged := staged, lost := lost, head := head } } else s.ctx d := by
    intro e
    obtain ⟨staged, lost, h⟩ := hstage (s.ctx c).ses e
    exact ⟨staged, lost, (s.ctx c).ses.head, fun d => by rw [h, State.ctx_setCtx]⟩
  simp only [State.raise]
  split
  · split
    · exact hwait _
    · refine ⟨(s.ctx c).ses.staged, (s.ctx c).ses.lost, ((s.ctx c).ses.head + 1) % 2 ^ 32, fun d => ?_⟩
      simp [State.writeEvent]
  · exact hwait _
  · exact ⟨(s.ctx c).ses.staged, (s.ctx c).ses.lost, (s.ctx c).ses.head, fun d => by split <;> simp [*]⟩

theorem State.qp_raise_ne (c tag code : Nat) (p : List (Nat × Nat)) {n : Nat} (h : n ≠ (s.ctx c).ses.modQpn) :
    (s.raise c tag code p).qp n = s.qp n := by
  simp only [State.raise]
  split
  · split
    · rfl
    · exact s.qp_postHost_ne _ h
  · rfl
  · rfl

end

/-! How a command is taken (R464, R468, R471, R476). -/

section
variable {s : State} {c q k : Nat} {i : Instr} {run : State → State}

theorem State.offer_of_closed (h : (s.ctx c).ses.state ≠ .opened) : s.offer c q k i run = s := if_pos h

theorem State.offer_of_busy (h : (s.ctx c).ses.state = .opened) (hb : s.group.fenced = true ∨ (s.ctx c).ses.busy = true) :
    s.offer c q k i run = s.renew c := by
  simp [State.offer, h, hb]

theorem State.offer_of_open (h : (s.ctx c).ses.state = .opened) (hf : s.group.fenced = false) (hb : (s.ctx c).ses.busy = false) :
    s.offer c q k i run = (s.taken c q).takeIn k i run := by
  simp [State.offer, h, hf, hb, State.taken]

end

theorem State.serve_of_refused {s : State} {c q : Nat} {c0 : Bool} {act : State → Reply'} (h0 : c0 = true) (hc : c ≠ 0) :
    s.serve c q c0 act = s.finish c q (mbNotPermitted, []) := if_pos ⟨h0, hc⟩

/-- Every mailbox command is offered to its session and core, and one for C0 alone is refused to another session. -/
theorem exec_of_mailbox {i : Instr} {c : CtxId} {q k : Nat} {only : Bool} (h : mailboxOf i = some (c, q, k, only)) :
    ∃ run, (∀ s, exec i s = .next (s.offer c q k i run)) ∧
      (only = true → c.val ≠ 0 → ∀ s : State, run s = s.finish c q (mbNotPermitted, [])) := by
  unfold mailboxOf at h
  split at h
  case h_26 => cases h
  case h_4 =>
    obtain ⟨rfl, rfl, rfl, rfl⟩ := h
    exact ⟨_, fun s => rfl, fun honly => absurd honly Bool.false_ne_true⟩
  all_goals
    obtain ⟨rfl, rfl, rfl, rfl⟩ := h
    exact ⟨_, fun s => rfl, fun honly hc s => State.serve_of_refused honly hc⟩

theorem exec_renew_of_takes {c : CtxId} {q : Nat} {s : State} (h : s.takes c 1) :
    exec (.renew c q) s = .next (((s.taken c q).renew c).finish c q (mbOk, [])) := by
  show execRenew c q s = _
  rw [execRenew, s.offer_eq _ _ _ _ _ h, doRenew, State.serve_any]

/-! The answer (R464). -/

theorem Memory.readBytes_writeBytes_part (m : Memory) (a : Nat) (pre mid post : List Byte) :
    Memory.readBytes (Memory.writeBytes m a (pre ++ (mid ++ post))) (a + pre.length) mid.length = mid := by
  have hbyte : ∀ i < mid.length, (Memory.readBytes (Memory.writeBytes m a (pre ++ (mid ++ post))) (a + pre.length) mid.length).getD i 0 =
      mid.getD i 0 := by
    intro i hi
    rw [Memory.readBytes_getD _ _ hi, Nat.add_assoc, Memory.read_writeBytes_in _ _ _ (by simp; omega)]
    rw [List.getD_append_right _ _ _ _ (by omega), Nat.add_sub_cancel_left, List.getD_append _ _ _ _ hi]
  refine List.ext_getElem (Memory.readBytes_length ..) fun i h1 h2 => ?_
  rw [List.getElem_eq_getD 0, List.getElem_eq_getD 0]
  exact hbyte i h2

/-- The bytes of a response from 8 on. -/
def responseData (ds : List Byte) : List Byte := ds.take 248 ++ List.replicate (248 - ds.length) 0

theorem responseData_getD {ds : List Byte} {i : Nat} (h : i < min 248 ds.length) : (responseData ds).getD i 0 = ds.getD i 0 := by
  have hlen : i < (ds.take 248).length := by simpa using h
  rw [responseData, List.getD_append _ _ _ _ hlen, List.getD_eq_getElem _ _ hlen, List.getElem_take, List.getD_eq_getElem]

/-- The 256 bytes of a response. -/
def responseBytes (q st : Nat) (ds : List Byte) : List Byte := leBytes 2 q ++ (leBytes 1 st ++ (leBytes 5 0 ++ responseData ds))

theorem responseBytes_eq (q st : Nat) (ds : List Byte) : responseBytes q st ds =
    (leBytes 2 q ++ leBytes 1 st ++ leBytes 5 0 ++ ds).take 256 ++
      List.replicate (256 - ((leBytes 2 q ++ leBytes 1 st ++ leBytes 5 0 ++ ds).take 256).length) 0 := by
  have hpad : 256 - (8 + min 248 ds.length) = 248 - ds.length := by omega
  have hlen : (leBytes 2 q ++ leBytes 1 st ++ leBytes 5 0).length = 8 := by simp
  rw [List.take_append, List.take_of_length_le (by omega), hlen, List.length_append, hlen, List.length_take, hpad, responseBytes,
    responseData]
  simp only [List.append_assoc]

section
variable (m : Memory) (q st : Nat) {ds : List Byte}

theorem readBytes_response_seq : Memory.readBytes (Memory.writeBytes m 256 (responseBytes q st ds)) 256 2 = leBytes 2 q :=
  Memory.readBytes_writeBytes_part m 256 [] (leBytes 2 q) _

theorem readBytes_response_status : Memory.readBytes (Memory.writeBytes m 256 (responseBytes q st ds)) 258 1 = leBytes 1 st :=
  Memory.readBytes_writeBytes_part m 256 (leBytes 2 q) (leBytes 1 st) _

theorem readBytes_response_zeros : Memory.readBytes (Memory.writeBytes m 256 (responseBytes q st ds)) 259 5 = leBytes 5 0 :=
  Memory.readBytes_writeBytes_part m 256 (leBytes 2 q ++ leBytes 1 st) (leBytes 5 0) _

theorem read_response_data {i : Nat} (h : i < min 248 ds.length) :
    Memory.read (Memory.writeBytes m 256 (responseBytes q st ds)) (264 + i) = ds.getD i 0 := by
  have hget : (responseBytes q st ds).getD (8 + i) 0 = (responseData ds).getD (8 + i - 2 - 1 - 5) 0 := by
    rw [responseBytes, List.getD_append_right _ _ _ _ (by simp; omega), List.getD_append_right _ _ _ _ (by simp; omega),
      List.getD_append_right _ _ _ _ (by simp; omega)]
    simp only [leBytes_length]
  rw [show 264 + i = 256 + (8 + i) by omega, Memory.read_writeBytes_in _ _ _ (by simp [responseBytes, responseData]; omega), hget,
    show 8 + i - 2 - 1 - 5 = i by omega, responseData_getD h]

end

/-- A session's mailbox with a response in it. -/
def Session.answered (x : Session) (q st : Nat) (ds : List Byte) : Session :=
  { x with mbox := Memory.writeBytes x.mbox 256 (responseBytes (q % 65536) st ds), done := q % 65536 }

theorem State.finish_eq {s : State} {c q st : Nat} {ds : List Byte} (h : (s.ctx c).ses.state ≠ .none) :
    s.finish c q (st, ds) =
      (s.modCtx c (fun x => { x with ses := x.ses.answered q st ds })).event c 0x000D [(q % 65536, 16), (st, 8)] := by
  simp only [Session.answered, responseBytes_eq]
  exact if_neg h

section
variable {s : State} {c q st : Nat} {ds : List Byte} (h : (s.ctx c).ses.state ≠ .none)
include h

theorem State.desk_finish : ((s.finish c q (st, ds)).ctx c).ses.mbox = ((s.ctx c).ses.answered q st ds).mbox ∧
    ((s.finish c q (st, ds)).ctx c).ses.done = q % 65536 := by
  obtain ⟨staged, lost, head, hctx⟩ :=
    (s.modCtx c (fun x => { x with ses := x.ses.answered q st ds })).ctx_raise c c 0x000D [(q % 65536, 16), (st, 8)]
  rw [State.finish_eq h, State.event, hctx, if_pos rfl, State.ctx_modCtx, if_pos rfl]
  exact ⟨rfl, rfl⟩

theorem State.qp_finish_ne {n : Nat} (hn : n ≠ (s.ctx c).ses.modQpn) : (s.finish c q (st, ds)).qp n = s.qp n := by
  rw [State.finish_eq h, State.event, State.qp_raise_ne]
  · rfl
  · simpa [Session.answered] using hn

end

section
variable (s : State) (c q : Nat) (r : Nat × List Byte)

@[simp] theorem State.mem_finish : (s.finish c q r).mem = s.mem := by
  obtain ⟨x, qs, w, h⟩ := s.finish_fields c q r
  rw [h]

@[simp] theorem State.crofts_finish : (s.finish c q r).crofts = s.crofts := by
  obtain ⟨x, qs, w, h⟩ := s.finish_fields c q r
  rw [h]

@[simp] theorem State.flights_finish : (s.finish c q r).flights = s.flights := by
  obtain ⟨x, qs, w, h⟩ := s.finish_fields c q r
  rw [h]

end

/-- Settles O35: how a command is taken by its session and cores, and the answer by the bytes of its response and what its event leaves. -/
theorem mailboxTakesAndAnswers : Obligations.MailboxTakesAndAnswers := by
  unfold Obligations.MailboxTakesAndAnswers
  refine ⟨fun i c q k only s hi => ?taken, fun c q s h => exec_renew_of_takes h, fun s c q st ds h hst => ?answer⟩
  case taken =>
    obtain ⟨run, hrun, honly⟩ := exec_of_mailbox hi
    rw [hrun]
    refine ⟨fun h => ?_, fun h hb => ?_, fun h hf hb => ⟨fun h1 => ?_, fun h1 hk => ?_⟩, fun h ho hc => ?_⟩
    · rw [State.offer_of_closed h]
    · rw [State.offer_of_busy h hb]
    · rw [State.offer_of_open h hf hb, State.takeIn, if_pos (by simp [h1])]
    · rw [State.offer_of_open h hf hb, State.takeIn, if_neg (by simp [h1]), if_pos (by simp [hk])]
    · rw [State.offer_eq _ _ _ _ _ _ h, honly ho hc, mbNotPermitted]
  case answer =>
    intro t m
    obtain ⟨hm, hdone⟩ := State.desk_finish (q := q) (st := st) (ds := ds) h
    have hbox : m = Memory.writeBytes (s.ctx c).ses.mbox 256 (responseBytes (q % 65536) st ds) := hm
    refine ⟨hdone, ?_, ?_, ?_, fun i hi => ?_, fun a ha => ?_, ?_, ?_, ?_, fun n hn => State.qp_finish_ne h hn, _, State.finish_eq h,
      rfl⟩
    · rw [hbox, readBytes_response_seq, leNat_leBytes]; omega
    · rw [hbox, readBytes_response_status, leNat_leBytes]; omega
    · rw [hbox, readBytes_response_zeros, leNat_leBytes, Nat.zero_mod]
    · rw [hbox, read_response_data _ _ _ hi]
    · rw [hbox, Memory.read_writeBytes_out _ _ _ (.inl ha)]
    · exact State.mem_finish ..
    · exact State.crofts_finish ..
    · exact State.flights_finish ..

end Sys2Proof.Machine
end

section
/-! Sessions (R438, R452–R454, R468, R470): how an open is answered, what an accepted one leaves, and how a session lapses. -/

namespace Sys2Proof.Machine

section
variable {s : State} {port sub : Nat} {src : Sender} {m : SesOpen}

/-! An open that reaches FP1 (R423, R427, R438, R452). -/

/-- What a mark changes: the note of a CNP, the counter of draws, and what is sent. -/
theorem State.markedUd_fields (s : State) (port sub : Nat) (src : Sender) :
    ∃ b f o, s.markedUd port sub src = { s with net := { s.net with udCnp := b }, fresh := f, out := o } := by
  unfold State.markedUd
  dsimp only
  split
  · exact ⟨_, _, _, rfl⟩
  · split
    · exact ⟨_, _, _, rfl⟩
    · split <;> exact ⟨s.net.udCnp, s.fresh + 1, _, rfl⟩

section
variable (hup : (s.sub port sub).up = true) (hrole : s.portRole port sub = 0) (hf : s.group.fenced = false)
  (hlen : src.fr.len ≤ 9216) (hplain : src.fr.plain = true)
include hup hrole hf hlen hplain

/-- What a HOST subport makes of an open. -/
theorem exec_sesOpen_of_host : exec (.sesOpen port sub src m) s = .next (
    let t := s.markedUd port sub src
    if src.qkey != bootQkey then t
    else if !t.cacheRoom then { t with net := { t.net with dropUd := t.net.dropUd + 1 } }
    else if !t.up 1 then t.hold 1 (.sesOpen port sub { src with fr := { src.fr with ce := false } } m)
    else t.openSession port sub src m) := by
  refine congrArg Host.Outcome.next ((if_neg (by simp [hup, hrole, hf])).trans ?_)
  simp [State.admitFrame, frameMax, Nat.not_lt.2 hlen, hplain]

end

theorem exec_sesOpen_of_marked (hup : (s.sub port sub).up = true) (hrole : s.portRole port sub = 0) (hf : s.group.fenced = false)
    (hlen : src.fr.len ≤ 9216) (hplain : src.fr.plain = true) :
    exec (.sesOpen port sub { src with fr := { src.fr with ce := true } } m) s =
      exec (.sesOpen port sub { src with fr := { src.fr with ce := false } } m)
        (s.markedUd port sub { src with fr := { src.fr with ce := true } }) := by
  obtain ⟨b, f, o, hmark⟩ := s.markedUd_fields port sub { src with fr := { src.fr with ce := true } }
  have hfirst := exec_sesOpen_of_host (src := { src with fr := { src.fr with ce := true } }) (m := m) hup hrole hf hlen hplain
  have hthen := exec_sesOpen_of_host (src := { src with fr := { src.fr with ce := false } }) (m := m)
    (s := s.markedUd port sub { src with fr := { src.fr with ce := true } })
    (by rw [hmark]; exact hup) (by rw [hmark]; exact hrole) (by rw [hmark]; exact hf) hlen hplain
  exact hfirst.trans hthen.symm

section
variable (hup : (s.sub port sub).up = true) (hrole : s.portRole port sub = 0) (hf : s.group.fenced = false)
  (hlen : src.fr.len ≤ 9216) (hplain : src.fr.plain = true) (hce : src.fr.ce = false)
include hup hrole hf hlen hplain hce

theorem exec_sesOpen_of_unmarked : exec (.sesOpen port sub src m) s = .next (
    if src.qkey != bootQkey then s
    else if !s.cacheRoom then { s with net := { s.net with dropUd := s.net.dropUd + 1 } }
    else if !s.up 1 then s.hold 1 (.sesOpen port sub { src with fr := { src.fr with ce := false } } m)
    else s.openSession port sub src m) := by
  have hmark : s.markedUd port sub src = s := if_pos (by simp [hce])
  rw [exec_sesOpen_of_host hup hrole hf hlen hplain, hmark]

theorem exec_sesOpen_of_other_key (hk : src.qkey ≠ 0x00004081) : exec (.sesOpen port sub src m) s = .next s := by
  rw [exec_sesOpen_of_unmarked hup hrole hf hlen hplain hce, if_pos (bne_iff_ne.2 (show src.qkey ≠ bootQkey from hk))]

theorem exec_sesOpen_of_full (hk : src.qkey = 0x00004081) (hroom : s.cacheRoom = false) :
    exec (.sesOpen port sub src m) s = .next { s with net := { s.net with dropUd := s.net.dropUd + 1 } } := by
  rw [exec_sesOpen_of_unmarked hup hrole hf hlen hplain hce, if_neg (by simp [hk, bootQkey]), if_pos (by simp [hroom])]

theorem exec_sesOpen_of_heard (hk : src.qkey = 0x00004081) (hroom : s.cacheRoom = true) (h1 : s.up 1 = true) :
    exec (.sesOpen port sub src m) s = .next (s.openSession port sub src m) := by
  rw [exec_sesOpen_of_unmarked hup hrole hf hlen hplain hce, if_neg (by simp [hk, bootQkey]), if_neg (by simp [hroom]),
    if_neg (by simp [h1])]

end

/-! How it is answered (R453, R454). -/

theorem State.openSession_of_again {c : Nat} (h : s.openAgain m = some c) :
    s.openSession port sub src m = s.reply port sub src.qpn src.addr c 0 m.nonce := by
  rw [State.openSession, h]; rfl

/-- The context that the answer names. -/
def State.openNamed (s : State) (m : SesOpen) : Nat := (s.openTarget m).getD (min 15 (m.ctx % 256))

theorem State.openSession_of_new (h : s.openAgain m = none) : s.openSession port sub src m =
    (if s.openCode m (s.openTarget m) = 0 then s.acceptOpen port sub (s.openNamed m) m else s).reply port sub src.qpn src.addr
      (s.openNamed m) (s.openCode m (s.openTarget m)) m.nonce := by
  rw [State.openSession, h]; rfl

theorem State.openSession_of_refused {k : Nat} (h : s.openAgain m = none) (hk : s.openCode m (s.openTarget m) = k) (h0 : k ≠ 0) :
    s.openSession port sub src m = s.reply port sub src.qpn src.addr (s.openNamed m) k m.nonce := by
  rw [State.openSession_of_new h, hk, if_neg h0]

theorem State.openSession_of_accepted (h : s.openAgain m = none) (hk : s.openCode m (s.openTarget m) = 0) :
    s.openSession port sub src m =
      (s.acceptOpen port sub (s.openNamed m) m).reply port sub src.qpn src.addr (s.openNamed m) 0 m.nonce := by
  rw [State.openSession_of_new h, hk, if_pos rfl]

theorem State.openCode_of_not_ready {t : Option Nat} (h : s.phase ≠ 6) : s.openCode m t = 5 := if_pos h

section
variable (hphase : s.phase = 6)
include hphase

theorem State.openCode_of_abi {t : Option Nat} (h : ¬ (1 ≤ m.abiMajor % 65536 ∧ m.abiMajor % 65536 ≤ 2)) : s.openCode m t = 1 := by
  have habi : m.abiMajor % 65536 < abiMin ∨ abiMax < m.abiMajor % 65536 := by unfold abiMin abiMax; omega
  exact (if_neg (not_not.2 hphase)).trans (if_pos habi)

variable (habi : 1 ≤ m.abiMajor % 65536 ∧ m.abiMajor % 65536 ≤ 2)
include habi

theorem State.openCode_of_none : s.openCode m none = 3 := by
  have h : ¬ (m.abiMajor % 65536 < abiMin ∨ abiMax < m.abiMajor % 65536) := by unfold abiMin abiMax; omega
  exact (if_neg (not_not.2 hphase)).trans (if_neg h)

theorem State.openCode_of_some (c : Nat) : s.openCode m (some c) =
    if (s.ctx c).ses.state = .opened ∨ ((s.ctx c).ses.state ≠ .none ∧ !m.resume) then 2
    else if m.resume && !s.resumes c m then 4 else 0 := by
  have h : ¬ (m.abiMajor % 65536 < abiMin ∨ abiMax < m.abiMajor % 65536) := by unfold abiMin abiMax; omega
  exact (if_neg (not_not.2 hphase)).trans (if_neg h)

end

end

theorem State.resumes_iff (s : State) (c : Nat) (m : SesOpen) : s.resumes c m = true ↔
    (s.ctx c).ses.state = .detached ∧ (s.ctx c).ses.token = m.token ∧ s.sinceRenewal c < 600000000 := by
  simp [State.resumes, Nat.blt_eq, releaseAfter, and_assoc]

/-! An accepted open (R454). -/

theorem State.ctxs_unpause (s : State) : s.unpause.ctxs = s.ctxs := by
  unfold State.unpause
  refine foldl_keeps (fun r : State => r.ctxs = s.ctxs) _ (fun r e h => ?_) _ _ ?_
  · exact h
  · rfl

theorem State.ctx_dropQps (s : State) (p : Nat → Qp → Bool) (c : Nat) : (s.dropQps p).ctx c = s.ctx c := by
  rw [State.dropQps, State.ctx, State.ctxs_unpause]; rfl

theorem State.ctx_cacheIn (s : State) (n c : Nat) : (s.cacheIn n).ctx c = s.ctx c := by
  unfold State.cacheIn
  dsimp only
  split <;> rfl

theorem State.qp_cacheIn (s : State) (n m : Nat) : (s.cacheIn n).qp m = s.qp m := by
  unfold State.cacheIn
  dsimp only
  split <;> rfl

theorem State.ctx_resolve (s : State) (n c : Nat) : (s.resolve n).ctx c = s.ctx c := by unfold State.resolve; split <;> rfl

/-- Resolving a MAC address leaves of a queue pair all but what is known of that address. -/
theorem State.qp_resolve (s : State) (n : Nat) : ∃ b, (s.resolve n).qp n = { s.qp n with macKnown := false, macDue := b } := by
  unfold State.resolve
  split
  · exact ⟨false, (s.qp_modQp n n fun q => { q with macKnown := false, macDue := false }).trans (if_pos rfl)⟩
  · exact ⟨true, (s.qp_modQp n n _).trans (if_pos rfl)⟩

theorem ringAddr_aligned (a : Nat) : ringAddr a % 64 = 0 := by
  rcases Nat.le_total (2 ^ 64 - 64) ((a + 31) / 64 * 64) with h | h
  · rw [ringAddr, Nat.min_eq_left h]; norm_num
  · rw [ringAddr, Nat.min_eq_right h, Nat.mul_mod_left]

section
variable {s : State} {port sub c n : Nat} {m : SesOpen}

/-- The state when an open of an existing context is accepted on queue pair `n`, before that queue pair is resolved. -/
def State.opensOn (s : State) (port sub c : Nat) (m : SesOpen) (n : Nat) : State :=
  let x := s.ctx c
  let ses := openedSession x.ses m x.key n
  let s := s.setCtx c { x with ses := ses, shadow := x.openShadow m }
  let q := sessionQp c port sub (m.hostQpn % 2 ^ 24) (s.sourceAddr port sub m.hostIp) m.hostIp ses.winKey
  s.setQp n { q with rate := s.subportRate port, target := s.subportRate port }

theorem State.acceptOpen_eq (hx : (s.ctx c).exist = true)
    (hn : (s.dropQps (fun n q => q.session && q.ctx == c && n == (s.ctx c).ses.modQpn)).freeQpn = some n) :
    s.acceptOpen port sub c m =
      ((((s.dropQps (fun n q => q.session && q.ctx == c && n == (s.ctx c).ses.modQpn)).opensOn port sub c m n).cacheIn n).resolve n) := by
  rw [State.acceptOpen, if_pos hx]
  dsimp only
  rw [hn]
  rfl

theorem State.ctx_opensOn (s : State) (d : Nat) : (s.opensOn port sub c m n).ctx d = if d = c then
    { s.ctx c with ses := openedSession (s.ctx c).ses m (s.ctx c).key n, shadow := (s.ctx c).openShadow m } else s.ctx d :=
  s.ctx_setCtx c d _

theorem State.qp_opensOn (s : State) : ∃ sip key rate, (s.opensOn port sub c m n).qp n =
    { sessionQp c port sub (m.hostQpn % 2 ^ 24) sip m.hostIp key with rate := rate, target := rate } :=
  ⟨_, _, _, (State.qp_setQp _ n n _).trans (if_pos rfl)⟩

end

/-! The lease (R468–R471). -/

section
variable {c : CtxId} {s : State}

theorem exec_releaseTimeout_of_early (h : s.sinceRenewal c < 600000000) :
    exec (.releaseTimeout c) s = .next s := congrArg Host.Outcome.next (if_pos (.inr h))

theorem exec_releaseTimeout_of_due (hst : (s.ctx c).ses.state = .detached) (h : 600000000 ≤ s.sinceRenewal c) :
    exec (.releaseTimeout c) s = .next (if c.val = 0 then s.endSession 0 else
      let t := ((s.modCtx c (fun x => { x with ses := { x.ses with state := .releasing } })).writeCheckpoint c).releaseCtx c true
      if t.grouped then t.askReport t.devid whySelfFailed else t) :=
  congrArg Host.Outcome.next (if_neg (by simp [hst, releaseAfter, h]))

theorem exec_leaseLapse_of_open (hst : (s.ctx c).ses.state = .opened) (h1 : s.up 1 = true) :
    exec (.leaseLapse c) s = .next (if (s.ctx c).lease * 1000 < s.sinceRenewal c then s.detach c else s) :=
  congrArg Host.Outcome.next (by simp [hst, h1])

end

/-- Settles O36: an open by the code that answers it, an accepted one by what it binds, and the lease by what has passed. -/
theorem sessionsOpenAndLapse : Obligations.SessionsOpenAndLapse := by
  unfold Obligations.SessionsOpenAndLapse
  refine ⟨fun port sub src m s hup hrole hf hlen hplain => ⟨exec_sesOpen_of_marked hup hrole hf hlen hplain,
      exec_sesOpen_of_other_key hup hrole hf hlen hplain⟩, fun port sub dqpn c code dip nonce s => rfl,
    fun port sub src m s => exec_sesOpen_of_full, fun port sub src m s hup hrole hf hlen hplain hce hk hroom h1 => ?code,
    fun port sub c qpn m s hx hn => ?accept, fun c s hst h1 => ?lapse, fun c s hst => ?release, fun c v s hst => ?renew⟩
  case code =>
    rw [exec_sesOpen_of_heard hup hrole hf hlen hplain hce hk hroom h1]
    refine ⟨fun c hc => by rw [State.openSession_of_again hc], fun hnew => ?_⟩
    intro t c x code abi
    have hrefused : ∀ k, k ≠ 0 → s.openCode m t = k → code k :=
      fun k h0 hk => congrArg Host.Outcome.next (State.openSession_of_refused hnew hk h0)
    have hsome : t.isSome = true → t = some c := fun h => by
      obtain ⟨d, hd⟩ := Option.isSome_iff_exists.1 h
      exact hd.trans (congrArg some (show t.getD _ = d by rw [hd]; rfl).symm)
    refine ⟨fun hp => hrefused 5 (by decide) (State.openCode_of_not_ready hp),
      fun hp ha => hrefused 1 (by decide) (State.openCode_of_abi hp ha), fun hp ha ht => hrefused 3 (by decide) ?_,
      fun hp ha ht hx => hrefused 2 (by decide) ?_, fun hp ha ht hx hr h => hrefused 4 (by decide) ?_, fun hp ha ht hx => ?_⟩
    · rw [ht, State.openCode_of_none hp ha]
    · rw [hsome ht, State.openCode_of_some hp ha, if_pos]
      exact hx.imp_right fun h => by simpa using h
    · have hres : s.resumes c m = false := by
        rw [Bool.eq_false_iff, ne_eq, State.resumes_iff]
        rintro ⟨hd, htok, hlt⟩
        exact h.elim (· hd) (Or.rec (· htok) (Nat.not_le.2 hlt))
      rw [hsome ht, State.openCode_of_some hp ha, if_neg (not_or.2 ⟨hx, by simp [hr]⟩), if_pos (by simp [hr, hres])]
    · have hcode : s.openCode m t = 0 := by
        rw [hsome ht, State.openCode_of_some hp ha]
        rcases hx with ⟨hnone, hr⟩ | ⟨hdet, hr, htok, hlt⟩
        · have hnone' : (s.ctx c).ses.state = .none := hnone
          rw [if_neg (by simp [hnone']), if_neg (by simp [hr])]
        · have hdet' : (s.ctx c).ses.state = .detached := hdet
          rw [if_neg (by simp [hdet', hr]), if_neg (by simp [hr, (s.resumes_iff c m).2 ⟨hdet, htok, hlt⟩])]
      exact congrArg Host.Outcome.next (State.openSession_of_accepted hnew hcode)
  case accept =>
    intro t y q
    obtain ⟨b, hq⟩ := State.qp_resolve
      (((s.dropQps (fun n q => q.session && q.ctx == c && n == (s.ctx c).ses.modQpn)).opensOn port sub c m qpn).cacheIn qpn) qpn
    have hctx : ∀ d, t.ctx d = if d = c then { s.ctx c with
        ses := openedSession (s.ctx c).ses m (s.ctx c).key qpn, shadow := (s.ctx c).openShadow m } else s.ctx d := fun d => by
      rw [show t = _ from State.acceptOpen_eq hx hn, State.ctx_resolve, State.ctx_cacheIn, State.ctx_opensOn, State.ctx_dropQps,
        State.ctx_dropQps]
    obtain ⟨sip, key, rate, hopen⟩ := (s.dropQps (fun n q => q.session && q.ctx == c && n == (s.ctx c).ses.modQpn)).qp_opensOn
      (port := port) (sub := sub) (c := c) (n := qpn) (m := m)
    have hqp : q = { sessionQp c port sub (m.hostQpn % 2 ^ 24) sip m.hostIp key with
        rate := rate, target := rate, macKnown := false, macDue := b } := by
      rw [show q = t.qp qpn from rfl, show t = _ from State.acceptOpen_eq hx hn, hq, State.qp_cacheIn, hopen]
    have hself : t.ctx c = _ := (hctx c).trans (if_pos rfl)
    rw [show y = (t.ctx c).ses from rfl, hself, hqp]
    exact ⟨hx, rfl, rfl, rfl, rfl, rfl, ringAddr_aligned _, rfl, rfl, rfl, rfl, rfl, rfl, rfl, rfl,
      fun d hd => (hctx d).trans (if_neg hd)⟩
  case lapse =>
    rw [exec_leaseLapse_of_open hst h1]
    exact ⟨fun h => by rw [if_pos h], fun h => by rw [if_neg (Nat.not_lt.2 h)]⟩
  case release =>
    refine ⟨exec_releaseTimeout_of_early, fun h h0 => ?_, fun h h0 => ?_⟩
    · rw [exec_releaseTimeout_of_due hst h, if_pos h0]
    · intro t
      rw [exec_releaseTimeout_of_due hst h, if_neg h0]
  case renew => exact congrArg Host.Outcome.next (if_pos hst)

end Sys2Proof.Machine
end

section
/-! Queue-pair and port commands (R421, R431, R434, R460, R465), each by what it replies. -/

namespace Sys2Proof.Machine

/-- A command that its session's mailbox takes, and that this session may give, leaves what it replies, answered. -/
theorem State.offer_reply {s u : State} {c q k : Nat} {i : Instr} {c0 : Bool} {act : State → Reply'} {r : Nat × List Byte}
    (h : s.takes c k) (h0 : c0 = true → c = 0) (hact : act (s.taken c q) = (u, r)) :
    s.offer c q k i (fun t => t.serve c q c0 act) = u.finish c q r := by
  rw [State.offer_eq _ _ _ _ _ _ h, State.serve, if_neg (fun hr => hr.2 (h0 hr.1)), hact]

section
variable {s : State} {c : CtxId} {q n : Nat} {bytes : List Byte}

/-- The context that QP_CREATE gives a queue pair. -/
def State.newQp (s : State) (c : Nat) (bytes : List Byte) : Qp :=
  let q := ({} : Qp).setFields bytes
  let q := if c = 0 then q else { q with ctx := c }
  { q.startPsn q.sqPsn q.rqPsn with
    used := true, rate := s.subportRate q.port, target := s.subportRate q.port, alpha := 65536 }

theorem exec_qpCreate_of_full (h : s.takes c 2) (hn : (s.taken c q).freeQpn = none) :
    exec (.qpCreate c q bytes) s = .next ((s.taken c q).finish c q (4, [])) :=
  congrArg Host.Outcome.next (State.offer_reply h nofun (by simp only [hn]; rfl))

theorem exec_qpCreate_of_free (h : s.takes c 2) (hn : (s.taken c q).freeQpn = some n) : exec (.qpCreate c q bytes) s =
    .next ((((s.taken c q).enterQp n ((s.taken c q).newQp c bytes) 0).cacheIn n).finish c q (0, leBytes 4 n)) :=
  congrArg Host.Outcome.next (State.offer_reply h nofun (by simp only [hn]; rfl))

section
variable (h : s.takes c 2)
include h

theorem exec_qpModify_of_allowed (hu : ((s.taken c q).qp (n % 2 ^ 20)).used = true) (hc : ((s.taken c q).qp (n % 2 ^ 20)).ctx = c)
    (hok : qpChangeOk ((s.taken c q).qp (n % 2 ^ 20)).state (((s.taken c q).qp (n % 2 ^ 20)).setFields bytes).state = true) :
    exec (.qpModify c q n bytes) s =
      .next (((s.taken c q).enterQp (n % 2 ^ 20) ((if c.val = 0 then ((s.taken c q).qp (n % 2 ^ 20)).setFields bytes
        else { ((s.taken c q).qp (n % 2 ^ 20)).setFields bytes with ctx := c }).keepWatermark ((s.taken c q).qp (n % 2 ^ 20)))
        ((s.taken c q).qp (n % 2 ^ 20)).state).finish c q (0, [])) :=
  congrArg Host.Outcome.next (State.offer_reply h nofun (if_neg (by simpa using ⟨hu, hc, hok⟩)))

theorem exec_qpModify_of_refused (hno : ((s.taken c q).qp (n % 2 ^ 20)).used = false ∨ ((s.taken c q).qp (n % 2 ^ 20)).ctx ≠ c ∨
      qpChangeOk ((s.taken c q).qp (n % 2 ^ 20)).state (((s.taken c q).qp (n % 2 ^ 20)).setFields bytes).state = false) :
    exec (.qpModify c q n bytes) s = .next ((s.taken c q).finish c q (3, [])) :=
  congrArg Host.Outcome.next (State.offer_reply h nofun (if_pos (by simpa using hno)))

theorem exec_qpDestroy_of_unused (hu : ((s.taken c q).qp (n % 2 ^ 20)).used = false) :
    exec (.qpDestroy c q n) s = .next ((s.taken c q).finish c q (0, [])) :=
  congrArg Host.Outcome.next (State.offer_reply h nofun (if_pos (by simpa using hu)))

theorem exec_qpDestroy_of_parked (hu : ((s.taken c q).qp (n % 2 ^ 20)).used = true)
    (hp : ((s.taken c q).qp (n % 2 ^ 20)).holds ≠ []) :
    exec (.qpDestroy c q n) s = .next ((s.taken c q).finish c q (3, [])) :=
  congrArg Host.Outcome.next (State.offer_reply h nofun ((if_neg (by simpa using hu)).trans (if_pos (by simpa using hp))))

theorem exec_qpDestroy_of_used (hu : ((s.taken c q).qp (n % 2 ^ 20)).used = true) (hp : ((s.taken c q).qp (n % 2 ^ 20)).holds = []) :
    exec (.qpDestroy c q n) s =
      .next ((((s.taken c q).enterQp (n % 2 ^ 20) { (s.taken c q).qp (n % 2 ^ 20) with state := 0 }
        ((s.taken c q).qp (n % 2 ^ 20)).state).dropQps (fun m _ => m == n % 2 ^ 20)).finish c q (0, [])) :=
  congrArg Host.Outcome.next (State.offer_reply h nofun ((if_neg (by simpa using hu)).trans (if_neg (by simpa using hp))))

end

theorem exec_qpQuery_of_takes (h : s.takes c 1) : exec (.qpQuery c q n) s =
    .next (({ s.taken c q with fresh := (s.taken c q).fresh + 16 }).finish c q
      (0, ((s.taken c q).qp (n % 2 ^ 20)).bytes (n % 2 ^ 20) ++
        (List.range 16).map (fun i => Config.freeByte ((s.taken c q).fresh + i)))) :=
  congrArg Host.Outcome.next (State.offer_reply h nofun rfl)

end

theorem qpChangeOk_iff (old new : Nat) : qpChangeOk old new = true ↔
    new = old ∨ new = 0 ∨ new = 4 ∨ old = 0 ∧ new = 1 ∨ old = 1 ∧ new = 2 ∨ old = 2 ∧ new = 3 := by
  simp only [qpChangeOk, Bool.or_eq_true, Bool.and_eq_true, beq_iff_eq, decide_eq_true_eq]
  omega

section
variable {s : State} {q epoch period : Nat} (h : s.takes 0 1)
include h

theorem exec_bellSet_of_tenants (ht : (s.taken 0 q).tenants = true) :
    exec (.bellSet 0 q epoch period) s = .next ((s.taken 0 q).finish 0 q (3, [])) :=
  congrArg Host.Outcome.next (State.offer_reply h (fun _ => rfl) (if_pos ht))

theorem exec_bellSet_of_alone (ht : (s.taken 0 q).tenants = false) : exec (.bellSet 0 q epoch period) s =
    .next (({ s.taken 0 q with bellEpoch := epoch % 2 ^ 64, bellPeriod := clampTo 50 10000 period }.setPhase 5).finish 0 q (0, [])) :=
  congrArg Host.Outcome.next (State.offer_reply h (fun _ => rfl) (if_neg (by simp [ht])))

end

theorem exec_portAddr_of_takes {s : State} {q port sub : Nat} {v4 : BitVec 32} {v6 : BitVec 128} (h : s.takes 0 2) :
    exec (.portAddr 0 q port sub v4 v6) s = .next (((s.taken 0 q).setSub (min 7 port) (min 3 sub)
      { (s.taken 0 q).sub (min 7 port) (min 3 sub) with ipv4 := v4, ipv6 := v6 }).finish 0 q (0, [])) :=
  congrArg Host.Outcome.next (State.offer_reply h (fun _ => rfl) rfl)

/-- Settles O38: each command by what it replies. -/
theorem queuePairAndPortCommands : Obligations.QueuePairAndPortCommands := by
  unfold Obligations.QueuePairAndPortCommands
  refine ⟨fun c q n bytes s h => ?queuePairs, qpChangeOk_iff, fun c q n s h => exec_qpQuery_of_takes h,
    fun q port sub v4 v6 s h => exec_portAddr_of_takes h,
    fun q epoch period s h => ⟨exec_bellSet_of_tenants h, exec_bellSet_of_alone h⟩⟩
  case queuePairs =>
    exact ⟨exec_qpCreate_of_full h, exec_qpCreate_of_free h, exec_qpModify_of_allowed h, exec_qpModify_of_refused h,
      exec_qpDestroy_of_used h, exec_qpDestroy_of_unused h, exec_qpDestroy_of_parked h⟩

end Sys2Proof.Machine
end

section
/-! The security commands (R502, R503, R506–R509, R536): what each replies, the report's bytes, and where the bytes of a DBG_WRITE land. -/

namespace Sys2Proof.Machine

/-! The bytes of a report (R506). -/

theorem drop_leBytes {n k : Nat} (v : Nat) (h : n ≤ k) : (leBytes n v).drop k = [] := List.drop_eq_nil_of_le (by simpa using h)

section
variable (s : State) (nonce : BitVec 256)

theorem State.reportBody_length : (s.reportBody nonce).length = 448 := by
  simp [State.reportBody, digestBytes, List.length_flatMap]

theorem State.reportBody_fields :
    let f := fun o n => leNat (((s.reportBody nonce).drop o).take n)
    f 0 4 = 0x54415458 ∧ f 4 2 = 1 ∧ f 6 2 = 0x4081 ∧ f 8 1 = 0xB0 ∧ f 10 2 = s.devid % 2 ^ 16 ∧ f 24 8 = s.bellNow % 2 ^ 64 ∧
    f 40 4 = s.sec.fwSvn % 2 ^ 32 ∧ f 44 4 = s.sec.cfgSvn % 2 ^ 32 ∧ ((s.reportBody nonce).drop 48).take 32 = leBytes 32 nonce.toNat := by
  simp [State.reportBody, digestBytes, List.drop_append, drop_leBytes, leNat_leBytes]

end

/-! Where a debug byte lands (R401, R509). -/

theorem inHbm_iff (a len : Nat) : inHbm a len = true ↔ a < hbmEnd ∧ a % dieBytes + len ≤ systemOffset := by
  simp [inHbm]

theorem areaPart_of_inHbm {a len i : Nat} (h : inHbm a len = true) (hi : i < len) : areaPart (a + i) = none := by
  obtain ⟨ha, hoff⟩ := (inHbm_iff a len).1 h
  refine if_pos (.inr ?_)
  unfold dieBytes systemOffset at *
  omega

theorem areaPart_of_inSomeStore {a len : Nat} (i : Nat) (h : inSomeStore a len = true) : areaPart (a + i) = none := by
  simp only [inSomeStore, Bool.and_eq_true, decide_eq_true_eq] at h
  obtain ⟨⟨ha, -⟩, -⟩ := h
  refine if_pos (.inl ?_)
  unfold hbmEnd storeBase at *
  omega

theorem State.dbgByte_of_memory (s : State) {a : Nat} (b : Byte) (h : areaPart a = none) :
    s.dbgByte a b = { s with mem := Memory.writeBytes s.mem a [b] } := by
  rw [State.dbgByte, h]

/-- Bytes outside the system areas go to memory, each to its own place. -/
theorem State.dbgBytesTo_of_memory (s : State) {a : Nat} {bs : List Byte} (h : ∀ i < bs.length, areaPart (a + i) = none) :
    ∃ m, s.dbgBytesTo a bs = { s with mem := m } ∧ (∀ i < bs.length, Memory.read m (a + i) = bs.getD i 0) ∧
      ∀ b, b < a ∨ a + bs.length ≤ b → Memory.read m b = Memory.read s.mem b := by
  induction bs generalizing s a with
  | nil => exact ⟨s.mem, rfl, by simp, fun _ _ => rfl⟩
  | cons b bs ih =>
    obtain ⟨m, hm, hin, hout⟩ := ih { s with mem := Memory.writeBytes s.mem a [b] } (a := a + 1) fun i hi => by
      have := h (i + 1) (by simpa using hi)
      rwa [show a + 1 + i = a + (i + 1) by omega]
    have h0 : areaPart a = none := h 0 (by simp)
    refine ⟨m, ?_, fun i hi => ?_, fun k hk => ?_⟩
    · rw [State.dbgBytesTo, s.dbgByte_of_memory b h0, hm]
    · cases i with
      | zero =>
        rw [hout _ (by omega)]
        exact Memory.read_writeBytes_in s.mem a [b] (i := 0) (by simp)
      | succ i =>
        rw [show a + (i + 1) = a + 1 + i by omega, hin i (by simpa using hi)]
        simp
    · simp only [List.length_cons] at hk
      rw [hout k (by omega)]
      exact Memory.read_writeBytes_out s.mem a [b] (by simp only [List.length_singleton]; omega)

theorem State.lt_of_mem_contexts {s : State} {c : Nat} (h : c ∈ s.contexts) : c < 16 := List.mem_range.1 (List.mem_filter.1 h).1

/-- The numerics stores lie in the system areas. -/
theorem numericsAddr_bounds {c : Nat} (h : c < 16) :
    c % 2 * dieBytes + systemOffset + 0x275000000 ≤ numericsAddr c ∧ numericsAddr c + 66 * 2 ^ 20 ≤ (c % 2 + 1) * dieBytes := by
  unfold numericsAddr dieBytes systemOffset
  omega

theorem inSomeStore_bounds {a len : Nat} (h : inSomeStore a len = true) : 2 * hbmEnd ≤ a ∧ a < tallyBase := by
  simp only [inSomeStore, Bool.and_eq_true, decide_eq_true_eq] at h
  obtain ⟨⟨hlow, hhigh⟩, -⟩ := h
  unfold hbmEnd tallyBase storeBase storeStride at *
  omega

/-- What is written outside the system areas meets no numerics store. -/
theorem numerics_apart {a len n c : Nat} (h : inHbm a len = true ∨ inSomeStore a len = true) (hn : n ≤ len) (hc : c < 16) :
    ¬ (numericsAddr c < a + n ∧ a < numericsAddr c + 66 * 2 ^ 20) := by
  obtain ⟨hlow, hhigh⟩ := numericsAddr_bounds hc
  rcases h with h | h
  · obtain ⟨ha, hoff⟩ := (inHbm_iff a len).1 h
    unfold hbmEnd dieBytes systemOffset at *
    omega
  · obtain ⟨ha, -⟩ := inSomeStore_bounds h
    unfold hbmEnd dieBytes systemOffset at *
    omega

theorem State.dbgPut_of_memory (s : State) {a len : Nat} {data : List Byte} (h : inHbm a len = true ∨ inSomeStore a len = true)
    (hlen : data.length ≤ len) : s.dbgPut a data = s.dbgBytesTo a data := by
  have ha : a < tallyBase := by
    rcases h with h | h
    · have := ((inHbm_iff a len).1 h).1
      unfold hbmEnd at this
      unfold tallyBase
      omega
    · exact (inSomeStore_bounds h).2
  have hnone : (s.dbgBytesTo a data).contexts.filter (fun c =>
      let o := numericsAddr c
      o < a + data.length && a < o + 66 * 2 ^ 20) = [] := List.filter_eq_nil_iff.2 fun c hc => by
    simpa using numerics_apart h hlen (State.lt_of_mem_contexts hc)
  rw [State.dbgPut, if_pos ha]
  dsimp only at hnone ⊢
  rw [hnone]
  rfl

theorem Table.has_put {α : Type} (t : Table α) (k : Nat) (v : α) : Table.has (Table.put t k v) k = true := by
  induction t with
  | nil => simp [Table.put, Table.has]
  | cons e t ih =>
    obtain ⟨j, w⟩ := e
    by_cases hj : j = k
    · simp [Table.put, Table.has, hj]
    · have ih' : Table.has (Table.put t k v) k = true := ih
      simp only [Table.put, hj, if_false, Table.has, List.any_cons]
      simp only [Table.has] at ih'
      simp [ih']

theorem State.pokedOr_poke (s : State) (a : Nat) (b c : Byte) : (s.poke a [b]).pokedOr a c = b := by
  have hpoke : (s.poke a [b]).sec.poked = Table.put s.sec.poked a b := rfl
  rw [State.pokedOr, hpoke, Table.has_put, if_pos rfl, Table.get_put_same]

/-- A byte of a structure without a layout reads back. -/
theorem State.deviceByte_poke (s : State) {a : Nat} {p : AreaPart} (b : Byte) (ha : a < hbmEnd) (hp : areaPart a = some p) :
    (s.poke (p.home a) [b]).deviceByte a = b := by
  rw [State.deviceByte, if_pos ha, hp]
  exact s.pokedOr_poke _ _ _

theorem State.deviceByte_of_memory (s : State) {a : Nat} (h : inHbm a 1 = true ∨ inSomeStore a 1 = true) :
    s.deviceByte a = Memory.read s.mem a := by
  rcases h with h | h
  · rw [State.deviceByte, if_pos ((inHbm_iff a 1).1 h).1, show areaPart a = none from areaPart_of_inHbm (i := 0) h (by decide)]
  · have ha := (inSomeStore_bounds h).1
    rw [State.deviceByte, if_neg (by unfold hbmEnd at *; omega), if_pos h]

theorem State.dbgByte_of_save (s : State) {a c l o : Nat} (b : Byte) (hp : areaPart a = some (.save c l o)) :
    s.dbgByte a b = if o < 0x420000 then s.putSaved a [b] else s.poke a [b] := by
  rw [State.dbgByte, hp]

/-- A part without a layout of its own keeps what is put there beside it. -/
theorem State.dbgByte_of_part (s : State) {a : Nat} {p : AreaPart} (b : Byte) (hp : areaPart a = some p)
    (hs : ∀ c l o, p ≠ .save c l o ∨ 0x420000 ≤ o) (hi : ∀ c k o, p ≠ .image c k o) (hq : ∀ n o, p ≠ .qp n o) :
    s.dbgByte a b = s.poke (p.home a) [b] := by
  cases p with
  | save c l o =>
    have ho : ¬ o < 0x420000 := Nat.not_lt.2 ((hs c l o).resolve_left (fun h => h rfl))
    rw [s.dbgByte_of_save b hp, if_neg ho]; rfl
  | image c k o => exact absurd rfl (hi c k o)
  | qp n o => exact absurd rfl (hq n o)
  | _ => rw [State.dbgByte, hp]

/-! Words of the Tally and register windows (R253, R456). -/

theorem wordsMet_of_word {a : Nat} (h : a % 4 = 0) : wordsMet a 4 = [a] := by
  have hcount : (a + 4 + 3) / 4 - a / 4 = 1 := by omega
  rw [wordsMet, hcount]
  exact congrArg (· :: []) (show 4 * (a / 4 + 0) = a by omega)

theorem State.dbgWord_of_word (s : State) (a : Nat) {data : List Byte} (h : data.length = 4) : s.dbgWord a data a = leNat data := by
  rw [State.dbgWord]
  refine congrArg leNat (List.ext_getElem (by simp [h]) fun i h1 h2 => ?_)
  simp [h, show i < 4 by omega]

theorem Tally.fwPart_setCount (t : Tally) (k j : Nat) (v : Int) : (t.setCount k v).fwPart j = t.fwPart j := rfl

theorem sat32_signed {v : Nat} (h : v < 2 ^ 32) : sat32 (signed 32 v) = signed 32 v := by
  unfold sat32 clampInt signed
  split <;> omega

theorem Tally.count_setCount (t : Tally) (k : Nat) {v : Nat} (h : v < 2 ^ 32) :
    ((t.setCount k (signed 32 v)).test k).count k = signed 32 v := by
  have hcount : ((t.setCount k (signed 32 v)).test k).count k =
      sat32 (Table.get 0 (Table.put t.counts k (signed 32 v - t.fwPart k)) k + t.fwPart k) := rfl
  rw [hcount, Table.get_put_same, Int.sub_add_cancel, sat32_signed h]

theorem leNat_lt (bs : List Byte) : leNat bs < 256 ^ bs.length := by
  induction bs with
  | nil => simp [leNat]
  | cons b bs ih =>
    have hb := b.isLt
    rw [leNat, List.length_cons, Nat.pow_succ]
    omega

theorem foldl_one {α β : Type} (f : β → α → β) (b : β) (a : α) : [a].foldl f b = f b a := rfl

section
variable (s : State) (k : Nat) {data : List Byte} (hlen : data.length = 4)
include hlen

theorem State.dbgPut_tally (hbank : k / 2 ^ 22 < 3) (hlast : k % 2 ^ 22 ≤ if k / 2 ^ 22 = 2 then 16383 else 65535) :
    (s.dbgPut (0x020000000000 + 4 * k) data).tally.count k = signed 32 (leNat data) := by
  have hput : s.dbgPut (tallyBase + 4 * k) data = s.dbgCount k (leNat data) := by
    have hlow : ¬ tallyBase + 4 * k < tallyBase := by omega
    have hhigh : tallyBase + 4 * k < regBase := by unfold tallyBase regBase; omega
    have hword : (tallyBase + 4 * k) % 4 = 0 := by unfold tallyBase; omega
    rw [State.dbgPut, if_neg hlow, if_pos hhigh, hlen, wordsMet_of_word hword, foldl_one,
      s.dbgWord_of_word _ hlen, Nat.add_sub_cancel_left, Nat.mul_div_cancel_left _ (by decide)]
  have hlt := leNat_lt data
  rw [hlen] at hlt
  rw [show 0x020000000000 = tallyBase from rfl, hput, State.dbgCount, if_pos ⟨hbank, hlast⟩]
  exact s.tally.count_setCount k hlt

theorem State.dbgPut_registers (hk : k < 0x44000) : s.dbgPut (0x030000000000 + 4 * k) data = s.putWord (4 * k) (leNat data) := by
  have hlow : ¬ regBase + 4 * k < tallyBase := by unfold tallyBase regBase; omega
  have hreg : ¬ regBase + 4 * k < regBase := by omega
  have hhigh : regBase + 4 * k < windowBase := by unfold windowBase regBase; omega
  have hword : (regBase + 4 * k) % 4 = 0 := by unfold regBase; omega
  rw [show 0x030000000000 = regBase from rfl, State.dbgPut, if_neg hlow, if_neg hreg, if_pos hhigh, hlen,
    wordsMet_of_word hword, foldl_one, s.dbgWord_of_word _ hlen, Nat.add_sub_cancel_left]

end

theorem State.putWord_go (s : State) (c v : Nat) : s.putWord ((c + 1) * 0x10000 + 0x00C) v = s := by
  have hoff : ¬ (c + 1) * 0x10000 + 0x00C < 0x10000 := by omega
  have hgo : ((c + 1) * 0x10000 + 0x00C) % 0x10000 = 0x00C := by omega
  rw [State.putWord, if_neg hoff, if_pos (.inl hgo)]

/-! What an unlock leaves (R508). -/

theorem Table.get_map {α : Type} (f : α → α) (d : α) (t : Table α) (k : Nat) :
    Table.get (f d) (t.map (fun (e : Nat × α) => (e.1, f e.2))) k = f (Table.get d t k) := by
  induction t with
  | nil => rfl
  | cons e t ih =>
    obtain ⟨j, w⟩ := e
    by_cases hj : j = k <;> simp [Table.get, hj, ih]

/-- The state with every context key erased. -/
def State.keysErased (s : State) : State :=
  { s with ctxs := s.ctxs.map (fun (e : Nat × Ctx) => (e.1, { e.2 with key := 0 })), fresh := s.fresh + 1 }

theorem State.ctx_keysErased (s : State) (c : Nat) : s.keysErased.ctx c = { s.ctx c with key := 0 } :=
  Table.get_map (fun x : Ctx => { x with key := 0 }) {} s.ctxs c

/-- C0's session with the token of a new key. -/
def Ctx.rekeyed (x : Ctx) (key : BitVec 256) : Ctx :=
  { x with key := key, ses := { x.ses with token := Config.deriveToken key x.ses.draws, draws := x.ses.draws + 1 } }

theorem State.ctx_unlock (s : State) (t : List Byte) (c : Nat) : (s.unlock t).ctx c =
    if c = 0 then (s.keysErased.ctx 0).rekeyed (Config.free256 s.fresh) else s.keysErased.ctx c :=
  s.keysErased.ctx_modCtx 0 c (fun x => x.rekeyed (Config.free256 s.fresh))

/-! The commands. -/

theorem State.postHost_one (s : State) (n a : Nat) (k : Reg) (bs : List Byte) : s.postHost n [(a, k, bs)] =
    (s.modQp n (fun q => { q with work := q.work.filter (fun w => w.owner != .control) })).post n .control ((s.qp n).packets bs.length)
      true (fun p => .hostWrite n p a k bs) := by
  have hmtu : ((s.modQp n (fun q => { q with work := q.work.filter (fun w => w.owner != .control) })).qp n).packets bs.length =
      (s.qp n).packets bs.length := by rw [State.qp_modQp, if_pos rfl]; rfl
  rw [State.postHost, foldl_one]
  exact congrArg (fun k' => State.post _ n .control k' true (fun p => .hostWrite n p a k bs)) hmtu

section
variable {s : State} {q : Nat} (h : s.takes 0 1)
include h

section
variable {data : List Byte} {ok : Bool}

theorem exec_cfgUpdate_of_staging (hu : (s.taken 0 q).fw.updState = 1) :
    exec (.cfgUpdate 0 q data ok) s = .next ((s.taken 0 q).finish 0 q (3, [])) :=
  congrArg Host.Outcome.next (State.offer_reply h (fun _ => rfl) (if_pos hu))

section
variable (hu : (s.taken 0 q).fw.updState ≠ 1)
include hu

theorem exec_cfgUpdate_of_good (hr : (readCfg data).result (s.taken 0 q).sec.cfgSvn ok = 0) : exec (.cfgUpdate 0 q data ok) s =
    .next (({ s.taken 0 q with sec := { (s.taken 0 q).sec with cfgNext := some (readCfg data) } }.secEvent 2
      ((readCfg data).result (s.taken 0 q).sec.cfgSvn ok)).finish 0 q (0, leBytes 1 ((readCfg data).result (s.taken 0 q).sec.cfgSvn ok))) :=
  congrArg Host.Outcome.next (State.offer_reply h (fun _ => rfl) ((if_neg hu).trans (if_pos hr)))

theorem exec_cfgUpdate_of_bad (hr : (readCfg data).result (s.taken 0 q).sec.cfgSvn ok ≠ 0) : exec (.cfgUpdate 0 q data ok) s =
    .next (((s.taken 0 q).secEvent 3 ((readCfg data).result (s.taken 0 q).sec.cfgSvn ok)).finish 0 q
      (0, leBytes 1 ((readCfg data).result (s.taken 0 q).sec.cfgSvn ok))) :=
  congrArg Host.Outcome.next (State.offer_reply h (fun _ => rfl) ((if_neg hu).trans (if_neg hr)))

end
end

theorem exec_dbgChallenge_of_failed (hf : 8 ≤ (s.taken 0 q).sec.dbgFail) :
    exec (.dbgChallenge 0 q) s = .next ((s.taken 0 q).finish 0 q (4, [])) :=
  congrArg Host.Outcome.next (State.offer_reply h (fun _ => rfl) (if_pos hf))

theorem exec_dbgChallenge_of_left (hf : (s.taken 0 q).sec.dbgFail < 8) : exec (.dbgChallenge 0 q) s =
    .next ({ s.taken 0 q with fresh := (s.taken 0 q).fresh + 1
                              sec := { (s.taken 0 q).sec with nonce := some (Config.free256 (s.taken 0 q).fresh) } }.finish 0 q
      (0, leBytes 32 (Config.free256 (s.taken 0 q).fresh).toNat ++ leBytes 8 Config.serial.toNat)) :=
  congrArg Host.Outcome.next (State.offer_reply h (fun _ => rfl) (if_neg (Nat.not_le.2 hf)))

/-! DBG_UNLOCK. -/

section
variable {token : List Byte}

theorem exec_dbgUnlock_of_tenants (ht : (s.taken 0 q).tenants = true) : exec (.dbgUnlock 0 q token) s =
    .next (({ s.taken 0 q with
        fresh := (s.taken 0 q).fresh + 1
        sec := { (s.taken 0 q).sec with nonce := none, dbgFail := min 8 ((s.taken 0 q).sec.dbgFail + 1) } }.secEvent 1
          (bits (Config.free64 (s.taken 0 q).fresh) 7 0)).finish 0 q (3, [])) :=
  congrArg Host.Outcome.next (State.offer_reply h (fun _ => rfl) (if_pos ht))

section
variable (ht : (s.taken 0 q).tenants = false)
include ht

/-- The state once DBG_UNLOCK has consumed the nonce. -/
def State.nonceSpent (s : State) : State := { s with sec := { s.sec with nonce := none } }

theorem exec_dbgUnlock_of_right (hr : (s.taken 0 q).tokenResult (token.take 128) = 0) : exec (.dbgUnlock 0 q token) s =
    .next ((((s.taken 0 q).nonceSpent.unlock (token.take 128)).secEvent 0 ((s.taken 0 q).tokenResult (token.take 128))).finish 0 q
      (0, leBytes 1 ((s.taken 0 q).tokenResult (token.take 128)) ++ leBytes 7 0 ++
        leBytes 8 ((((s.taken 0 q).nonceSpent.unlock (token.take 128)).secEvent 0
          ((s.taken 0 q).tokenResult (token.take 128))).ctx 0).ses.token.toNat)) :=
  have hno : ¬ (s.taken 0 q).nonceSpent.tenants = true := fun hyes => Bool.false_ne_true (ht.symm.trans hyes)
  congrArg Host.Outcome.next (State.offer_reply h (fun _ => rfl) ((if_neg hno).trans (if_pos hr)))

theorem exec_dbgUnlock_of_wrong (hr : (s.taken 0 q).tokenResult (token.take 128) ≠ 0) : exec (.dbgUnlock 0 q token) s =
    .next (((s.taken 0 q).nonceSpent.unlockFailed ((s.taken 0 q).tokenResult (token.take 128))).finish 0 q
      (0, leBytes 1 ((s.taken 0 q).tokenResult (token.take 128)))) :=
  have hno : ¬ (s.taken 0 q).nonceSpent.tenants = true := fun hyes => Bool.false_ne_true (ht.symm.trans hyes)
  congrArg Host.Outcome.next (State.offer_reply h (fun _ => rfl) ((if_neg hno).trans (if_neg hr)))

end
end

/-! DBG_READ and DBG_WRITE. -/

section
variable {dev host n : Nat} {data : List Byte}

theorem exec_dbgRead_of_refused
    (hno : (s.taken 0 q).sec.rdOn = false ∨ (s.taken 0 q).mapped (dev % 2 ^ 48) (n % 2 ^ 32 * 64) = false) :
    exec (.dbgRead 0 q dev host n) s = .next ((s.taken 0 q).finish 0 q (3, [])) :=
  congrArg Host.Outcome.next (State.offer_reply h (fun _ => rfl) (if_pos (by simpa [dbgBytes] using hno)))

theorem exec_dbgRead_of_enabled (hon : (s.taken 0 q).sec.rdOn = true)
    (hm : (s.taken 0 q).mapped (dev % 2 ^ 48) (n % 2 ^ 32 * 64) = true) : exec (.dbgRead 0 q dev host n) s =
      .next (({ s.taken 0 q with fresh := (s.taken 0 q).fresh + 1 }.toHost 0 host ((Config.free64 (s.taken 0 q).fresh).setWidth 32)
        ((s.taken 0 q).deviceBytes (dev % 2 ^ 48) (n % 2 ^ 32 * 64))).finish 0 q (0, [])) :=
  congrArg Host.Outcome.next (State.offer_reply h (fun _ => rfl) (if_neg (by simpa [dbgBytes] using ⟨hon, hm⟩)))

theorem exec_dbgWrite_of_refused
    (hno : (s.taken 0 q).sec.wrOn = false ∨ (s.taken 0 q).mapped (dev % 2 ^ 48) (n % 2 ^ 32 * 64) = false) :
    exec (.dbgWrite 0 q dev n data) s = .next ((s.taken 0 q).finish 0 q (3, [])) :=
  congrArg Host.Outcome.next (State.offer_reply h (fun _ => rfl) (if_pos (by simpa [dbgBytes] using hno)))

theorem exec_dbgWrite_of_enabled (hon : (s.taken 0 q).sec.wrOn = true)
    (hm : (s.taken 0 q).mapped (dev % 2 ^ 48) (n % 2 ^ 32 * 64) = true) : exec (.dbgWrite 0 q dev n data) s =
      .next (((s.taken 0 q).dbgPut (dev % 2 ^ 48) (data.take (n % 2 ^ 32 * 64))).finish 0 q (0, [])) :=
  congrArg Host.Outcome.next (State.offer_reply h (fun _ => rfl) (if_neg (by simpa [dbgBytes] using ⟨hon, hm⟩)))

end
end

theorem exec_attest_of_takes {s : State} {c : CtxId} {q addr : Nat} {key : Reg} {nonce : BitVec 256} (h : s.takes c 1) :
    exec (.attest c q addr key nonce) s = .next (((s.taken c q).postHost ((s.taken c q).ctx c).ses.modQpn
      [(addr, key, (s.taken c q).reportBody nonce ++ ecdsaSign ((s.taken c q).sec.idKey.getD 0) ((s.taken c q).reportBody nonce))]).finish
        c q (0, [])) :=
  congrArg Host.Outcome.next (State.offer_reply h nofun rfl)

theorem exec_identity_of_takes {s : State} {c : CtxId} {q addr : Nat} {key : Reg} (h : s.takes c 1) :
    exec (.identity c q addr key) s = .next (((s.taken c q).postHost ((s.taken c q).ctx c).ses.modQpn
      [(addr, key, publicKey ((s.taken c q).sec.idKey.getD 0) ++ Config.certificate.take 2048)]).finish c q (0, [])) :=
  congrArg Host.Outcome.next (State.offer_reply h nofun rfl)

theorem exec_hlthDump_of_takes {s : State} {c : CtxId} {q addr : Nat} {key : Reg} (h : s.takes c 6) :
    exec (.hlthDump c q addr key) s = .next (((s.taken c q).postHost ((s.taken c q).ctx c).ses.modQpn
      [(addr, key, (s.taken c q).hlth.dump)]).finish c q (0, [])) :=
  congrArg Host.Outcome.next (State.offer_reply h nofun rfl)

theorem State.mem_taken (s : State) (c q : Nat) : (s.taken c q).mem = s.mem := by
  obtain ⟨x, h⟩ := s.renew_fields c
  rw [State.taken, h]; rfl

/-- Settles O42: each command by what it replies, the report by its fields, and DBG_WRITE by where each byte lands. -/
theorem securityCommands : Obligations.SecurityCommands := by
  unfold Obligations.SecurityCommands
  refine ⟨fun c q addr key nonce s h => ⟨exec_attest_of_takes h, exec_identity_of_takes h⟩, State.postHost_one,
    fun c q addr key s h => exec_hlthDump_of_takes h, fun s nonce => ⟨s.reportBody_length nonce, s.reportBody_fields nonce⟩,
    fun q data ok s h => ⟨exec_cfgUpdate_of_staging h, fun hu hr => ?good, exec_cfgUpdate_of_bad h⟩,
    fun q s h => ⟨exec_dbgChallenge_of_failed h, exec_dbgChallenge_of_left h⟩,
    fun q token s h => ⟨exec_dbgUnlock_of_tenants h, exec_dbgUnlock_of_wrong h, fun ht hr => ?right⟩, fun s t => ?unlock,
    fun q dev host n data s h => ⟨exec_dbgRead_of_refused h, exec_dbgRead_of_enabled h, exec_dbgWrite_of_refused h, fun hon hm hplace => ?memory,
      exec_dbgWrite_of_enabled h⟩, fun _ _ _ _ => rfl, fun s a b ha => ⟨fun c l o hp ho => ?save, fun p hp hs hi hq => ?part⟩,
    fun s k data hlen => ⟨s.dbgPut_tally k hlen, s.dbgPut_registers k hlen⟩, fun s c v _ => s.putWord_go c v,
    fun s a => s.deviceByte_of_memory⟩
  case good => rw [exec_cfgUpdate_of_good h hu hr, hr]
  case right => rw [exec_dbgUnlock_of_right h ht hr, hr]; rfl
  case unlock =>
    refine ⟨rfl, rfl, rfl, ?_, ?_, fun c hc => ?_⟩
    · rw [State.ctx_unlock, if_pos rfl]; rfl
    · rw [State.ctx_unlock, if_pos rfl, State.ctx_keysErased]; rfl
    · rw [State.ctx_unlock, if_neg hc, State.ctx_keysErased]
  case memory =>
    have hlen : (data.take (n % 2 ^ 32 * 64)).length ≤ n % 2 ^ 32 * 64 := List.length_take_le ..
    obtain ⟨m, hm', hin, hout⟩ := (s.taken 0 q).dbgBytesTo_of_memory (a := dev % 2 ^ 48) (bs := data.take (n % 2 ^ 32 * 64))
      fun i hi => by
        rcases hplace with hp | hp
        · exact areaPart_of_inHbm hp (Nat.lt_of_lt_of_le hi hlen)
        · exact areaPart_of_inSomeStore i hp
    refine ⟨m, ?_, fun i hi hd => ?_, fun b hb => ?_⟩
    · rw [exec_dbgWrite_of_enabled h hon hm, State.dbgPut_of_memory _ hplace hlen, hm']
    · rw [hin i (by simp; omega)]
      rw [List.getD_eq_getElem _ _ (by simp; omega), List.getElem_take, List.getD_eq_getElem _ _ hd]
    · rw [hout b (by simpa using hb), State.mem_taken]
  case save => rw [s.dbgByte_of_save b hp, if_pos ho]
  case part => rw [s.dbgByte_of_part b hp hs hi hq, s.deviceByte_poke b ha hp]

end Sys2Proof.Machine
end

section
/-! Power (R513, R519, R520, R523, R526, R530, R533): alerts, trips and shutdowns, and what a reset keeps. -/

namespace Sys2Proof.Machine

section
variable {s : State}

/-! Alerts (R519, R520). -/

theorem State.startEmergency_of_emergency (h : s.emergency = true) : s.startEmergency = s := if_pos h

theorem State.startEmergency_of_none (h : s.emergency = false) : s.startEmergency = { s with
    fresh := s.fresh + 1, pwr := { s.pwr with
      wait := bit (Config.free64 s.fresh) 0, latch := true, hold := s.pwr.hold || (s.core 7).state == 2 } } :=
  if_neg (by simp [h])

theorem State.temps_startEmergency (s : State) : s.startEmergency.pwr.temps = s.pwr.temps := by
  cases h : s.emergency with
  | true => rw [State.startEmergency_of_emergency h]
  | false => rw [State.startEmergency_of_none h]

theorem exec_pwrAlert_of_on (hon : s.pwr.isOn = true) (ha : s.pwr.alert = false) : exec .pwrAlert s =
    .next (((s.startEmergency.modPwr (fun p => { p with alert := true, alerts := min 65535 (p.alerts + 1) })).powerEvent 0 none).ibi 1) :=
  congrArg Host.Outcome.next (if_neg (by simp [hon, ha]))

theorem exec_alertEnd_of_alert (ha : s.pwr.alert = true) : exec .alertEnd s =
    .next (((s.modPwr (fun p => { p with alert := false })).powerEvent 1 none).ibi 1) :=
  congrArg Host.Outcome.next (if_neg (by simp [ha]))

/-! Temperatures (R520, R523). -/

theorem tripAt_le_shutdownAt (d : Nat) : tripAt d ≤ shutdownAt d := by unfold tripAt shutdownAt; split <;> omega

section
variable {m : Temps} (hon : s.pwr.isOn = true)
include hon

theorem exec_sensorRead_of_shutdown (h : ∃ d, d < 11 ∧ shutdownAt d ≤ tempOf m d) :
    exec (.sensorRead m) s = .next ((s.modPwr (fun p => { p with temps := m })).turnOff 3 true) :=
  congrArg Host.Outcome.next ((if_neg (by simp [hon])).trans (if_pos (by simpa [domains] using h)))

theorem exec_sensorRead_of_no_shutdown (h : ∀ d < 11, tempOf m d < shutdownAt d) : exec (.sensorRead m) s =
    .next ((domains.filter (fun d => tripAt d ≤ tempOf m d)).foldl (fun s d => s.trip d) (s.modPwr (fun p => { p with temps := m }))) :=
  congrArg Host.Outcome.next ((if_neg (by simp [hon])).trans (if_neg (by simpa [domains] using h)))

theorem exec_sensorRead_of_cool (h : ∀ d < 11, tempOf m d < tripAt d) :
    exec (.sensorRead m) s = .next (s.modPwr (fun p => { p with temps := m })) := by
  have hnone : domains.filter (fun d => tripAt d ≤ tempOf m d) = [] := by
    simpa [domains, List.filter_eq_nil_iff] using h
  rw [exec_sensorRead_of_no_shutdown hon fun d hd => Nat.lt_of_lt_of_le (h d hd) (tripAt_le_shutdownAt d), hnone]
  rfl

theorem exec_sensorRead_of_one {d : Nat} (hd : d < 11) (ht : tripAt d ≤ tempOf m d) (hs : ∀ e < 11, tempOf m e < shutdownAt e)
    (he : ∀ e < 11, e ≠ d → tempOf m e < tripAt e) :
    exec (.sensorRead m) s = .next ((s.modPwr (fun p => { p with temps := m })).trip d) := by
  have hsame : ∀ e ∈ domains, Decidable.decide (tripAt e ≤ tempOf m e) = (e == d) := fun e hmem => by
    rw [Bool.eq_iff_iff, decide_eq_true_iff, beq_iff_eq]
    exact ⟨fun hle => by_contra fun hed => Nat.not_le.2 (he e (List.mem_range.1 hmem) hed) hle, fun hed => hed ▸ ht⟩
  have hone : domains.filter (fun e => tripAt e ≤ tempOf m e) = [d] := by
    rw [List.filter_congr hsame, List.filter_beq, domains, List.count_eq_one_of_mem List.nodup_range (List.mem_range.2 hd)]
    rfl
  rw [exec_sensorRead_of_no_shutdown hon hs, hone]
  rfl

end

theorem State.trip_of_new {d : Nat} (h : d ∉ s.pwr.trips) : s.trip d = (((s.startEmergency.modPwr (fun p => { p with
    trips := p.trips ++ [d], tripCount := min 65535 (p.tripCount + 1) })).powerEvent 2 (some (d, tempOf s.pwr.temps d))).ibi 2) := by
  rw [← s.temps_startEmergency]
  exact if_neg (by simpa using h)

section
variable {d : Nat} (hd : d ∈ s.pwr.trips)
include hd

theorem exec_tripClear_of_clear (h : tempOf s.pwr.temps d < clearBelow d) : exec (.tripClear d) s =
    .next (((s.modPwr (fun p => { p with trips := p.trips.filter (· != d) })).powerEvent 3 (some (d, tempOf s.pwr.temps d))).ibi 2) :=
  congrArg Host.Outcome.next (if_pos ⟨by simpa using hd, h⟩)

end

theorem exec_tripClear_of_hot {d : Nat} (h : clearBelow d ≤ tempOf s.pwr.temps d) : exec (.tripClear d) s = .next s :=
  congrArg Host.Outcome.next (if_neg fun hc => Nat.not_le.2 hc.2 h)

/-! Off and reset (R523, R526, R530). -/

theorem State.turnOff_of_on (hon : s.pwr.isOn = true) (why : Nat) (b : Bool) : ∃ o, s.turnOff why b =
    { { s with out := o }.moduleReset why s.slotId with
      pwr := { isOn := false, inRange := b, offReason := why, tray := s.pwr.tray, dynAddr := s.pwr.dynAddr,
               index := s.pwr.index, ibiMask := s.pwr.ibiMask } } := by
  obtain ⟨o, h⟩ := s.ibi_fields 4
  refine ⟨o, (if_neg (by simp [hon])).trans ?_⟩
  rw [h]

theorem exec_inputTurnOn_of_off (hoff : s.pwr.isOn = false) (gone : Bool) (k : Fin 8) : exec (.inputTurnOn gone k) s =
    .next ((s.moduleReset (if gone then 0 else s.pwr.offReason) k).modHealth fun h => { h with
      cycles := min 65535 (h.cycles + 1), matings := if gone then min 65535 (h.matings + 1) else h.matings }) :=
  congrArg Host.Outcome.next (if_neg (by simp [hoff]))

theorem exec_resetN_of_inRange (k : Fin 8) (h : s.pwr.inRange = true) : exec (.resetN k) s = .next (s.moduleReset 4 k) :=
  congrArg Host.Outcome.next (if_pos h)

theorem exec_sidebandReset_of_armed (k : Fin 8) (h : s.pwr.inRange = true) (hon : s.pwr.isOn = true) (ha : s.pwr.armed = true) :
    exec (.sidebandReset k) s = .next (s.moduleReset 5 k) := congrArg Host.Outcome.next (if_pos ⟨h, hon, ha⟩)

theorem exec_sidebandReset_of_unarmed (k : Fin 8) (h : s.pwr.isOn = false ∨ s.pwr.armed = false) :
    exec (.sidebandReset k) s = .next s :=
  congrArg Host.Outcome.next (if_neg fun hc => by rcases h with h | h <;> simp [h] at hc)

theorem exec_powerGoodTimeout_of_reset (hon : s.pwr.isOn = true) (h0 : s.phase = 0) :
    exec .powerGoodTimeout s = .next (s.turnOff 1 true) := congrArg Host.Outcome.next (if_pos ⟨hon, h0⟩)

end

/-- Settles O45: alerts and temperatures by the branch that takes them, an off and a reset by the fields of the state they leave. -/
theorem powerEventsAndResets : Obligations.PowerEventsAndResets := by
  unfold Obligations.PowerEventsAndResets
  refine ⟨fun s hon => ⟨exec_pwrAlert_of_on hon, State.startEmergency_of_emergency, State.startEmergency_of_none⟩,
    fun s => exec_alertEnd_of_alert,
    fun m s hon => ⟨exec_sensorRead_of_cool hon, fun d => exec_sensorRead_of_one hon, exec_sensorRead_of_shutdown hon⟩,
    fun d s => State.trip_of_new, fun d s hd => ⟨exec_tripClear_of_clear hd, exec_tripClear_of_hot⟩, by decide,
    fun s => ⟨rfl, rfl, exec_powerGoodTimeout_of_reset⟩, fun s why b hon => ?off,
    fun k s => ⟨exec_resetN_of_inRange k, exec_sidebandReset_of_armed k, exec_sidebandReset_of_unarmed k⟩,
    fun s why straps => ⟨rfl, rfl, rfl, rfl, rfl, rfl, rfl, rfl, rfl, rfl, rfl, rfl, rfl, rfl, rfl⟩,
    fun gone k s hoff => ⟨_, exec_inputTurnOn_of_off hoff gone k, rfl, rfl, rfl, rfl⟩⟩
  case off =>
    intro t
    obtain ⟨o, ht⟩ := State.turnOff_of_on hon why b
    rw [show t = _ from ht]
    exact ⟨rfl, rfl, rfl, rfl, rfl, rfl, rfl, rfl, rfl, rfl, rfl, rfl, rfl, rfl, rfl, rfl, rfl, rfl⟩

end Sys2Proof.Machine
end

section
/-! Firmware updates (R488–R495, R505): each command by what it replies, each end of a phase by the state it leaves. -/

namespace Sys2Proof.Machine

/-! The commands. -/

section
variable {q addr len : Nat} {s : State} (h : s.takes 0 6)
include h

theorem exec_fwStage_of_idle (hu : (s.taken 0 q).fw.updState = 0 ∨ (s.taken 0 q).fw.updState = 2) : exec (.fwStage 0 q addr len) s =
    .next (({ s.taken 0 q with fw := { (s.taken 0 q).fw with
      staging := some (bundleResult ((s.taken 0 q).stagedBytes addr (len % 2 ^ 32)) (s.taken 0 q).sec.fwSvn,
        readBundle ((s.taken 0 q).stagedBytes addr (len % 2 ^ 32))) } }.setUpd 1 0).finish 0 q (0, [])) :=
  congrArg Host.Outcome.next (State.offer_reply h (fun _ => rfl) (if_neg (by rcases hu with hu | hu <;> simp [hu])))

theorem exec_fwStage_of_under_way (hu : (s.taken 0 q).fw.updState ∈ [1, 3, 4, 5]) :
    exec (.fwStage 0 q addr len) s = .next ((s.taken 0 q).finish 0 q (3, [])) :=
  congrArg Host.Outcome.next (State.offer_reply h (fun _ => rfl) (if_pos (List.contains_iff_mem.2 hu)))

theorem exec_fwActivate_of_unstaged (hu : (s.taken 0 q).fw.updState ≠ 2 ∨ (s.taken 0 q).fw.isStaged = false) :
    exec (.fwActivate 0 q) s = .next ((s.taken 0 q).finish 0 q (3, [])) :=
  congrArg Host.Outcome.next (State.offer_reply h (fun _ => rfl) (if_pos (by simpa using hu)))

section
variable (hu : (s.taken 0 q).fw.updState = 2) (hst : (s.taken 0 q).fw.isStaged = true)
include hu hst

theorem exec_fwActivate_of_new (hv : (s.taken 0 q).stagedBundle.minPrev.toNat ≤ (s.taken 0 q).fwVersion) : exec (.fwActivate 0 q) s =
    .next (({ s.taken 0 q with fw := { (s.taken 0 q).fw with
      order := [6, 5, 2, 4, 3, 1, 7].filter (fun k => !(s.taken 0 q).fw.onStaged.contains k)
      waitSince := (s.taken 0 q).bellNow } }.setUpd 4 0).fwEvent.finish 0 q (0, [])) :=
  congrArg Host.Outcome.next (State.offer_reply h (fun _ => rfl) ((if_neg (by simp [hu, hst])).trans (if_neg (Nat.not_lt.2 hv))))

theorem exec_fwActivate_of_old (hv : (s.taken 0 q).fwVersion < (s.taken 0 q).stagedBundle.minPrev.toNat) : exec (.fwActivate 0 q) s =
    .next (({ s.taken 0 q with fw := { (s.taken 0 q).fw with
      activeB := !(s.taken 0 q).fw.activeB, isStaged := false, stg := 0 } }.setUpd 0 7).fwEvent.finish 0 q (0, [])) :=
  congrArg Host.Outcome.next (State.offer_reply h (fun _ => rfl) ((if_neg (by simp [hu, hst])).trans (if_pos hv)))

end

theorem exec_fwCatalogue_of_takes : exec (.fwCatalogue 0 q addr len) s =
    .next (({ s.taken 0 q with fresh := (s.taken 0 q).fresh + 1 }.toHost 0 addr ((Config.free64 (s.taken 0 q).fresh).setWidth 32)
      (((s.taken 0 q).core 7).img.catalogue.take len)).finish 0 q (0, [])) :=
  congrArg Host.Outcome.next (State.offer_reply h (fun _ => rfl) rfl)

end

section
variable {q k : Nat} {s : State} (h : s.takes 0 1)
include h

theorem exec_fwRestart_of_refused (hno : min 7 (k % 256) = 0 ∨ min 7 (k % 256) = 7 ∧ (s.taken 0 q).emergency = true ∨
      (s.taken 0 q).fw.updState ∈ [3, 4, 5]) : exec (.fwRestart 0 q k) s = .next ((s.taken 0 q).finish 0 q (3, [])) :=
  congrArg Host.Outcome.next (State.offer_reply h (fun _ => rfl) (if_pos (by rwa [List.contains_iff_mem])))

section
variable (h1 : 1 ≤ k) (h7 : k ≤ 7) (he : k = 7 → (s.taken 0 q).emergency = false) (hu : (s.taken 0 q).fw.updState ∉ [3, 4, 5])
include h1 h7 he hu

/-- What FW_RESTART of a core that may be restarted replies. -/
theorem exec_fwRestart_of_allowed : exec (.fwRestart 0 q k) s =
    .next ((if ((s.taken 0 q).core k).state ≠ 0 then s.taken 0 q else (s.taken 0 q).askRestart k 4).finish 0 q (0, [])) := by
  have hk : min 7 (k % 256) = k := by omega
  refine congrArg Host.Outcome.next (State.offer_reply h (fun _ => rfl) ((if_neg ?_).trans ?_))
  · rw [hk, List.contains_iff_mem]
    rintro (h0 | ⟨hk7, hem⟩ | hup)
    · omega
    · exact Bool.false_ne_true ((he hk7).symm.trans hem)
    · exact hu hup
  · rw [hk]
    exact (apply_ite (fun u : State => (u, mbOk, ([] : List Byte))) _ _ _).symm

end
end

/-! The checks of a bundle (R488). -/

theorem bundleResult_eq (bs : List Byte) (svn : Nat) : bundleResult bs svn =
    if bundleFormOk bs = false then 2 else if leNat ((bs.drop 6).take 1) ≠ 0xB0 then 6
    else if signatureValid 0 (bs.take 512) ((bs.drop 512).take 64) = false then 3
    else if ∃ e ∈ bundleImages bs, sha256 (imageBytes bs e) ≠ e.2.2.2 then 4
    else if leNat ((bs.drop 24).take 4) < svn then 5 else 0 := by
  have himages : ((!(bundleImages bs).all (fun e => sha256 (imageBytes bs e) == e.2.2.2)) = true) ↔
      ∃ e ∈ bundleImages bs, sha256 (imageBytes bs e) ≠ e.2.2.2 := by
    simp only [Bool.not_eq_true', ← Bool.not_eq_true, List.all_eq_true, beq_iff_eq, not_forall, exists_prop, ne_eq]
  simp only [bundleResult, himages, Bool.not_eq_true']

section
variable {ok : Bool} {res : Nat} {b : Bundle} {s : State} (hs : s.fw.staging = some (res, b))
include hs

theorem exec_stagingDone_of_staging : exec (.stagingDone ok) s = .next (
    if !s.up 6 then s.hold 6 (.stagingDone ok)
    else if res ≠ 0 then ({ s with fw := { s.fw with staging := none } }.setUpd (if s.fw.isStaged then 2 else 0) res).fwEvent
    else if !ok then ({ s with fw := { ({ s.fw with staging := none } : Firmware).putInactive {} with isStaged := false, stg := 0 } }.setUpd
      0 10).fwEvent
    else ({ s with fw := { ({ s.fw with staging := none } : Firmware).putInactive b with
      isStaged := true, stg := b.version, onStaged := [] } }.setUpd 2 0).fwEvent) := by
  show execStagingDone ok s = _
  rw [execStagingDone, hs]

end

/-! The ends of an activation (R490–R492). -/

section
variable {s : State}

theorem exec_activationLapse_of_due (hu : s.fw.updState = 3) (hm : s.msPast s.fw.waitSince 10000 = true) : exec .activationLapse s =
    .next (if !s.up 6 then s.hold 6 .activationLapse else ({ s with fw := { s.fw with order := [] } }.setUpd 2 8).fwEvent) :=
  congrArg Host.Outcome.next (if_pos ⟨hu, hm⟩)

theorem State.limited_iff (s : State) (k : Nat) : s.limited k = true ↔
    s.fw.current = some k ∨ k = 6 ∧ s.fw.updState ∈ [3, 4] ∧ (s.core 6).state = 1 := by
  simp [State.limited, and_assoc]

theorem exec_restartTimeout_of_due {k : Fin 8} (hl : s.limited k = true) (hm : s.msPast (s.core k).since 50 = true) :
    exec (.restartTimeout k) s = .next (s.setCore k { s.core k with state := 2 }).rollback :=
  congrArg Host.Outcome.next (if_pos ⟨hl, hm⟩)

section
variable (hu : s.fw.updState = 5) (hm : s.msPast s.fw.confirmSince 60000 = true)
include hu hm

theorem exec_confirmation_of_waiting (h6 : s.up 6 = false) : exec .confirmation s = .next (s.hold 6 .confirmation) :=
  congrArg Host.Outcome.next ((if_pos ⟨hu, hm⟩).trans (if_pos (by simp [h6])))

/-- The state that a confirmation tells of. -/
def State.confirmed (s : State) : State :=
  { s with sec := { s.sec with fwSvn := max s.sec.fwSvn s.stagedBundle.svn }
           fw := { s.fw with activeB := !s.fw.activeB, onStaged := [], isStaged := false, updState := 0, updResult := 1 } }

theorem exec_confirmation_of_running (h6 : s.up 6 = true) :
    exec .confirmation s = .next { s.confirmed.fwEvent with fw := { s.confirmed.fwEvent.fw with stg := 0 } } :=
  congrArg Host.Outcome.next ((if_pos ⟨hu, hm⟩).trans (if_neg (by simp [h6])))

end
end

/-- Settles O40: the commands by their replies, staging by its first failed check, and the ends of an activation by what they leave. -/
theorem firmwareUpdates : Obligations.FirmwareUpdates := by
  unfold Obligations.FirmwareUpdates
  refine ⟨fun q addr len s h => ⟨exec_fwStage_of_idle h, exec_fwStage_of_under_way h, exec_fwActivate_of_unstaged h,
      exec_fwActivate_of_new h, exec_fwActivate_of_old h, exec_fwCatalogue_of_takes h⟩, fun _ _ _ => rfl, bundleResult_eq,
    fun ok res b s hs => ?staging,
    fun q k s h => ⟨exec_fwRestart_of_refused h, fun h1 h7 he hu hst => ?down, fun h1 h7 he hu hst => ?running⟩,
    fun s hu hm => ⟨fun h6 => ?lapse, fun h6 => ?waits⟩, fun k s hk => ?timeout, fun _ => rfl,
    fun s => exec_confirmation_of_waiting, fun s hu hm h6 => ?confirmed⟩
  case staging =>
    intro f
    refine ⟨fun h6 => ?_, fun h6 hres => ?_, fun h6 hres => ?_, fun h6 hres => ?_⟩ <;> rw [exec_stagingDone_of_staging hs]
    · rw [if_pos (by simp [h6])]
    · rw [if_neg (by simp [h6]), if_pos hres]
    · rw [if_neg (by simp [h6]), if_neg (not_not.2 hres), if_pos (show (!false) = true from rfl)]
    · rw [if_neg (by simp [h6]), if_neg (not_not.2 hres), if_neg (by simp)]
  case down => rw [exec_fwRestart_of_allowed h h1 h7 he hu, if_pos hst]
  case running => rw [exec_fwRestart_of_allowed h h1 h7 he hu, if_neg (not_not.2 hst)]
  case lapse => rw [exec_activationLapse_of_due hu hm, if_neg (by simp [h6])]
  case waits => rw [exec_activationLapse_of_due hu hm, if_pos (by simp [h6])]
  case timeout =>
    refine exec_restartTimeout_of_due ((s.limited_iff k).2 (hk.imp_right fun ⟨h6, hrest⟩ => ⟨?_, hrest⟩))
    rw [h6]; rfl
  case confirmed =>
    refine ⟨_, exec_confirmation_of_running hu hm h6, ?_⟩
    obtain ⟨x, q, w, hev⟩ := s.confirmed.event_fields 0 0x0101
      [(s.confirmed.fw.updState, 4), (s.confirmed.fw.updResult, 4), (coreMask s.confirmed.fw.onStaged, 8), (s.confirmed.fw.stg.toNat, 64)]
    rw [State.fwEvent, hev]
    exact ⟨rfl, rfl, rfl, rfl, rfl, rfl, rfl, rfl, rfl⟩

end Sys2Proof.Machine
end

section
/-! Firmware cores (R458, R467, R473–R482, R489): how a core fails and restarts, what waited for it, staged events, and the logs. -/

namespace Sys2Proof.Machine

/-! A core fails (R474, R478, R490). -/

theorem State.modPwr_hold (s : State) : s.modPwr (fun p => { p with hold := p.hold || false }) = s := by
  simp only [State.modPwr, Bool.or_false]

theorem State.modPwr_held (s : State) :
    s.modPwr (fun p => { p with hold := p.hold || true }) = s.modPwr (fun p => { p with hold := true }) := by
  simp only [State.modPwr, Bool.or_true]

theorem State.askRestart_of_busy {s : State} {k why : Nat} (hr : s.restarting = true) (h7 : k = 7 → s.emergency = false) :
    s.askRestart k why = s.setCore k { s.core k with state := 2, why := why } := by
  have hhold : (k == 7 && s.emergency) = false := by
    rw [Bool.and_eq_false_iff, beq_eq_false_iff_ne]
    exact (em (k = 7)).symm.imp id h7
  rw [State.askRestart, if_pos (.inl hr), hhold, State.modPwr_hold]

theorem State.askRestart_of_emergency {s : State} {k why : Nat} (h7 : k = 7) (he : s.emergency = true) :
    s.askRestart k why = (s.setCore k { s.core k with state := 2, why := why }).modPwr (fun p => { p with hold := true }) := by
  have hhold : (k == 7 && s.emergency) = true := by rw [he, h7]; rfl
  rw [State.askRestart, if_pos (.inr ⟨h7, he⟩), hhold, State.modPwr_held]

theorem State.askRestart_of_idle {s : State} {k why : Nat} (hr : s.restarting = false) (h7 : k = 7 → s.emergency = false) :
    s.askRestart k why = s.beginRestart k why :=
  if_neg fun h => h.elim (fun h => Bool.false_ne_true (hr.symm.trans h)) fun h => Bool.false_ne_true ((h7 h.1).symm.trans h.2)

section
variable {s : State} {k : Fin 8} (h0 : (s.core k).state = 0)
include h0

section
variable (hk : k.val ≠ 0) (hlow : 2 ≤ s.phase) (hhigh : s.phase ≠ 7)
include hk hlow hhigh

theorem exec_watchdogExpiry_of_staged (hst : s.fw.onStaged.contains k.val = true) : exec (.watchdogExpiry k) s =
    .next ((s.setCore k { s.core k with state := 2, why := 5 }).modPwr
      (fun p => { p with hold := p.hold || (k.val == 7 && s.emergency) })).rollback :=
  congrArg Host.Outcome.next ((if_neg (not_not.2 h0)).trans ((if_neg hk).trans ((if_neg (by omega)).trans (if_pos ⟨rfl, hst⟩))))

theorem exec_watchdogExpiry_of_own (hu : s.fw.updState ≠ 5) (hst : s.fw.onStaged.contains k.val = false) :
    exec (.watchdogExpiry k) s = .next (s.askRestart k 1) := by
  refine congrArg Host.Outcome.next ((if_neg (not_not.2 h0)).trans ((if_neg hk).trans ((if_neg (by omega)).trans
    ((if_neg fun h => Bool.false_ne_true (hst.symm.trans h.2)).trans ?_))))
  dsimp only
  rw [if_neg hu, whyWatchdog]

end
end

theorem exec_watchdogExpiry_of_fp0 {s : State} (h0 : (s.core 0).state = 0) : exec (.watchdogExpiry 0) s =
    .next (if s.phase < 2 then (s.setCore 0 { s.core 0 with state := 3 }).bootFailed 5
      else { s with fresh := s.fresh + 1 }.moduleReset 6 (bits (Config.free64 s.fresh) 2 0)) :=
  congrArg Host.Outcome.next ((if_neg (not_not.2 h0)).trans (if_pos rfl))

/-! A restart begins (R473, R475, R479). -/

/-- A restart's Bells of the last 600 s, before it is counted. -/
def State.recentOf (s : State) (x : Core) : List Nat := x.recent.filter (fun b => (s.bellNow - b) * s.bellPeriod ≤ 600000000)

/-- The state when a restart has begun, before its event. -/
def State.restartBegun (s : State) (k why : Nat) : State :=
  { s with fw := { s.fw.keepImages k why (s.core k).img (s.fw.toLoad k why) with
      frozen := Table.put s.fw.frozen k (s.shadowCopies k) } }.setCore k
    { state := 1, reason := why, slot := (s.fw.toLoad k why).slot, img := s.fw.toLoad k why
      restarts := min 65535 ((s.core k).restarts + 1), since := s.bellNow, recent := s.recentWith (s.core k) why }

/-- It, once it has told of the restart. -/
def State.restartTold (s : State) (k why fatal : Nat) : State :=
  (s.restartBegun k why).eventAll 0x0100
    [(k, 8), (why, 4), (fatal, 1), (min 65535 ((s.core k).restarts + 1), 16), (((s.restartBegun k why).coreVersion k).toNat, 64)]

theorem State.recentWith_eq (s : State) (x : Core) (why : Nat) :
    s.recentWith x why = if why = 3 ∨ why = 4 then s.recentOf x else s.bellNow :: s.recentOf x := rfl

/-- Is a restart the fourth that counts? -/
def State.fatalRestart (s : State) (k why : Nat) : Bool :=
  !(why == whyActivation || why == whyHost) && 4 ≤ (s.recentWith (s.core k) why).length

theorem State.beginRestart_eq (s : State) (k why : Nat) : s.beginRestart k why =
    if s.fatalRestart k why then (s.restartTold k why (if s.fatalRestart k why then 1 else 0)).coreFatal
    else s.restartTold k why (if s.fatalRestart k why then 1 else 0) := rfl

theorem State.fatalRestart_iff (s : State) (k why : Nat) :
    s.fatalRestart k why = true ↔ why ≠ 3 ∧ why ≠ 4 ∧ 3 ≤ (s.recentOf (s.core k)).length := by
  have hlen : why ≠ 3 ∧ why ≠ 4 → (s.recentWith (s.core k) why).length = (s.recentOf (s.core k)).length + 1 := fun h => by
    rw [State.recentWith_eq, if_neg (not_or.2 h), List.length_cons]
  simp only [State.fatalRestart, whyActivation, whyHost, Bool.and_eq_true, Bool.not_eq_true', Bool.or_eq_false_iff, beq_eq_false_iff_ne,
    decide_eq_true_eq]
  exact ⟨fun ⟨h, hl⟩ => ⟨h.1, h.2, by have := hlen h; omega⟩, fun ⟨h3, h4, hl⟩ => ⟨⟨h3, h4⟩, by have := hlen ⟨h3, h4⟩; omega⟩⟩

theorem State.beginRestart_of_few {s : State} {k why : Nat} (h : why = 3 ∨ why = 4 ∨ (s.recentOf (s.core k)).length < 3) :
    s.beginRestart k why = s.restartTold k why 0 := by
  have hno : ¬ s.fatalRestart k why = true := by rw [State.fatalRestart_iff]; omega
  rw [State.beginRestart_eq, if_neg hno, if_neg hno]

theorem State.beginRestart_of_many {s : State} {k why : Nat} (h3 : why ≠ 3) (h4 : why ≠ 4) (h : 3 ≤ (s.recentOf (s.core k)).length) :
    s.beginRestart k why = (s.restartTold k why 1).coreFatal := by
  have hyes := (s.fatalRestart_iff k why).2 ⟨h3, h4, h⟩
  rw [State.beginRestart_eq, if_pos hyes, if_pos hyes]

section
variable {f : Firmware} {k why : Nat} (h3 : why ≠ 3) (h5 : why ≠ 5)
include h3 h5

theorem Firmware.toLoad_of_alone : f.toLoad k why = f.matching k := (if_neg h3).trans (if_neg h5)

theorem Firmware.toLoad_of_copy (h : ∃ i ∈ Table.get [] f.copies k, i.hash = Table.get 0 f.loads k) :
    f.toLoad k why ∈ Table.get [] f.copies k ∧ (f.toLoad k why).hash = Table.get 0 f.loads k := by
  rw [Firmware.toLoad_of_alone h3 h5, Firmware.matching]
  cases hfind : (Table.get [] f.copies k).find? (fun i => i.hash == Table.get 0 f.loads k) with
  | none =>
    obtain ⟨i, hi, hhash⟩ := h
    exact absurd (beq_iff_eq.2 hhash) (by simpa using List.find?_eq_none.1 hfind i hi)
  | some i => exact ⟨List.mem_of_find?_eq_some hfind, by simpa using List.find?_some hfind⟩

theorem Firmware.toLoad_of_flash (h : ∀ i ∈ Table.get [] f.copies k, i.hash ≠ Table.get 0 f.loads k) :
    f.toLoad k why = f.flashImage f.activeB k := by
  have hnone : (Table.get [] f.copies k).find? (fun i => i.hash == Table.get 0 f.loads k) = none :=
    List.find?_eq_none.2 fun i hi => by simpa using h i hi
  rw [Firmware.toLoad_of_alone h3 h5, Firmware.matching, hnone]
  rfl

end

/-! Shadow copies (R458). -/

theorem Table.get_of_mem {α : Type} (d : α) {t : Table α} {k : Nat} {v : α} (h : (k, v) ∈ t) (hn : (t.map (·.1)).Nodup) :
    Table.get d t k = v := by
  induction t with
  | nil => cases h
  | cons e t ih =>
    obtain ⟨j, w⟩ := e
    obtain ⟨hj, hn⟩ := List.nodup_cons.1 hn
    rcases List.mem_cons.1 h with he | he
    · obtain ⟨rfl, rfl⟩ := Prod.mk.injEq .. ▸ he
      exact if_pos rfl
    · have hne : j ≠ k := fun hjk => hj (List.mem_map.2 ⟨(k, v), he, hjk.symm⟩)
      exact (if_neg hne).trans (ih he hn)

theorem State.readWord_of_frozen {s : State} {off : Nat} {r : Reg} (hup : s.up (ownerOf off) = false)
    (hmem : (off, r) ∈ Table.get [] s.fw.frozen (ownerOf off)) (hn : ((Table.get [] s.fw.frozen (ownerOf off)).map (·.1)).Nodup) :
    s.readWord off = r := (if_neg (by simp [hup])).trans (Table.get_of_mem _ hmem hn)

/-! A core runs again (R475, R477). -/

/-- What a core that runs again does first, on the measured state: FP2 resumes, FP7 lets go of the clock. -/
theorem exec_coreRunning_of_restarting {s : State} {k : Fin 8} (h1 : (s.core k).state = 1) :
    let u := (s.setCore k { s.core k with state := 0 }).measureCore k
    let w := if k = 2 then u.resumeFp2 else if k = 7 then u.modPwr (fun p => { p with hold := false }) else u
    exec (.coreRunning k) s = .next (((w.activated k).replayLate k).startWaiting false) := by
  intro u w
  have hw : w = if k.val = 7 then (if k.val = 2 then u.resumeFp2 else u).modPwr (fun p => { p with hold := false })
      else if k.val = 2 then u.resumeFp2 else u := by
    by_cases h2 : k = 2
    · have h2v : k.val = 2 := congrArg Fin.val h2
      rw [if_pos h2v, if_neg (by omega)]
      exact if_pos h2
    · have h2v : k.val ≠ 2 := fun h => h2 (Fin.ext h)
      rw [if_neg h2v]
      exact (if_neg h2).trans (if_congr Fin.ext_iff rfl rfl)
  rw [hw]
  exact congrArg Host.Outcome.next (if_neg (not_not.2 h1))

theorem State.replayLate_of_all {s : State} {k : Nat} {is : List Instr} (h : s.fw.late = is.map (fun i => (k, i))) :
    s.replayLate k = is.foldl State.runLate { s with fw := { s.fw with late := [] } } := by
  have hmine : s.fw.late.filter (fun e => e.1 == k) = is.map (fun i => (k, i)) := by
    rw [h, List.filter_eq_self]; simp
  have hrest : s.fw.late.filter (fun e => e.1 != k) = [] := by
    rw [h, List.filter_eq_nil_iff]; simp
  rw [State.replayLate, hmine, hrest]
  exact List.foldl_map

theorem State.activated_of_other {s : State} {k : Nat} (h : s.fw.current ≠ some k) : s.activated k = s := if_pos h

/-! Staged events (R467). -/

section
variable {c : CtxId} {s : State} {e : Event} {es : List Event} (ho : (s.ctx c).ses.state = .opened) (hr : (s.ctx c).ringFull = false)
  (h1 : s.up 1 = true) (hs : (s.ctx c).ses.staged = e :: es)
include ho hr h1 hs

theorem flushGo_of_staged (n : Nat) : flushGo (n + 1) s c =
    if (s.ctx c).ses.lost ≠ 0 ∧ !(s.ctx c).ses.told then
      flushGo n ((s.modCtx c (fun x => { x with ses := { x.ses with told := true } })).writeEvent c
        ⟨0x000F, c, s.bellNow, [((s.ctx c).ses.lost, 32)]⟩) c
    else flushGo n ((s.modCtx c (fun x => { x with ses := { x.ses with staged := es, told := !es.isEmpty } })).writeEvent c e) c := by
  rw [flushGo, if_neg (by simp [ho, hr, h1]), hs]
  rfl

end

/-! Logs and traces (R481–R486). -/

/-- From `s` to `t` the module has staged records `new`, and traced; the cores, the rings' records, memory, the contexts and what is sent
stand. -/
structure State.Stages (s t : State) (new : List LogRec) : Prop where
  cores : t.fw.cores = s.fw.cores
  queue : t.fw.logQueue = s.fw.logQueue ++ new
  ring : t.fw.logRing = s.fw.logRing
  mem : t.mem = s.mem
  ctxs : t.ctxs = s.ctxs
  out : t.out = s.out

theorem State.Stages.refl (s : State) : s.Stages s [] := ⟨rfl, (List.append_nil _).symm, rfl, rfl, rfl, rfl⟩

theorem State.Stages.trans {s t u : State} {new more : List LogRec} (h : s.Stages t new) (h' : t.Stages u more) :
    s.Stages u (new ++ more) :=
  ⟨h'.cores.trans h.cores, by rw [h'.queue, h.queue, List.append_assoc], h'.ring.trans h.ring, h'.mem.trans h.mem,
    h'.ctxs.trans h.ctxs, h'.out.trans h.out⟩

theorem State.stages_stageLog (s : State) (k : Nat) : ∃ new, s.Stages (s.stageLog k) new ∧ new.length ≤ 1 := by
  unfold State.stageLog
  dsimp only
  split
  · exact ⟨[_], ⟨rfl, rfl, rfl, rfl, rfl, rfl⟩, Nat.le_refl 1⟩
  · exact ⟨[], ⟨rfl, (List.append_nil _).symm, rfl, rfl, rfl, rfl⟩, Nat.zero_le 1⟩

theorem State.stages_unpoke (s : State) (a n : Nat) : s.Stages (s.unpoke a n) [] := by
  unfold State.unpoke
  split
  · exact .refl s
  · exact ⟨rfl, (List.append_nil _).symm, rfl, rfl, rfl, rfl⟩

theorem State.stages_stageTrace (s : State) (k : Nat) : s.Stages (s.stageTrace k) [] := by
  have hput : ∀ (t : State) (f : Firmware), s.Stages t [] → f.cores = s.fw.cores → f.logQueue = s.fw.logQueue →
      f.logRing = s.fw.logRing → s.Stages { t with fw := f } [] :=
    fun t f h hc hq hr => ⟨hc, hq.trans (List.append_nil _).symm, hr, h.mem, h.ctxs, h.out⟩
  have hdraw : s.Stages s.draw64.2 [] := ⟨rfl, (List.append_nil _).symm, rfl, rfl, rfl, rfl⟩
  have hemit : ∀ (emit : Bool) (a n : Nat), s.Stages (if emit then s.draw64.2.unpoke a n else s.draw64.2) [] := fun emit a n => by
    split
    · exact hdraw.trans (State.stages_unpoke _ _ _)
    · exact hdraw
  exact hput _ _ (hemit _ _ _) rfl rfl rfl

theorem State.stages_stageLogs (ks : List Nat) (s : State) :
    ∃ new, s.Stages (ks.foldl State.stageLog s) new ∧ new.length ≤ ks.length := by
  induction ks generalizing s with
  | nil => exact ⟨[], .refl s, Nat.le_refl 0⟩
  | cons k ks ih =>
    obtain ⟨new, hk, hlen⟩ := s.stages_stageLog k
    obtain ⟨more, hks, hlens⟩ := ih (s.stageLog k)
    exact ⟨new ++ more, hk.trans hks, by simp only [List.length_append, List.length_cons]; omega⟩

theorem State.stages_stageTraces (ks : List Nat) (s : State) : s.Stages (ks.foldl State.stageTrace s) [] := by
  induction ks generalizing s with
  | nil => exact .refl s
  | cons k ks ih => exact (s.stages_stageTrace k).trans (ih (s.stageTrace k))

theorem State.stages_unpokes (rs : List LogRec) (s : State) :
    s.Stages (rs.foldl (fun s r => s.unpoke (windowBase + r.seq % logSlots * 64) 64) s) [] := by
  induction rs generalizing s with
  | nil => exact .refl s
  | cons r rs ih => exact (s.stages_unpoke _ _).trans (ih _)

/-- The state when the cores and the hub have staged and traced. -/
def State.staged (s : State) : State := (List.range 9).foldl State.stageTrace ((List.range 8).foldl State.stageLog s)

theorem State.stages_staged (s : State) : ∃ new, s.Stages s.staged new ∧ new.length ≤ 8 := by
  obtain ⟨new, hlog, hlen⟩ := State.stages_stageLogs (List.range 8) s
  have htrace := State.stages_stageTraces (List.range 9) ((List.range 8).foldl State.stageLog s)
  exact ⟨new, List.append_nil new ▸ hlog.trans htrace, hlen⟩

theorem State.Stages.up {s t : State} {new : List LogRec} (h : s.Stages t new) (k : Nat) : t.up k = s.up k := by
  rw [State.up, h.cores, State.up]

section
variable {s : State} (hp : 2 ≤ s.phase)
include hp

theorem exec_logCopy_of_waiting (h6 : s.up 6 = false) : exec .logCopy s = .next s.staged := by
  obtain ⟨new, hst, -⟩ := s.stages_staged
  exact congrArg Host.Outcome.next ((if_neg (Nat.not_lt.2 hp)).trans (if_pos (show (!s.staged.up 6) = true by rw [hst.up 6, h6]; rfl)))

theorem exec_logCopy_of_running (h6 : s.up 6 = true) : ∃ t : State, s.staged.Stages t [] ∧ exec .logCopy s =
    .next { t with fw := { s.staged.fw with
      logRing := (s.staged.fw.logQueue.reverse ++ s.staged.fw.logRing).take logSlots, logQueue := [] } } := by
  obtain ⟨new, hst, -⟩ := s.stages_staged
  exact ⟨_, State.stages_unpokes s.staged.fw.logQueue s.staged,
    congrArg Host.Outcome.next ((if_neg (Nat.not_lt.2 hp)).trans
      (if_neg (show ¬ (!s.staged.up 6) = true by rw [hst.up 6, h6]; exact Bool.false_ne_true)))⟩

end

/-- Settles O41: failures by what becomes of the core, restarts by their count, and staging by what it leaves. -/
theorem firmwareCoresRestart : Obligations.FirmwareCoresRestart := by
  unfold Obligations.FirmwareCoresRestart
  refine ⟨fun k s h0 hk hlow hhigh hu hst => ?own, fun k s h0 hk hlow hhigh => exec_watchdogExpiry_of_staged h0 hk hlow hhigh,
    fun s h0 => ⟨fun hp => ?module, fun hp => ?boot⟩, fun k why s => ⟨State.beginRestart_of_few, State.beginRestart_of_many⟩,
    fun f k why h3 h5 => ⟨Firmware.toLoad_of_copy h3 h5, Firmware.toLoad_of_flash h3 h5⟩, fun s off r => State.readWord_of_frozen,
    fun k s h1 => ?running, fun s k => State.activated_of_other, fun s k is => State.replayLate_of_all, fun c s => rfl,
    fun c s e es ho hr h1 hs => ⟨fun h => ?event, fun hl ht => ?lost⟩, fun s h6 hp => ?copied, fun s h6 hp => ?waiting⟩
  case own =>
    rw [exec_watchdogExpiry_of_own h0 hk hlow hhigh hu hst]
    exact ⟨fun hr h7 => by rw [State.askRestart_of_idle hr h7], fun hr h7 => by rw [State.askRestart_of_busy hr h7],
      fun h7 he => by rw [State.askRestart_of_emergency h7 he]⟩
  case module => rw [exec_watchdogExpiry_of_fp0 h0, if_neg (Nat.not_lt.2 hp)]
  case boot => rw [exec_watchdogExpiry_of_fp0 h0, if_pos hp]
  case running =>
    exact exec_coreRunning_of_restarting h1
  case event =>
    rw [State.flushEvents, flushGo_of_staged ho hr h1 hs, if_neg]
    rcases h with h | h <;> simp [h]
  case lost => rw [State.flushEvents, flushGo_of_staged ho hr h1 hs, if_pos ⟨hl, by simp [ht]⟩]
  case copied =>
    obtain ⟨new, hst, hlen⟩ := s.stages_staged
    obtain ⟨t, ht, hexec⟩ := exec_logCopy_of_running hp h6
    refine ⟨_, hexec, rfl, List.length_take_le .., ht.mem.trans hst.mem, ht.ctxs.trans hst.ctxs, ht.out.trans hst.out, fun r hr hroom => ?_⟩
    have hfit : s.staged.fw.logQueue.reverse.length ≤ logSlots := by
      rw [List.length_reverse, hst.queue, List.length_append]
      unfold logSlots at *
      omega
    have hin : r ∈ s.staged.fw.logQueue.reverse := by simp [hst.queue, hr]
    show r ∈ (s.staged.fw.logQueue.reverse ++ s.staged.fw.logRing).take logSlots
    rw [List.take_append, List.take_of_length_le hfit]
    exact List.mem_append_left _ hin
  case waiting =>
    obtain ⟨new, hst, hlen⟩ := s.stages_staged
    exact ⟨_, exec_logCopy_of_waiting hp h6, hst.ring, new, hst.queue, hlen⟩

end Sys2Proof.Machine
end

section
/-! The Agbel headers (R439, R442–R444), and VOTE messages: how they arrive, and how they are sent (R371, R381, R445). -/

namespace Sys2Proof.Machine

/-! Headers read back (R442–R444). -/

theorem leNat_leBytes_of_lt {n v : Nat} (h : v < 256 ^ n) : leNat (leBytes n v) = v := (leNat_leBytes n v).trans (Nat.mod_eq_of_lt h)

/-- The first field of a header. -/
theorem leNat_take_leBytes {n v : Nat} (bs : List Byte) (h : v < 256 ^ n) : leNat ((leBytes n v ++ bs).take n) = v := by
  rw [List.take_left' (leBytes_length n v), leNat_leBytes_of_lt h]

/-- What follows the first field of a header. -/
theorem drop_leBytes_append {n k : Nat} (v : Nat) (bs : List Byte) (h : n ≤ k) : (leBytes n v ++ bs).drop k = bs.drop (k - n) := by
  rw [List.drop_append, leBytes_length, drop_leBytes v h, List.nil_append]

theorem reduceBytes_length (h : ReduceHdr) (n : Nat) : (reduceBytes h n).length = 24 := by
  simp only [reduceBytes, List.length_append, leBytes_length]

/-- The control byte's fields: attempt, format and LAST (R442). -/
theorem ctl_fields {att fmt : Nat} (last : Bool) (ha : att < 4) (hf : fmt < 16) :
    let ctl := att % 4 + fmt % 16 * 4 + (if last then 64 else 0)
    ctl < 256 ∧ ctl % 4 = att ∧ ctl / 4 % 16 = fmt ∧ ctl.testBit 6 = last := by
  intro ctl
  have hctl : ctl = att + fmt * 4 + (if last then 64 else 0) := by
    show att % 4 + fmt % 16 * 4 + _ = _
    rw [Nat.mod_eq_of_lt ha, Nat.mod_eq_of_lt hf]
  rw [hctl, Nat.testBit_eq_decide_div_mod_eq]
  cases last
  · refine ⟨by simp; omega, by simp; omega, by simp; omega, by simp; omega⟩
  · refine ⟨by simp; omega, by simp; omega, by simp; omega, by simp; omega⟩

theorem readReduce_reduceBytes (h : ReduceHdr) {n : Nat} (hs : h.step < 2 ^ 64) (ha : h.att < 4) (hf : h.fmt < 16) (hp : h.pos < 2 ^ 13)
    (hn : n < 2 ^ 8) : readReduce (reduceBytes h n) = (h, n) := by
  obtain ⟨hctl, hatt, hfmt, hlast⟩ := ctl_fields h.last ha hf
  have hside : leNat (leBytes 8 h.side.toNat) = h.side.toNat := leNat_leBytes_of_lt h.side.isLt
  have hpos : h.pos % 8192 = h.pos := Nat.mod_eq_of_lt hp
  have hpos2 : leNat (leBytes 2 h.pos) = h.pos := leNat_leBytes_of_lt (by omega)
  simp only [readReduce, reduceBytes, List.append_assoc, drop_leBytes_append, Nat.reduceLeDiff,
    Nat.reduceSub, List.drop_zero, List.take_left' (leBytes_length _ _), leNat_leBytes_of_lt (n := 8) hs, leNat_leBytes_of_lt (n := 1) hctl,
    leNat_leBytes_of_lt (n := 1) hn, List.take_of_length_le (leBytes_length 8 _).le, hside, hpos, hpos2, hatt, hfmt, hlast,
    BitVec.ofNat_toNat, BitVec.setWidth_eq]

theorem readSig_sigBytes (h : SigHdr) (ha : h.addr < 2 ^ 24) (hw : h.watermark < 2 ^ 24) : readSig (sigBytes h) = h := by
  have hamount : leNat (leBytes 4 h.amount.toNat) = h.amount.toNat := leNat_leBytes_of_lt h.amount.isLt
  simp only [readSig, sigBytes, List.append_assoc, drop_leBytes_append, Nat.reduceLeDiff, Nat.reduceSub, List.drop_zero,
    List.take_left' (leBytes_length _ _), leNat_leBytes_of_lt (n := 3) ha, leNat_leBytes_of_lt (n := 3) hw, hamount,
    BitVec.ofNat_toNat, BitVec.setWidth_eq]

theorem readVote_voteBytes (h : VoteHdr) (hk : h.kind < 2 ^ 8) (hg : h.gtag < 2 ^ 16) (hl : h.len < 2 ^ 32) (hb : h.bell < 2 ^ 64) :
    readVote (voteBytes h) = h := by
  simp only [readVote, voteBytes, List.append_assoc, drop_leBytes_append, Nat.reduceLeDiff, Nat.reduceSub, List.drop_zero,
    List.take_left' (leBytes_length _ _), List.take_of_length_le (leBytes_length 8 _).le, leNat_leBytes_of_lt (n := 1) hk,
    leNat_leBytes_of_lt (n := 2) hg, leNat_leBytes_of_lt (n := 4) hl, leNat_leBytes_of_lt (n := 8) hb]

/-! VOTE messages arrive (R439–R441, R445). -/

/-- The rows of the group-control messages, with their KIND. -/
def voteRows (x b g r src : Nat) (flg : Bool) (m : BitVec 16) (bl : Ballot) (d : Decision) (od : Option Decision) (addrs : List PortAddr) :
    List (Nat × (Via → Instr)) :=
  [(0, fun v => .ballot v src bl), (1, fun v => .decision v d), (2, fun v => .heartbeat v src flg m),
    (3, fun v => .report v g r x b src), (4, fun v => .notice v x r), (5, fun v => .probe v src x), (6, fun v => .probeReply v src),
    (7, fun v => .state v src od), (8, fun v => .resume v g b m), (9, fun v => .takeover v x r addrs), (10, fun v => .groupLoss v x m)]

/-- What a group-control row does with a header: it arrives, and acts as when it is taken; for STATE and GROUP_LOSS, as their messages under
the header's tag do. -/
theorem exec_voteRow {kind src x b g r : Nat} {flg : Bool} {m : BitVec 16} {bl : Ballot} {d : Decision} {od : Option Decision}
    {addrs : List PortAddr} {form : Via → Instr} (hrow : (kind, form) ∈ voteRows x b g r src flg m bl d od addrs)
    (n psn : Nat) (fr : Frame) (h : VoteHdr) : ∃ act : State → State,
      (∀ s, exec (form (.packet n psn fr h)) s = .next (s.voteIn (.packet n psn fr h) kind form act)) ∧
      (∀ u, (if kind = 7 then Host.Outcome.next (u.takeState h.gtag src od) else if kind = 10 then .next (u.lossIn h.gtag x m)
        else exec (form .taken) u) = .next (act u)) ∧
      ∀ o, takesOpcode (form (.packet n psn fr h)) o = [0xC2, 0xC3, 0xC4, 0xC5].contains o := by
  simp only [voteRows, List.mem_cons, Prod.mk.injEq, List.not_mem_nil, or_false] at hrow
  rcases hrow with ⟨rfl, rfl⟩ | ⟨rfl, rfl⟩ | ⟨rfl, rfl⟩ | ⟨rfl, rfl⟩ | ⟨rfl, rfl⟩ | ⟨rfl, rfl⟩ | ⟨rfl, rfl⟩ | ⟨rfl, rfl⟩ | ⟨rfl, rfl⟩ |
    ⟨rfl, rfl⟩ | ⟨rfl, rfl⟩
  all_goals exact ⟨_, fun s => rfl, fun u => rfl, fun o => rfl⟩

theorem Frame.reserved_of_vote {fr : Frame} (h : [0xC2, 0xC3, 0xC4, 0xC5].contains fr.opcode = true) : fr.reserved = false := by
  have hop : fr.opcode ≤ 0xC5 := by
    simp only [List.contains_cons, List.contains_nil, Bool.or_false, Bool.or_eq_true, beq_iff_eq] at h
    omega
  exact decide_eq_false (by omega)

section
variable {s : State} {n psn kind : Nat} {fr : Frame} {h : VoteHdr} {form : Via → Instr} {act : State → State}
  (hr : s.receives n = true) (hc : s.cached n = true) (hp : psn = (s.qp n).rqPsn) (hf : fr.ordinary (form (.packet n psn fr h)))
  (hop : ∀ o, takesOpcode (form (.packet n psn fr h)) o = [0xC2, 0xC3, 0xC4, 0xC5].contains o)
include hr hc hp hf hop

theorem State.voteIn_of_expected : s.voteIn (.packet n psn fr h) kind form act =
    s.settle n psn (voteCount (s.qp n).mtu h.len) (form (.packet n psn fr h)) (s.inVote n kind h act) := by
  have hres : fr.reserved = false := Frame.reserved_of_vote ((hop fr.opcode).symm.trans hf.2.2.2)
  exact State.arrive_of_expected (i := fun fr => form (.packet n psn fr h)) (act := fun s => s.inVote n kind h act)
    (again := ackAgain n psn (voteCount (s.qp n).mtu h.len)) hr hc hp hf hres

theorem State.voteIn_of_kind (hok : s.agbelOk n = true) (hk : h.kind = kind) : s.voteIn (.packet n psn fr h) kind form act =
    let t := act (if s.parent = some (s.peerOf n) then s.hearParent else s)
    let k := voteCount (s.qp n).mtu h.len
    if (t.qp n).used then (t.modQp n (fun q => q.took k)).ackTo n (psnAdd psn (k - 1)) else t := by
  have hin : s.inVote n kind h act = (act (if s.parent = some (s.peerOf n) then s.hearParent else s), .done []) :=
    if_neg (by simp [hok, hk])
  rw [State.voteIn_of_expected hr hc hp hf hop, hin]
  rfl

theorem State.voteIn_of_other (hno : s.agbelOk n = false ∨ h.kind ≠ kind) : s.voteIn (.packet n psn fr h) kind form act =
    if s.up 2 then (s.transmit n (.nak n psn 0x61)).failQp n false else s.hold 2 (form (.packet n psn fr h)) := by
  have hin : s.inVote n kind h act = (s, .fatal) := if_pos (by simpa using hno)
  rw [State.voteIn_of_expected hr hc hp hf hop, hin]
  rfl

end

/-! VOTE messages are sent (R371, R381, R445). -/

theorem State.sendMsg_of_fenced {s : State} (gtag dst : Nat) (m : Msg) (h : s.group.fenced = true) : s.sendMsg gtag dst m = s := if_pos h

theorem State.sendMsg_of_up {s : State} {dst n : Nat} (gtag : Nat) (m : Msg) (hf : s.group.fenced = false) (hq : s.voteQpOf dst = some n)
    (h4 : (s.qp n).state ≠ 4) : s.sendMsg gtag dst m =
      (s.modQp n (fun q => { q with work := q.work.filter (fun w => w.owner != .control) })).post n .control
        (voteCount (s.qp n).mtu m.length) false (fun p => .vote n p dst ⟨m.kind, gtag, m.length, s.bellNow⟩ m) := by
  have hkeep : s.keepVoteQp dst = (some n, s) := by rw [State.keepVoteQp, hq]; exact if_pos h4
  rw [State.sendMsg, if_neg (by simp [hf]), hkeep]
  dsimp only
  rw [State.qp_modQp, if_pos rfl]
  rfl

/-- Settles O54: headers by their fields' places; each message's row by what its queue pair takes. -/
theorem voteMessagesArrive : Obligations.VoteMessagesArrive := by
  unfold Obligations.VoteMessagesArrive
  refine ⟨fun h n hs ha hf hp hn => ⟨reduceBytes_length h n, readReduce_reduceBytes h hs ha hf hp hn⟩,
    fun h ha hw => ⟨by simp only [sigBytes, List.length_append, leBytes_length], readSig_sigBytes h ha hw⟩,
    fun h hk hg hl hb => ⟨by simp only [voteBytes, List.length_append, leBytes_length], readVote_voteBytes h hk hg hl hb⟩,
    fun n psn fr h kind src x b g r flg m bl d od addrs form s hrow => ?arrives,
    fun gtag dst n m s => ⟨s.sendMsg_of_fenced gtag dst m, s.sendMsg_of_up gtag m⟩⟩
  case arrives =>
    obtain ⟨act, hexec, heffect, hop⟩ := exec_voteRow hrow n psn fr h
    intro k i effect hr hc hp hf
    refine ⟨fun hok hk => ⟨_, heffect _, ?_⟩, fun hno => ⟨fun h2 => ?_, fun h2 => ?_⟩⟩
    · exact (hexec s).trans (congrArg Host.Outcome.next (State.voteIn_of_kind hr hc hp hf hop hok hk))
    · exact (hexec s).trans (congrArg Host.Outcome.next ((State.voteIn_of_other hr hc hp hf hop hno).trans (if_pos h2)))
    · exact (hexec s).trans (congrArg Host.Outcome.next ((State.voteIn_of_other hr hc hp hf hop hno).trans (if_neg (by simp [h2]))))

end Sys2Proof.Machine
end

section
/-! The watch over the group (R374–R381, R384, R561): heartbeats, silence, probes and notices, and a module that fences itself. -/

namespace Sys2Proof.Machine

/-! What sends, and what a failed queue pair ends, leaves the group unit but for the reports it asks for. -/

/-- The group unit without the reports it owes. -/
def Group.watch (g : Group) : Group := { g with toReport := [] }

section
variable (s : State)

theorem State.group_transmit (n : Nat) (o : Output) : (s.transmit n o).group = s.group := by
  obtain ⟨q, w, h⟩ := s.transmit_fields n o
  rw [h]

theorem State.group_post (n : Nat) (o : Owner) (k : Nat) (b : Bool) (out : Nat → Output) : (s.post n o k b out).group = s.group := by
  obtain ⟨q, w, h⟩ := s.post_fields n o k b out
  rw [h]

theorem State.group_event (c code : Nat) (p : List (Nat × Nat)) : (s.event c code p).group = s.group := by
  obtain ⟨x, q, w, h⟩ := s.event_fields c code p
  rw [h]

theorem State.group_eventAll (code : Nat) (p : List (Nat × Nat)) : (s.eventAll code p).group = s.group := by
  obtain ⟨x, q, w, h⟩ := s.eventAll_fields code p
  rw [h]

theorem State.bellNow_eventAll (code : Nat) (p : List (Nat × Nat)) : (s.eventAll code p).bellNow = s.bellNow := by
  obtain ⟨x, q, w, h⟩ := s.eventAll_fields code p
  rw [h]

theorem State.group_unpoke (a n : Nat) : (s.unpoke a n).group = s.group := by
  unfold State.unpoke
  split <;> rfl

theorem State.group_cacheIn (n : Nat) : (s.cacheIn n).group = s.group := by
  unfold State.cacheIn
  dsimp only
  split <;> rfl

theorem State.group_resolve (n : Nat) : (s.resolve n).group = s.group := by
  unfold State.resolve
  split <;> rfl

theorem State.group_setCroftOf (c l : Nat) (x : Croft) : (s.setCroftOf c l x).group = s.group := by
  obtain ⟨k, a, h⟩ := s.setCroftOf_fields c l x
  rw [h]

theorem State.group_complete (f : Flight) (code : Nat) : (s.complete f code).group = s.group := by
  obtain ⟨fl, k, a, t, x, h⟩ := s.complete_fields f code
  rw [h]

theorem State.group_stopStreams (c code : Nat) : (s.stopStreams c code).group = s.group := by
  obtain ⟨fl, k, a, y, h, -⟩ := s.stopStreams_spec c code
  rw [h]

theorem State.group_parkDetached (c : Nat) : (s.parkDetached c).group = s.group := by
  unfold State.parkDetached
  dsimp only
  split
  · exact s.group_stopStreams c stAborted
  · rfl

theorem State.group_spoilDest (f : Flight) : (s.spoilDest f).group = s.group := by
  unfold State.spoilDest
  split
  · rfl
  · exact State.group_setCroftOf _ _ _ _
  · split
    · refine foldl_keeps (fun (r : State) => r.group = s.group) _ (fun r m h => ?_) _ _ rfl
      exact h
    · rfl
  · rfl
  · rfl
  · rfl

theorem State.group_failFlight (f : Flight) (code : Nat) : (s.failFlight f code).group = s.group :=
  (State.group_complete _ f code).trans (s.group_spoilDest f)

theorem State.group_startEntry (c i : Nat) : (s.startEntry c i).1.group = s.group := by
  unfold State.startEntry
  dsimp only
  split
  · exact State.group_event _ _ _ _
  · exact State.group_post _ _ _ _ _ _

theorem group_walkGo (n : Nat) (s : State) (c : Nat) : (walkGo n s c).group = s.group := by
  induction n generalizing s with
  | zero => rfl
  | succ n ih =>
    unfold walkGo
    dsimp only
    split
    · rfl
    · split
      · split
        · exact (ih _).trans (s.group_startEntry c _)
        · rfl
      · split
        · exact (ih _).trans ((State.group_parkDetached _ c).trans (State.group_unpoke _ _ _))
        · rfl

theorem State.group_entryDone (c i : Nat) : (s.entryDone c i).group = s.group := group_walkGo _ _ c

/-- What a failed queue pair's work does may ask for a report, and no more of the group. -/
theorem State.watch_failWork (code : Nat) (w : WorkReq) : (s.failWork code w).group.watch = s.group.watch := by
  unfold State.failWork
  split
  · split
    · exact congrArg Group.watch (s.group_failFlight _ code)
    · rfl
  · exact congrArg Group.watch (s.group_entryDone _ _)
  · exact congrArg Group.watch (s.group_entryDone _ _)
  · rfl
  · rfl
  · rfl
  · rfl
  · rfl

theorem State.watch_failRest (n : Nat) (lost : Bool) : (s.failRest n lost).group.watch = s.group.watch := by
  unfold State.failRest
  exact foldl_keeps (fun (r : State) => r.group.watch = s.group.watch) _ (fun r w h => (r.watch_failWork _ w).trans h) _ _ rfl

theorem State.watch_reestablish (n : Nat) : (s.reestablish n).group.watch = s.group.watch := s.watch_failRest n false

theorem State.watch_newVoteQp (dst : Nat) : (s.newVoteQp dst).2.group.watch = s.group.watch := by
  unfold State.newVoteQp
  split
  · exact congrArg Group.watch ((State.group_resolve _ _).trans (State.group_cacheIn _ _))
  · rfl

theorem State.watch_keepVoteQp (dst : Nat) : (s.keepVoteQp dst).2.group.watch = s.group.watch := by
  unfold State.keepVoteQp
  split
  · split
    · rfl
    · split
      · exact s.watch_reestablish _
      · rfl
  · split
    · exact s.watch_newVoteQp dst
    · rfl

theorem State.watch_sendMsg (gtag dst : Nat) (m : Msg) : (s.sendMsg gtag dst m).group.watch = s.group.watch := by
  unfold State.sendMsg
  split
  · rfl
  · dsimp only
    split
    · exact s.watch_keepVoteQp dst
    · exact (congrArg Group.watch (State.group_post _ _ _ _ _ _)).trans (s.watch_keepVoteQp dst)

theorem State.watch_sendDown (gtag : Nat) (m : Msg) : (s.sendDown gtag m).group.watch = s.group.watch := by
  unfold State.sendDown
  exact foldl_keeps (fun (r : State) => r.group.watch = s.group.watch) _ (fun r d h => (r.watch_sendMsg gtag d m).trans h) _ _ rfl

theorem State.suspects_sendDown (gtag : Nat) (m : Msg) : (s.sendDown gtag m).group.suspects = s.group.suspects :=
  have h := congrArg Group.suspects (s.watch_sendDown gtag m)
  h

theorem State.suspects_requestUnsent (dev : Nat) : (s.requestUnsent dev).group.suspects = s.group.suspects := by
  unfold State.requestUnsent
  split
  · refine foldl_keeps (fun (r : State) => r.group.suspects = s.group.suspects) _ (fun r c h => ?_) _ _ rfl
    exact h
  · rfl

end

/-! Heartbeats and answers to probes (R376, R378, R381). -/

section
variable {s : State} {dev : Nat}

/-- The state when a suspect has answered, before the tree is told. -/
def State.suspectCleared (s : State) (dev : Nat) (e : Suspect) : State :=
  (s.faultEvent dev 0 e.reason e.reports e.first 0xFFFF).modGroup (fun g => { g.dropSuspect dev with
    clears := Table.put g.clears dev s.bellNow })

theorem State.clearSuspect_of_unlisted (h : ∀ e ∈ s.group.suspects, e.dev ≠ dev) : s.clearSuspect dev = s := by
  have hnone : s.group.suspects.find? (fun e => e.dev == dev) = none := List.find?_eq_none.2 (by simpa using h)
  rw [State.clearSuspect, hnone]

theorem State.clearSuspect_of_listed {e : Suspect} (h : s.group.suspects.find? (fun e => e.dev == dev) = some e) :
    s.clearSuspect dev = ((s.suspectCleared dev e).sendDown (s.suspectCleared dev e).groupTag (.notice dev 1)).requestUnsent dev := by
  have hb : (s.faultEvent dev 0 e.reason e.reports e.first 0xFFFF).bellNow = s.bellNow := by
    rw [State.faultEvent, State.bellNow_eventAll]
  rw [State.clearSuspect, h, State.suspectCleared, ← hb]

theorem Group.dropSuspect_none (g : Group) : ∀ x ∈ (g.dropSuspect dev).suspects, x.dev ≠ dev := fun x hx => by
  simpa using (List.mem_filter.1 hx).2

end

/-- Is a module one whose messages end the parent's silence (R381)? -/
abbrev State.isHeard (s : State) (src : Nat) : Prop := s.parent = some src ∨ s.isCoordinator = true ∧ s.deputy = some src

/-- The state when a heartbeat has been noted, with the Bells of the parent's silence. -/
def State.quietened (s : State) (src : Nat) (quiet : BitVec 16) (k : Nat) : State :=
  { s with group := { s.group with
    silent := Table.put s.group.silent src 0, held := Table.drop s.group.held src
    quietSeen := Table.put s.group.quietSeen src quiet, parentSilent := k } }

/-- A heartbeat is noted, ends the suspicion of its sender, and may bring a RESUME. -/
theorem State.takeHeartbeat_eq (s : State) (src : Nat) (quiet : BitVec 16) : s.takeHeartbeat src quiet =
    ((s.quietened src quiet (if s.isHeard src then 0 else s.group.parentSilent)).clearSuspect src).tryResume := by
  by_cases h : s.isHeard src
  · rw [if_pos h]
    exact congrArg (fun t => (State.clearSuspect t src).tryResume) (if_pos h)
  · rw [if_neg h]
    exact congrArg (fun t => (State.clearSuspect t src).tryResume) (if_neg h)

theorem State.tryResume_of_member {s : State} (h : s.isCoordinator = false) : s.tryResume = s := if_pos (.inl (by simp [h]))

/-! Reports (R377). -/

section
variable {s : State} {dev why : Nat}

theorem exec_heartbeatTimeout_of_silent (hw : dev ∈ s.watchSet) (h4 : 4 ≤ Table.get 0 s.group.silent dev) (hf : s.group.fenced = false)
    (hu : s.up 4 = true) : exec (.heartbeatTimeout dev) s = .next (s.sendReport dev 1) :=
  congrArg Host.Outcome.next (if_pos ⟨List.contains_iff_mem.2 hw, h4, by simp [hf], hu⟩)

theorem exec_heartbeatTimeout_of_heard (h : dev ∉ s.watchSet ∨ Table.get 0 s.group.silent dev < 4) :
    exec (.heartbeatTimeout dev) s = .next s := by
  refine congrArg Host.Outcome.next (if_neg fun hc => ?_)
  obtain ⟨hw, h4, -, -⟩ := hc
  exact h.elim (fun h => h (List.contains_iff_mem.1 hw)) (Nat.not_lt.2 h4)

theorem State.reportTo_of_other (h : dev ≠ s.coordinator) : s.reportTo dev why = s.coordinator := if_neg fun hc => h hc.1

theorem State.reportTo_of_coordinator (h : dev = s.coordinator) (hc : s.isCoordinator = false) :
    s.reportTo dev why = s.deputy.getD s.coordinator := if_pos ⟨h, by simp [hc]⟩

theorem State.sendReport_of_new (hr : dev ∉ s.group.reported) (hd : dev ≠ s.devid) (ht : s.reportTo dev why ≠ s.devid) :
    s.sendReport dev why = (s.modGroup (fun g => { g with
      reported := dev :: g.reported, held := Table.put g.held dev (Table.get 0 g.held dev ||| why) })).sendMsg s.groupTag
        (s.reportTo dev why) (.report s.groupTag s.devid dev s.bellNow why) := by
  have hnew : ¬ s.group.reported.contains dev = true := fun h => hr (List.contains_iff_mem.1 h)
  rw [State.sendReport, if_neg hnew]
  simp only [if_neg hd]
  exact if_neg ht

end

/-! A module fences itself (R381). -/

section
variable {s : State}

theorem exec_parentSilence_of_silent (h5 : 5 ≤ s.group.parentSilent)
    (hp : s.parent.isSome = true ∨ s.isCoordinator = true ∧ s.deputy.isSome = true) : exec .parentSilence s = .next s.fence :=
  congrArg Host.Outcome.next (if_pos ⟨h5, hp⟩)

theorem exec_parentSilence_of_heard (h : s.group.parentSilent < 5) : exec .parentSilence s = .next s :=
  congrArg Host.Outcome.next (if_neg fun hc => Nat.not_lt.2 hc.1 h)

/-- The state when every stream of a module that fences itself has stopped. -/
def State.stopAll (s : State) : State := s.draw64.2.contexts.foldl (fun s c => s.stopStreams c stAborted) s.draw64.2

theorem State.stopAll_keeps (s : State) :
    s.stopAll.group = s.group ∧ s.stopAll.net = s.net ∧ s.stopAll.mem = s.mem ∧ s.stopAll.phase = s.phase := by
  refine foldl_keeps (fun (r : State) => r.group = s.group ∧ r.net = s.net ∧ r.mem = s.mem ∧ r.phase = s.phase) _ (fun r c h => ?_) _ _
    ⟨rfl, rfl, rfl, rfl⟩
  obtain ⟨fl, k, a, y, hstop, -⟩ := r.stopStreams_spec c stAborted
  rw [hstop]
  exact h

/-- The state of a fenced module, before its event. -/
def State.quiesced (s : State) : State :=
  (({ s.stopAll with net := { s.stopAll.net with
    subs := s.stopAll.net.subs.map (fun (e : Nat × Subport) => (e.1, e.2.withdraw)) } }).setPhase 8).modGroup
      (fun g => { g with fenced := true })

theorem State.fence_of_free (h : s.group.fenced = false) :
    s.fence = s.quiesced.eventAll 0x0008 [(bits s.draw64.1 7 0, 8)] := if_neg (by simp [h])

theorem State.quiesced_keeps (s : State) : s.quiesced.phase = 8 ∧ s.quiesced.mem = s.mem ∧
    s.quiesced.net.subs = s.net.subs.map (fun (e : Nat × Subport) => (e.1, e.2.withdraw)) := by
  obtain ⟨-, hn, hm, -⟩ := s.stopAll_keeps
  obtain ⟨o, hphase⟩ := State.setPhase_fields { s.stopAll with net := { s.stopAll.net with
    subs := s.stopAll.net.subs.map (fun (e : Nat × Subport) => (e.1, e.2.withdraw)) } } 8
  rw [State.quiesced, hphase]
  exact ⟨rfl, hm, congrArg (fun n : Net => n.subs.map (fun (e : Nat × Subport) => (e.1, e.2.withdraw))) hn⟩

theorem State.fence_keeps (h : s.group.fenced = false) : s.fence.group.fenced = true ∧ s.fence.phase = 8 ∧ s.fence.mem = s.mem ∧
    s.fence.net.subs = s.net.subs.map (fun (e : Nat × Subport) => (e.1, e.2.withdraw)) := by
  obtain ⟨hphase, hmem, hsubs⟩ := s.quiesced_keeps
  obtain ⟨x, q, w, hevent⟩ := s.quiesced.eventAll_fields 0x0008 [(bits s.draw64.1 7 0, 8)]
  have hnet := congrArg Net.subs (s.quiesced.steady_eventAll 0x0008 [(bits s.draw64.1 7 0, 8)])
  rw [State.fence_of_free h]
  refine ⟨?_, ?_, ?_, hnet.trans hsubs⟩
  · rw [hevent]; rfl
  · rw [hevent]; exact hphase
  · rw [hevent]; exact hmem

end

/-! Probes and notices (R374, R378, R381, R561). -/

section
variable (s : State) (src dev : Nat)

theorem exec_probe_of_up (h : s.up 4 = true) :
    exec (.probe .taken src dev) s = .next (s.sendMsg s.groupTag src (.probeReply s.devid)) := congrArg Host.Outcome.next (if_pos h)

theorem exec_probe_of_stopped (h : s.up 4 = false) : exec (.probe .taken src dev) s = .next (s.hold 4 (.probe .taken src dev)) :=
  congrArg Host.Outcome.next (if_neg (by simp [h]))

theorem exec_notice_of_failed {kind : Nat} (h : kind = 2 ∨ kind = 3) : exec (.notice .taken dev kind) s =
    .next ((s.hearParent.failDevice dev).sendDown s.hearParent.groupTag (.notice dev kind)) := by
  rcases h with rfl | rfl <;> rfl

theorem State.failDevice_of_self (h : dev = s.devid) (ht : s.group.takingOver = none) : s.failDevice dev = s.fence :=
  if_pos ⟨h, by rw [ht]; rfl⟩

/-- On a module of one context, a CLEAR of its twin asks for an abort of that context's group when its mirror writes could not be sent. -/
theorem State.requestUnsent_of_one (c : Nat) (h : s.contexts = [c]) : s.requestUnsent dev =
    if s.twin = some dev ∧ ((s.ctx c).unsent = true ∨ (s.ctx c).mirrors ≠ [] ∧ (s.qp (s.ctx c).twinQpn).sends c = false)
    then s.modGroup (fun g => { g with abortPending := insertNat (s.ctx c).gtag g.abortPending }) else s := by
  rw [State.requestUnsent, h]
  by_cases ht : s.twin = some dev
  · by_cases hu : (s.ctx c).unsent = true ∨ (s.ctx c).mirrors ≠ [] ∧ (s.qp (s.ctx c).twinQpn).sends c = false
    · rw [if_pos ht, if_pos ⟨ht, hu⟩, List.filter_cons_of_pos (by simpa using hu)]
      rfl
    · rw [if_pos ht, if_neg fun hc => hu hc.2, List.filter_cons_of_neg (by simpa using hu)]
      rfl
  · rw [if_neg ht, if_neg fun hc => ht hc.1]

end

/-- Settles O49: heartbeats and replies through the suspicion table; silence, probes and notices by what each row does. -/
theorem groupIsWatched : Obligations.GroupIsWatched := by
  unfold Obligations.GroupIsWatched
  refine ⟨fun src r quiet s hnew => ?heard, fun src r quiet e s he => ?suspected, fun s dev e he => ?reply,
    fun dev s => exec_heartbeatTimeout_of_silent, fun dev s => exec_heartbeatTimeout_of_heard, fun dev why s => State.sendReport_of_new,
    fun dev why s => ⟨State.reportTo_of_other, State.reportTo_of_coordinator⟩, fun s => exec_parentSilence_of_silent,
    fun s => exec_parentSilence_of_heard, fun s hf => ?fence,
    fun src dev s => ⟨exec_probe_of_up s src dev, exec_probe_of_stopped s src dev⟩,
    fun dev s => rfl, fun dev s => rfl, fun dev kind s hk => ⟨_, exec_notice_of_failed s dev hk, State.failDevice_of_self s.hearParent dev⟩,
    fun dev c s => s.requestUnsent_of_one dev c⟩
  case heard =>
    intro heard t
    have hexec : exec (.heartbeat .taken src r quiet) s = .next t.tryResume :=
      congrArg Host.Outcome.next ((s.takeHeartbeat_eq src quiet).trans
        (congrArg State.tryResume (State.clearSuspect_of_unlisted (s := t) hnew)))
    exact ⟨fun hc => hexec.trans (congrArg _ (State.tryResume_of_member (s := t) hc)), fun _ => hexec⟩
  case suspected =>
    intro heard t
    refine ⟨t.clearSuspect src, rfl, ?_, congrArg Host.Outcome.next (s.takeHeartbeat_eq src quiet)⟩
    rw [State.clearSuspect_of_listed (s := t) he, State.suspects_requestUnsent, State.suspects_sendDown]
    exact Group.dropSuspect_none _
  case reply =>
    intro u t
    exact ⟨congrArg Host.Outcome.next (State.clearSuspect_of_listed he), (s.faultEvent ..).group.dropSuspect_none⟩
  case fence =>
    obtain ⟨hfenced, hphase, hmem, hsubs⟩ := State.fence_keeps hf
    refine ⟨hfenced, hphase, hmem, fun k => ?_⟩
    have hk : Table.get {} s.fence.net.subs k = (Table.get {} s.net.subs k).withdraw := by
      rw [hsubs]
      exact Table.get_map Subport.withdraw {} s.net.subs k
    rw [hk]
    exact ⟨rfl, rfl, rfl⟩

end Sys2Proof.Machine
end

section
/-! What an inbound request does (R395, R402, R403, R423, R430–R433, R455–R457): its frame, the window it meets, and its answer. -/

namespace Sys2Proof.Machine

/-! The rows of RoCE v2 requests (R430, R432, R433). -/

/-- The rows of inbound requests. -/
def requestRows (n psn va len : Nat) (fr : Frame) (key imm : Reg) (v w : Word) (data : List Byte) : List Instr :=
  [.rdmaWriteInbound n psn fr va key data, .rdmaReadInbound n psn fr va key len, .fetchAndAdd n psn fr va key v,
    .compareAndSwap n psn fr va key v w, .writeWithImmediate n psn fr va key data imm, .sendInbound n psn fr data]

section
variable (n psn va len : Nat) (fr : Frame) (key imm : Reg) (v w : Word) (data : List Byte) (s : State)

theorem exec_rdmaWriteInbound : exec (.rdmaWriteInbound n psn fr va key data) s = .next (s.arrive n psn ((s.qp n).packets data.length) fr
    (fun fr => .rdmaWriteInbound n psn fr va key data) (fun s => s.inWrite n va key data)
    (ackAgain n psn ((s.qp n).packets data.length))) := rfl

theorem exec_rdmaReadInbound : exec (.rdmaReadInbound n psn fr va key len) s = .next (s.arrive n psn ((s.qp n).packets len) fr
    (fun fr => .rdmaReadInbound n psn fr va key len) (fun s => s.inRead n psn va key len) (fun s => s.readAgain n psn va key len)) := rfl

theorem exec_fetchAndAdd : exec (.fetchAndAdd n psn fr va key v) s = .next (s.arrive n psn 1 fr (fun fr => .fetchAndAdd n psn fr va key v)
    (fun s => s.inAtomic n psn va key (fun o => o + v)) (fun s => s.atomicAgain n psn)) := rfl

theorem exec_compareAndSwap : exec (.compareAndSwap n psn fr va key v w) s = .next (s.arrive n psn 1 fr
    (fun fr => .compareAndSwap n psn fr va key v w) (fun s => s.inAtomic n psn va key (fun o => if o = v then w else o))
    (fun s => s.atomicAgain n psn)) := rfl

theorem exec_writeWithImmediate : exec (.writeWithImmediate n psn fr va key data imm) s =
    .next (s.arrive n psn ((s.qp n).packets data.length) fr (fun fr => .writeWithImmediate n psn fr va key data imm)
      (fun s => s.immSignal n (s.inWrite n va key data)) (ackAgain n psn ((s.qp n).packets data.length))) := rfl

theorem exec_sendInbound : exec (.sendInbound n psn fr data) s = .next (s.arrive n psn ((s.qp n).packets data.length) fr
    (fun fr => .sendInbound n psn fr data) (fun s => s.inSend n) (ackAgain n psn ((s.qp n).packets data.length))) := rfl

end

/-- A request's row is an arrival of the frame. -/
theorem exec_request {n psn va len : Nat} {fr : Frame} {key imm : Reg} {v w : Word} {data : List Byte} {i : Instr}
    (hi : i ∈ requestRows n psn va len fr key imm v w data) (s : State) : ∃ (count : Nat) (form : Frame → Instr)
      (act : State → State × Verdict) (again : State → State), exec i s = .next (s.arrive n psn count fr form act again) ∧ form fr = i := by
  simp only [requestRows, List.mem_cons, List.not_mem_nil, or_false] at hi
  rcases hi with rfl | rfl | rfl | rfl | rfl | rfl
  · exact ⟨_, _, _, _, exec_rdmaWriteInbound n psn va fr key data s, rfl⟩
  · exact ⟨_, _, _, _, exec_rdmaReadInbound n psn va len fr key s, rfl⟩
  · exact ⟨_, _, _, _, exec_fetchAndAdd n psn va fr key v s, rfl⟩
  · exact ⟨_, _, _, _, exec_compareAndSwap n psn va fr key v w s, rfl⟩
  · exact ⟨_, _, _, _, exec_writeWithImmediate n psn va fr key imm data s, rfl⟩
  · exact ⟨_, _, _, _, exec_sendInbound n psn fr data s, rfl⟩

section
variable {s : State} {n psn count : Nat} {fr : Frame} {form : Frame → Instr} {act : State → State × Verdict} {again : State → State}
  (hr : s.receives n = true)
include hr

theorem State.arrive_of_long (h : 9216 < fr.len) :
    s.arrive n psn count fr form act again = { s with net := { s.net with dropLong := s.net.dropLong + 1 } } := by
  obtain ⟨hl, hud⟩ := (s.receives_iff n).1 hr
  simp [State.arrive, hl, hud, State.admitFrame, frameMax, h]

theorem State.arrive_of_unplain (h : fr.len ≤ 9216) (hp : fr.plain = false) : s.arrive n psn count fr form act again = s := by
  obtain ⟨hl, hud⟩ := (s.receives_iff n).1 hr
  simp [State.arrive, hl, hud, State.admitFrame, frameMax, Nat.not_lt.2 h, hp]

/-- An expected frame whose operation is not the row's is refused. -/
theorem State.arrive_of_misplaced (hc : s.cached n = true) (hp : psn = (s.qp n).rqPsn) (hlen : fr.len ≤ 9216) (hplain : fr.plain = true)
    (hce : fr.ce = false) (hop : fr.opcode < 0xC6) (hno : takesOpcode (form fr) fr.opcode = false) :
    s.arrive n psn count fr form act again = s.transmit n (.nak n psn 0x61) := by
  obtain ⟨hl, hud⟩ := (s.receives_iff n).1 hr
  have hheard : { fr with ce := false } = fr := by rw [← hce]
  have hres : fr.reserved = false := decide_eq_false (Nat.not_le.2 hop)
  have hmark : s.marked n fr.ce = s := by simp [State.marked, hce]
  simp only [State.arrive, hl, hud, State.admitFrame_of_plain hlen hplain, hc, hmark, ← hp, hres, hheard, hno, Bool.not_true,
    Bool.not_false, Bool.false_eq_true, if_true, if_false]
  rfl

end

/-! What a verdict sends (R430, R437). -/

theorem State.settle_nak (s t : State) (n psn count : Nat) (i : Instr) (syn : Nat) :
    s.settle n psn count i (t, .nak syn) = t.transmit n (.nak n psn syn) := rfl

theorem State.settle_done {s t : State} {n : Nat} (psn count : Nat) (i : Instr) :
    s.settle n psn count i (t, .done []) =
      if (t.qp n).used then (t.modQp n (fun q => q.took count)).ackTo n (psnAdd psn (count - 1)) else t := rfl

theorem State.settle_done_used {s t : State} {n : Nat} (psn count : Nat) (i : Instr) (hu : (t.qp n).used = true) :
    s.settle n psn count i (t, .done []) = (t.modQp n (fun q => q.took count)).ackTo n (psnAdd psn (count - 1)) := if_pos hu

theorem State.settle_answer {s t : State} {n : Nat} (psn count : Nat) (i : Instr) (o : Output) (hu : (t.qp n).used = true) :
    s.settle n psn count i (t, .done [o]) = (t.modQp n (fun q => q.took count)).transmit n o := if_pos hu

/-! Where an access lands (R395, R402, R403, R432, R456). -/

theorem State.regAccess_iff (s : State) (n va len : Nat) : s.regAccess n va len = true ↔
    (s.qp n).session = true ∧ (s.ctx (s.qp n).ctx).ses.modQpn = n ∧ (s.ctx (s.qp n).ctx).exist = true ∧
      (s.ctx (s.qp n).ctx).ses.state = .opened ∧ va % 4 = 0 ∧ len % 4 = 0 ∧ regBase ≤ va ∧ va + len ≤ regBase + 0x110000 := by
  simp only [State.regAccess, State.serves, Bool.and_eq_true, beq_iff_eq, decide_eq_true_eq, and_assoc]

/-- Main memory and the register window are apart. -/
theorem State.regAccess_of_inHbm (s : State) {n va len : Nat} (h : inHbm va len = true) : s.regAccess n va len = false := by
  obtain ⟨hend, -⟩ := (inHbm_iff va len).1 h
  have hbase : hbmEnd ≤ regBase := by decide
  exact Bool.eq_false_iff.2 fun hreg => by
    obtain ⟨-, -, -, -, -, -, hva, -⟩ := (s.regAccess_iff n va len).1 hreg
    omega

section
variable {s : State} {n va : Nat} {key : Reg} {data : List Byte}

theorem State.inWrite_of_hbm (ha : (s.qp n).admits va data.length key 1 = true) (hh : inHbm va data.length = true)
    (hf : s.foreignRegion (s.qp n).ctx va data.length = false) :
    s.inWrite n va key data = ({ s with mem := Memory.writeBytes s.mem va data }, .done []) :=
  (if_neg (by simp [accWrite, ha])).trans ((if_neg fun h => Bool.false_ne_true ((s.regAccess_of_inHbm hh).symm.trans h.1)).trans
    (if_pos ⟨hh, by rw [hf]; rfl⟩))

theorem State.inWrite_of_words (ha : (s.qp n).admits va data.length key 1 = true) (hr : s.regAccess n va data.length = true)
    (hw : ∀ o ∈ wordsOf va data.length, mayWrite (s.qp n).ctx o = true) :
    s.inWrite n va key data = (s.writeRegs (ctxOf (s.qp n).ctx) va data, .done []) :=
  (if_neg (by simp [accWrite, ha])).trans (if_pos ⟨hr, List.all_eq_true.2 hw⟩)

theorem State.inWrite_of_refused (h : (s.qp n).admits va data.length key 1 = false ∨
    ¬ (s.regAccess n va data.length = true ∧ ∀ o ∈ wordsOf va data.length, mayWrite (s.qp n).ctx o = true) ∧
      (inHbm va data.length = false ∨ s.foreignRegion (s.qp n).ctx va data.length = true)) :
    s.inWrite n va key data = (s, .nak 0x62) := by
  unfold State.inWrite
  dsimp only
  rw [show accWrite = 1 from rfl]
  by_cases ha : (s.qp n).admits va data.length key 1 = true
  · obtain ⟨hw, hh⟩ := h.resolve_left (by simp [ha])
    rw [if_neg (by simp [ha]), if_neg fun hc => hw ⟨hc.1, List.all_eq_true.1 hc.2⟩, if_neg]
    · rfl
    · rintro ⟨hin, hown⟩
      rcases hh with hh | hh
      · exact Bool.false_ne_true (hh.symm.trans hin)
      · rw [hh] at hown
        exact Bool.false_ne_true hown
  · rw [if_pos (by simp [ha])]
    rfl

end

section
variable {s : State} {n psn va : Nat} {key : Reg} {len : Nat}

/-- The word's byte that a READ of the register window gets at an address. -/
theorem State.deviceByte_of_register {a : Nat} (hlo : regBase ≤ a) (hhi : a < regBase + 0x110000) :
    s.deviceByte a = (leBytes 4 (s.readWord ((a - regBase) / 4 * 4)).toNat).getD (a % 4) 0 := by
  have hhbm : hbmEnd ≤ regBase := by decide
  have hstores : storeBase + 288 * storeStride ≤ regBase := by decide
  have htally : tallyBase + 0x4000000 ≤ regBase := by decide
  have hstore : inSomeStore a 1 = false := by
    simp only [inSomeStore, Bool.and_eq_false_iff, decide_eq_false_iff_not]
    exact .inl (.inr (by omega))
  rw [State.deviceByte, if_neg (by omega), if_neg (by simp [hstore]), if_neg (by omega), if_pos ⟨hlo, hhi⟩]

theorem State.deviceBytes_of_inHbm (s : State) (h : inHbm va len = true) : s.deviceBytes va len = Memory.readBytes s.mem va len := by
  obtain ⟨hend, hoff⟩ := (inHbm_iff va len).1 h
  refine List.ext_getElem (by simp [State.deviceBytes, Memory.readBytes_length]) fun i hi hi' => ?_
  have hilt : i < len := by simpa [State.deviceBytes] using hi
  have hbyte : inHbm (va + i) 1 = true := (inHbm_iff _ _).2 (by unfold hbmEnd dieBytes systemOffset at *; omega)
  have hread := Memory.readBytes_getD s.mem va hilt
  rw [List.getD_eq_getElem _ _ hi'] at hread
  rw [hread]
  simp only [State.deviceBytes, List.getElem_map, List.getElem_range]
  exact s.deviceByte_of_memory (.inl hbyte)

theorem State.deviceBytes_of_words (s : State) (hlo : regBase ≤ va) (hhi : va + len ≤ regBase + 0x110000) :
    s.deviceBytes va len = (List.range len).map (fun i =>
      (leBytes 4 (s.readWord ((va - regBase + i) / 4 * 4)).toNat).getD ((va + i) % 4) 0) := by
  refine List.map_congr_left fun i hi => ?_
  have hilt : i < len := List.mem_range.1 hi
  rw [State.deviceByte_of_register (by omega) (by omega), show va + i - regBase = va - regBase + i by omega]

theorem State.qp_renew (s : State) (c m : Nat) : (s.renew c).qp m = s.qp m := by
  obtain ⟨x, hx⟩ := s.renew_fields c
  rw [hx]
  rfl

theorem State.inRead_of_hbm (ha : (s.qp n).admits va len key 0 = true) (hh : inHbm va len = true) :
    s.inRead n psn va key len = (s, .done [.readResponse n psn (Memory.readBytes s.mem va len)]) := by
  have hreadable : s.readable n va len = true := by simp [State.readable, State.hbmReadable, hh]
  rw [State.inRead, if_pos ⟨ha, hreadable⟩, s.regAccess_of_inHbm hh]
  exact congrArg (fun bs => (s, Verdict.done [.readResponse n psn bs])) (s.deviceBytes_of_inHbm hh)

theorem State.inRead_of_words (ha : (s.qp n).admits va len key 0 = true) (hr : s.regAccess n va len = true)
    (hw : ∀ o ∈ wordsOf va len, mayRead (s.qp n).ctx o = true) :
    s.inRead n psn va key len = (s.renew (s.qp n).ctx, .done [.readResponse n psn ((List.range len).map (fun i =>
      (leBytes 4 ((s.renew (s.qp n).ctx).readWord ((va - regBase + i) / 4 * 4)).toNat).getD ((va + i) % 4) 0))]) := by
  have hall : (wordsOf va len).all (mayRead (s.qp n).ctx) = true := List.all_eq_true.2 hw
  have hreadable : s.readable n va len = true := by simp [State.readable, hr, hall]
  obtain ⟨-, -, -, -, -, -, hlo, hhi⟩ := (s.regAccess_iff n va len).1 hr
  rw [State.inRead, if_pos ⟨ha, hreadable⟩, hr, ← State.deviceBytes_of_words _ hlo hhi]
  rfl

theorem State.inRead_of_refused (h : (s.qp n).admits va len key 0 = false ∨
    ¬ (s.regAccess n va len = true ∧ ∀ o ∈ wordsOf va len, mayRead (s.qp n).ctx o = true) ∧
      s.hbmReadable (s.qp n).ctx va len = false ∧ (va < tallyBase ∨ tallyBase + 0x4000000 < va + len) ∧
      (va < windowBase ∨ windowBase + 0x21000000 < va + len ∨ (s.ctx (s.qp n).ctx).feat 4 = false)) :
    s.inRead n psn va key len = (s, .nak 0x62) := by
  refine if_neg fun hc => ?_
  obtain ⟨ha, hreadable⟩ := hc
  obtain ⟨hw, hh, ht, hl⟩ := h.resolve_left fun h => Bool.false_ne_true (h.symm.trans ha)
  simp only [State.readable, hh, Bool.false_or, Bool.or_eq_true, Bool.and_eq_true, decide_eq_true_eq] at hreadable
  rcases hreadable with (⟨hlo, hhi⟩ | ⟨⟨hlo, hhi⟩, hfeat⟩) | ⟨hr, hall⟩
  · omega
  · rcases hl with hl | hl | hl
    · omega
    · omega
    · exact Bool.false_ne_true (hl.symm.trans hfeat)
  · exact hw ⟨hr, List.all_eq_true.1 hall⟩

theorem State.inAtomic_of_hbm {f : Word → Word} (ha : (s.qp n).admits va 8 key 2 = true) (h8 : va % 8 = 0) (hh : inHbm va 8 = true) :
    s.inAtomic n psn va key f =
      let old := BitVec.ofNat 64 (leNat (Memory.readBytes s.mem va 8))
      (({ s with mem := Memory.writeBytes s.mem va (leBytes 8 (f old).toNat) }).modQp n (fun q =>
        { q with atomics := ((psn, old) :: q.atomics).take q.respRes }), .done [.atomicResponse n psn old]) := if_pos ⟨ha, h8, hh⟩

theorem State.inAtomic_of_refused {f : Word → Word} (h : (s.qp n).admits va 8 key 2 = false ∨ va % 8 ≠ 0 ∨ inHbm va 8 = false) :
    s.inAtomic n psn va key f = (s, .nak 0x62) := by
  refine if_neg fun hc => ?_
  obtain ⟨ha, h8, hh⟩ := hc
  rcases h with h | h | h
  · exact Bool.false_ne_true (h.symm.trans ha)
  · exact h h8
  · exact Bool.false_ne_true (h.symm.trans hh)

theorem State.modQp_took {t : State} (h : t.qp n = s.qp n) :
    t.modQp n (fun q => q.took ((s.qp n).packets len)) = t.modQp n (fun q => q.took (q.packets len)) := by
  rw [State.modQp, State.modQp, h]

theorem State.modQp_modQp (s : State) (n : Nat) (f g : Qp → Qp) : (s.modQp n f).modQp n g = s.modQp n (fun q => g (f q)) := by
  simp only [State.modQp, State.qp_setQp, if_true]
  simp only [State.setQp, Table.put_put]

end

/-! Requests that are served (R430, R432, R433, R437). -/

/-- Is it the row of a RoCE v2 request? -/
def isRequest : Instr → Bool
  | .rdmaWriteInbound .. | .rdmaReadInbound .. | .fetchAndAdd .. | .compareAndSwap .. | .writeWithImmediate .. | .sendInbound .. => true
  | _ => false

/-- The opcodes of requests lie below Agbel's reserved ones. -/
theorem takesOpcode_request {i : Instr} (hi : isRequest i = true) {o : Nat} (ho : takesOpcode i o = true) : o < 0xC6 := by
  unfold isRequest at hi
  split at hi
  case h_7 => exact absurd hi Bool.false_ne_true
  all_goals
    simp only [takesOpcode, List.contains_cons, List.contains_nil, Bool.or_false, Bool.or_eq_true, beq_iff_eq, decide_eq_true_eq] at ho
    omega

section
variable {n psn va len : Nat} {fr : Frame} {key imm : Reg} {v w : Word} {data : List Byte} {s : State}
  (hr : s.receives n = true) (hc : s.cached n = true) (hp : psn = (s.qp n).rqPsn)
include hr hc hp

/-- An expected request in an ordinary frame is settled by what its row does. -/
theorem exec_request_of_expected {i : Instr} {count : Nat} {form : Frame → Instr} {act : State → State × Verdict} {again : State → State}
    (hexec : exec i s = .next (s.arrive n psn count fr form act again)) (hform : form fr = i)
    (hi : isRequest i = true) (hf : fr.ordinary i) :
    exec i s = .next (s.settle n psn count i (act s)) := by
  subst hform
  have hres : fr.reserved = false := decide_eq_false (Nat.not_le.2 (takesOpcode_request hi hf.2.2.2))
  rw [hexec, State.arrive_of_expected hr hc hp hf hres]

theorem exec_rdmaWriteInbound_of_expected (hf : fr.ordinary (.rdmaWriteInbound n psn fr va key data)) :
    exec (.rdmaWriteInbound n psn fr va key data) s = .next (s.settle n psn ((s.qp n).packets data.length)
      (.rdmaWriteInbound n psn fr va key data) (s.inWrite n va key data)) :=
  exec_request_of_expected hr hc hp (exec_rdmaWriteInbound n psn va fr key data s) rfl rfl hf

theorem exec_writeWithImmediate_of_expected (hf : fr.ordinary (.writeWithImmediate n psn fr va key data imm)) :
    exec (.writeWithImmediate n psn fr va key data imm) s = .next (s.settle n psn ((s.qp n).packets data.length)
      (.writeWithImmediate n psn fr va key data imm) (s.immSignal n (s.inWrite n va key data))) :=
  exec_request_of_expected hr hc hp (exec_writeWithImmediate n psn va fr key imm data s) rfl rfl hf

theorem exec_sendInbound_of_expected (hf : fr.ordinary (.sendInbound n psn fr data)) : exec (.sendInbound n psn fr data) s =
    .next (s.settle n psn ((s.qp n).packets data.length) (.sendInbound n psn fr data) (s.inSend n)) :=
  exec_request_of_expected hr hc hp (exec_sendInbound n psn fr data s) rfl rfl hf

theorem exec_rdmaReadInbound_of_expected (hf : fr.ordinary (.rdmaReadInbound n psn fr va key len)) :
    exec (.rdmaReadInbound n psn fr va key len) s = .next (s.settle n psn ((s.qp n).packets len)
      (.rdmaReadInbound n psn fr va key len) (s.inRead n psn va key len)) :=
  exec_request_of_expected hr hc hp (exec_rdmaReadInbound n psn va len fr key s) rfl rfl hf

theorem exec_fetchAndAdd_of_expected (hf : fr.ordinary (.fetchAndAdd n psn fr va key v)) : exec (.fetchAndAdd n psn fr va key v) s =
    .next (s.settle n psn 1 (.fetchAndAdd n psn fr va key v) (s.inAtomic n psn va key (fun o => o + v))) :=
  exec_request_of_expected hr hc hp (exec_fetchAndAdd n psn va fr key v s) rfl rfl hf

theorem exec_compareAndSwap_of_expected (hf : fr.ordinary (.compareAndSwap n psn fr va key v w)) :
    exec (.compareAndSwap n psn fr va key v w) s = .next (s.settle n psn 1 (.compareAndSwap n psn fr va key v w)
      (s.inAtomic n psn va key (fun o => if o = v then w else o))) :=
  exec_request_of_expected hr hc hp (exec_compareAndSwap n psn va fr key v w s) rfl rfl hf

/-- Either atomic is settled by its function of the old value. -/
theorem exec_atomic_of_expected {cmp swap : Word} {i : Instr} {f : Word → Word}
    (hi : i = .fetchAndAdd n psn fr va key v ∧ (∀ o, f o = o + v) ∨
      i = .compareAndSwap n psn fr va key cmp swap ∧ (∀ o, f o = if o = cmp then swap else o)) (hf : fr.ordinary i) :
    exec i s = .next (s.settle n psn 1 i (s.inAtomic n psn va key f)) := by
  rcases hi with ⟨rfl, hfun⟩ | ⟨rfl, hfun⟩
  · obtain rfl := funext hfun
    exact exec_fetchAndAdd_of_expected hr hc hp hf
  · obtain rfl := funext hfun
    exact exec_compareAndSwap_of_expected hr hc hp hf

/-- A WRITE with immediate that is done adds 1 to IMM_SEM. -/
theorem exec_writeWithImmediate_of_done {t : State} (ht : s.inWrite n va key data = (t, .done [])) (hu : (t.qp n).used = true)
    (hf : fr.ordinary (.writeWithImmediate n psn fr va key data imm)) :
    exec (.writeWithImmediate n psn fr va key data imm) s =
      .next (((if (s.qp n).immV then t.change (s.qp n).ctx (s.qp n).immSem 1 none else t).modQp n
        (fun q => q.took ((s.qp n).packets data.length))).ackTo n (psnAdd psn ((s.qp n).packets data.length - 1))) := by
  rw [exec_writeWithImmediate_of_expected hr hc hp hf, ht]
  refine congrArg Host.Outcome.next (State.settle_done_used _ _ _ ?_)
  split
  · rw [State.qp_change]
    exact hu
  · exact hu

theorem exec_sendInbound_of_taken (h : (s.qp n).session = true ∨ (s.qp n).ctx = 0) (hf : fr.ordinary (.sendInbound n psn fr data)) :
    exec (.sendInbound n psn fr data) s = .next ((s.modQp n (fun q => q.took ((s.qp n).packets data.length))).ackTo n
      (psnAdd psn ((s.qp n).packets data.length - 1))) := by
  have hin : s.inSend n = (s, .done []) := if_pos h
  rw [exec_sendInbound_of_expected hr hc hp hf, hin, State.settle_done_used _ _ _ (State.used_of_receives hr)]

theorem exec_sendInbound_of_refused (hs : (s.qp n).session = false) (h0 : (s.qp n).ctx ≠ 0)
    (hf : fr.ordinary (.sendInbound n psn fr data)) : exec (.sendInbound n psn fr data) s = .next (s.transmit n (.nak n psn 0x61)) := by
  have hin : s.inSend n = (s, .nak 0x61) := if_neg (by simp [hs, h0])
  rw [exec_sendInbound_of_expected hr hc hp hf, hin, State.settle_nak]

end

/-- Settles O28: each row by where its access lands, and by what its verdict sends. -/
theorem inboundRequestsAreServed : Obligations.InboundRequestsAreServed := by
  unfold Obligations.InboundRequestsAreServed
  refine ⟨fun n psn va len fr key imm v w data s i hi hr => ?dropped, fun n psn va fr key data imm s => ?writes,
    fun n va len s => s.regAccess_iff n va len, fun n psn va fr key len s => ?reads, fun n psn va fr key add cmp swap s i f hi => ?atomics⟩
  case dropped =>
    obtain ⟨count, form, act, again, hexec, -⟩ := exec_request (i := i) hi s
    exact ⟨fun h => hexec.trans (congrArg _ (State.arrive_of_long hr h)),
      fun h hp => hexec.trans (congrArg _ (State.arrive_of_unplain hr h hp))⟩
  case writes =>
    intro q k last write imme send words hr hc hp
    have hu : (s.qp n).used = true := State.used_of_receives hr
    refine ⟨fun ha hh hfor => ⟨Memory.writeBytes s.mem va data, fun hf => ?_, fun hf => ?_,
      fun i hi => Memory.read_writeBytes_in s.mem va data hi, fun b hb => Memory.read_writeBytes_out s.mem va data hb⟩,
      fun ha hw hf => ?_, fun h => ⟨fun hf => ?_, fun hf => ?_⟩, fun h hf => exec_sendInbound_of_taken hr hc hp h hf,
      fun hs h0 hf => exec_sendInbound_of_refused hr hc hp hs h0 hf, fun i hi hlen hplain hce hop hno => ?_⟩
    · rw [exec_rdmaWriteInbound_of_expected hr hc hp hf, State.inWrite_of_hbm ha hh hfor]
      exact congrArg Host.Outcome.next (State.settle_done_used _ _ _ hu)
    · exact exec_writeWithImmediate_of_done hr hc hp (State.inWrite_of_hbm ha hh hfor) hu hf
    · rw [exec_rdmaWriteInbound_of_expected hr hc hp hf, State.inWrite_of_words ha hw.1 hw.2]
      rfl
    · rw [exec_rdmaWriteInbound_of_expected hr hc hp hf, State.inWrite_of_refused h, State.settle_nak]
    · rw [exec_writeWithImmediate_of_expected hr hc hp hf, State.inWrite_of_refused h]
      rfl
    · have hrow : i ∈ requestRows n psn va 0 fr key imm 0 0 data := by
        simp only [List.mem_cons, List.not_mem_nil, or_false] at hi
        rcases hi with rfl | rfl | rfl <;> simp [requestRows, write, imme, send]
      obtain ⟨count, form, act, again, hexec, hform⟩ := exec_request hrow s
      exact hexec.trans (congrArg _ (State.arrive_of_misplaced hr hc hp hlen hplain hce hop (hform ▸ hno)))
  case reads =>
    intro q i words t hr hc hp hf
    have hu : (s.qp n).used = true := State.used_of_receives hr
    refine ⟨fun ha hh => ?_, fun ha hw => ?_, fun h => ?_⟩
    · rw [exec_rdmaReadInbound_of_expected hr hc hp hf, State.inRead_of_hbm ha hh, State.settle_answer _ _ _ _ hu]
      rfl
    · have hqp : t.qp n = s.qp n := s.qp_renew q.ctx n
      rw [exec_rdmaReadInbound_of_expected hr hc hp hf, State.inRead_of_words ha hw.1 hw.2,
        State.settle_answer _ _ _ _ (show (t.qp n).used = true by rw [hqp]; exact hu)]
      exact congrArg (fun u => Host.Outcome.next (State.transmit u n _)) (State.modQp_took hqp)
    · rw [exec_rdmaReadInbound_of_expected hr hc hp hf, State.inRead_of_refused h, State.settle_nak]
  case atomics =>
    intro q old hr hc hp hf
    have hu : (s.qp n).used = true := State.used_of_receives hr
    refine ⟨fun ha h8 hh => ⟨Memory.writeBytes s.mem va (leBytes 8 (f old).toNat), ?_, ?_, fun b hb => ?_⟩, fun h => ?_⟩
    · rw [exec_atomic_of_expected hr hc hp hi hf, State.inAtomic_of_hbm ha h8 hh]
      refine congrArg Host.Outcome.next ((State.settle_answer _ _ _ _ ?_).trans ?_)
      · rw [State.qp_modQp, if_pos rfl]
        exact hu
      · rw [State.modQp_modQp]
    · have hread := Memory.readBytes_writeBytes s.mem va (leBytes 8 (f old).toNat)
      rw [leBytes_length] at hread
      rw [hread, leNat_leBytes_of_lt (f old).isLt]
    · exact Memory.read_writeBytes_out s.mem va _ (by rwa [leBytes_length])
    · rw [exec_atomic_of_expected hr hc hp hi hf, State.inAtomic_of_refused h, State.settle_nak]

end Sys2Proof.Machine
end
